-- ==== Sys2Proof/Word.lean ====
section
/-! DEFINITION. The word types of the machine (R2, R72): bytes, 64-bit words, 512-byte rows and
512-bit predicates, and the canonical sparse table that holds every file of like things. -/

namespace Sys2Proof

/-- A byte (R2). -/
abbrev Byte := BitVec 8

/-- A 64-bit scalar word (R72). -/
abbrev W64 := BitVec 64

/-- 512 bytes: a vector register, a scratchpad row, an accumulator row or a generator (R64, R72, R73,
R100). Byte `j` of the row is bits `8j + 7 : 8j` (R2). -/
abbrev Row := BitVec 4096

/-- 512 bits: a predicate register or a shape record (R72, R171). -/
abbrev Pred := BitVec 512

/-- A table from numbers to values, in ONE canonical form: the numbers strictly rising, and no entry
equal to the table's default value. Equal tables are then equal lists. -/
abbrev Sparse (α : Type) := List (Nat × α)

end Sys2Proof
end

