-- ==== Sys2Proof/Syntax.lean ====
section
/-! DEFINITION. The instruction set as data: the slots of a bundle, the field records of the syllable
formats (R123, R124, R128 to R132), the inputs the outside world can give, and ONE inductive with a
constructor for every row of spec/opcode_table.json. A syllable's constructor keeps every bit of its
syllable outside the opcode, so reserved fields can be checked and trapped (R4, R122). -/

namespace Sys2Proof

/-- The eight slots of a bundle, from its lowest bits up (R120). -/
inductive Slot where
  | s | va | vb | ld | sd | m | cp | sy
  deriving DecidableEq, Repr

/-- The vector clusters A and B (R72). -/
inductive Cluster where
  | a | b
  deriving DecidableEq, Repr

/-- The S syllable less its opcode (R123). -/
structure SSyl where
  d : BitVec 6
  a : BitVec 6
  b : BitVec 6
  g : BitVec 5
  gn : BitVec 1
  imm : BitVec 32
  deriving DecidableEq, Repr

/-- The V syllable less its opcode (R124). -/
structure VSyl where
  t : BitVec 4
  d : BitVec 5
  a : BitVec 6
  b : BitVec 6
  c : BitVec 6
  p : BitVec 3
  z : BitVec 1
  m : BitVec 4
  x : BitVec 21
  deriving DecidableEq, Repr

/-- The LD and SD syllable less its opcode (R128). -/
structure LSyl where
  cl : BitVec 1
  d : BitVec 5
  blk : BitVec 3
  lane : BitVec 4
  am : BitVec 1
  sb : BitVec 6
  off : BitVec 10
  p : BitVec 3
  zero : BitVec 1
  deriving DecidableEq, Repr

/-- The header of the M and CP syllables less the opcode (R129). -/
structure EHdr where
  wsem : BitVec 8
  wthr : BitVec 8
  ssem : BitVec 8
  inc : BitVec 4
  start : BitVec 14
  g : BitVec 5
  gn : BitVec 1
  deriving DecidableEq, Repr

/-- The M operand field (R130). -/
structure MOp where
  acc : BitVec 3
  a : BitVec 6
  b : BitVec 6
  fr : BitVec 3
  blk : BitVec 3
  sv : BitVec 6
  ssel : BitVec 5
  zero : BitVec 4
  band : BitVec 1
  tri : BitVec 1
  int : BitVec 1
  clr : BitVec 1
  deriving DecidableEq, Repr

/-- The CP operand field (R131). -/
structure COp where
  sh : BitVec 5
  zero : BitVec 5
  a : BitVec 6
  b : BitVec 6
  c : BitVec 6
  acq : BitVec 1
  rel : BitVec 1
  agent : BitVec 3
  store : BitVec 3
  gsub : BitVec 4
  deriving DecidableEq, Repr

/-- The SY syllable less its opcode (R132). -/
structure YSyl where
  sill : BitVec 1
  idx : BitVec 8
  val : BitVec 8
  sc : BitVec 6
  agent : BitVec 3
  store : BitVec 3
  imm : BitVec 13
  deriving DecidableEq, Repr

/-- The states of a partition's TDI (R243). -/
inductive Tdi where
  | unlocked | locked | run | error
  deriving DecidableEq, Repr

/-- A request of the host to the function of a partition in BAR 0 (R237, R243); `trusted` when it came on the
function's IDE stream with T set. -/
structure BarReq where
  part : Nat
  trusted : Bool
  deriving DecidableEq, Repr

/-- A write that reaches doorbell `k` of a partition (R239): from the port (with `trusted` when it came
on the partition's IDE stream with the T bit set, R243) or from the device window of R241. `whole` is
true for a single aligned 8-byte write. -/
structure DbWrite where
  part : Nat
  k : Nat
  fromPort : Bool
  trusted : Bool
  whole : Bool
  value : W64
  deriving DecidableEq, Repr

/-- The operations of a PCIe AtomicOp (R237). -/
inductive HostAtomicOp where
  | fetchAdd | swap | cas
  deriving DecidableEq, Repr

/-- A host AtomicOp on a partition's BAR 2 window: `size` in bytes, operand and compare value (R215,
R237). -/
structure HostAtomic where
  part : Nat
  off : Nat
  op : HostAtomicOp
  size : Nat
  operand : W64
  compare : W64
  trusted : Bool
  deriving DecidableEq, Repr

/-- What an SPDM 1.3 requester may ask of a partition (R244). -/
inductive SpdmReq where
  | algorithms
  | measurement (index : Nat)
  deriving DecidableEq, Repr

/-- A request that arrives from a peer for memory this device owns (R229): the atomic's operation code is that of
R281, its size in bytes, its operand and its compare value. -/
inductive RemoteOp where
  | read (len : Nat)
  | write (data : List Byte)
  | atomic (op size operand compare : Nat)
  deriving DecidableEq, Repr

/-- A peer's request: a physical address within a partition, what to do, the requester's tag, the port it comes on, and
whether it is of a confidential pair, its flit group then awaiting its tag (R229, R235). -/
structure RemoteReq where
  part : Nat
  addr : Nat
  op : RemoteOp
  tag : Nat
  port : Nat
  held : Bool
  deriving DecidableEq, Repr

/-- Every step of the part: one constructor for each row of spec/opcode_table.json, the rows
without operands last. A constructor's docstring names its row and the rule the row cites. -/
inductive Instr where
  /-- NOP (R121). -/
  | nop (sl : Slot) (bits : BitVec 96)
  /-- HINT_REGION (R133). -/
  | hintRegion (sl : Slot) (bits : BitVec 96)
  /-- ADD (R276). -/
  | add (f : SSyl)
  /-- ADDI (R276). -/
  | addi (f : SSyl)
  /-- SUB (R276). -/
  | sub (f : SSyl)
  /-- AND (R276). -/
  | and (f : SSyl)
  /-- OR (R276). -/
  | or (f : SSyl)
  /-- XOR (R276). -/
  | xor (f : SSyl)
  /-- ANDN (R276). -/
  | andn (f : SSyl)
  /-- SHL (R276). -/
  | shl (f : SSyl)
  /-- SHR (R276). -/
  | shr (f : SSyl)
  /-- SAR (R276). -/
  | sar (f : SSyl)
  /-- ROTR (R276). -/
  | rotr (f : SSyl)
  /-- MINI (R276). -/
  | mini (f : SSyl)
  /-- MAXI (R276). -/
  | maxi (f : SSyl)
  /-- MINZ (R276). -/
  | minz (f : SSyl)
  /-- MAXZ (R276). -/
  | maxz (f : SSyl)
  /-- CLZ (R276). -/
  | clz (f : SSyl)
  /-- POPC (R276). -/
  | popc (f : SSyl)
  /-- MUL (R322). -/
  | mul (f : SSyl)
  /-- MULH (R322). -/
  | mulh (f : SSyl)
  /-- MULHZ (R322). -/
  | mulhz (f : SSyl)
  /-- DIV (R298). -/
  | div (f : SSyl)
  /-- DIVZ (R298). -/
  | divz (f : SSyl)
  /-- BFX (R282). -/
  | bfx (f : SSyl)
  /-- BFXZ (R282). -/
  | bfxz (f : SSyl)
  /-- BFI (R282). -/
  | bfi (f : SSyl)
  /-- SEL (R335). -/
  | sel (f : SSyl)
  /-- LI (R313). -/
  | li (f : SSyl)
  /-- LIH (R313). -/
  | lih (f : SSyl)
  /-- MOV (R321). -/
  | mov (f : SSyl)
  /-- MOV_TL (R321). -/
  | movTl (f : SSyl)
  /-- CMP (R287). -/
  | cmp (f : SSyl)
  /-- CMPI (R287). -/
  | cmpi (f : SSyl)
  /-- GSET (R304). -/
  | gset (f : SSyl)
  /-- ADDR (R280). -/
  | addr (f : SSyl)
  /-- FADD (R300). -/
  | fadd (f : SSyl)
  /-- FMUL (R300). -/
  | fmul (f : SSyl)
  /-- FFMA (R300). -/
  | ffma (f : SSyl)
  /-- FCMP (R301). -/
  | fcmp (f : SSyl)
  /-- FCVT (R302). -/
  | fcvt (f : SSyl)
  /-- BR (R283). -/
  | br (f : SSyl)
  /-- CALL (R284). -/
  | call (f : SSyl)
  /-- RET (R333). -/
  | ret (f : SSyl)
  /-- LOOP (R314). -/
  | loop (f : SSyl)
  /-- LOOPI (R314). -/
  | loopi (f : SSyl)
  /-- BRK (R285). -/
  | brk (f : SSyl)
  /-- NTREQ (R323). -/
  | ntreq (f : SSyl)
  /-- TILE_LANDING (R52). -/
  | tileLanding (cid : Nat)
  /-- SYSR (R343). -/
  | sysr (f : SSyl)
  /-- SYSW (R343). -/
  | sysw (f : SSyl)
  /-- LCB_WRITE (R25). -/
  | lcbWrite (f : SSyl)
  /-- TEB_WRITE (R70). -/
  | tebWrite (f : SSyl)
  /-- NBV_WRITE (R108). -/
  | nbvWrite (f : SSyl)
  /-- PRIO_WRITE (R48). -/
  | prioWrite (f : SSyl)
  /-- FLAGS_WRITE (R107). -/
  | flagsWrite (f : SSyl)
  /-- PHTSEL_WRITE (R262). -/
  | phtselWrite (f : SSyl)
  /-- LSTK_WRITE (R262). -/
  | lstkWrite (f : SSyl)
  /-- TRAPA_WRITE (R254). -/
  | trapaWrite (f : SSyl)
  /-- CCNR (R286). -/
  | ccnr (f : SSyl)
  /-- TRAP (R345). -/
  | trap (f : SSyl)
  /-- TRAP_HSAVE (R255). -/
  | trapHsave (f : SSyl)
  /-- TRAP_HLOAD (R255). -/
  | trapHload (f : SSyl)
  /-- TRAP_CRES (R193). -/
  | trapCres (f : SSyl)
  /-- TRAP_CABN (R193). -/
  | trapCabn (f : SSyl)
  /-- TRAP_KILL (R255). -/
  | trapKill (f : SSyl)
  /-- TRAP_CANCEL (R255). -/
  | trapCancel (f : SSyl)
  /-- RFT (R256). -/
  | rft (f : SSyl)
  /-- TEND (R344). -/
  | tend (f : SSyl)
  /-- VADD (R349). -/
  | vadd (cl : Cluster) (f : VSyl)
  /-- VSUB (R349). -/
  | vsub (cl : Cluster) (f : VSyl)
  /-- VMUL (R349). -/
  | vmul (cl : Cluster) (f : VSyl)
  /-- VMAD (R349). -/
  | vmad (cl : Cluster) (f : VSyl)
  /-- VMULW (R351). -/
  | vmulw (cl : Cluster) (f : VSyl)
  /-- VDOT4 (R352). -/
  | vdot4 (cl : Cluster) (f : VSyl)
  /-- VABS (R349). -/
  | vabs (cl : Cluster) (f : VSyl)
  /-- VNEG (R349). -/
  | vneg (cl : Cluster) (f : VSyl)
  /-- VMIN (R349). -/
  | vmin (cl : Cluster) (f : VSyl)
  /-- VMAX (R349). -/
  | vmax (cl : Cluster) (f : VSyl)
  /-- VMINP (R349). -/
  | vminp (cl : Cluster) (f : VSyl)
  /-- VMAXP (R349). -/
  | vmaxp (cl : Cluster) (f : VSyl)
  /-- VCLMP (R349). -/
  | vclmp (cl : Cluster) (f : VSyl)
  /-- VAND (R353). -/
  | vand (cl : Cluster) (f : VSyl)
  /-- VOR (R353). -/
  | vor (cl : Cluster) (f : VSyl)
  /-- VXOR (R353). -/
  | vxor (cl : Cluster) (f : VSyl)
  /-- VANDN (R353). -/
  | vandn (cl : Cluster) (f : VSyl)
  /-- VSHL (R353). -/
  | vshl (cl : Cluster) (f : VSyl)
  /-- VSHR (R353). -/
  | vshr (cl : Cluster) (f : VSyl)
  /-- VSAR (R353). -/
  | vsar (cl : Cluster) (f : VSyl)
  /-- VCLZ (R353). -/
  | vclz (cl : Cluster) (f : VSyl)
  /-- VPOPC (R353). -/
  | vpopc (cl : Cluster) (f : VSyl)
  /-- VFLR (R354). -/
  | vflr (cl : Cluster) (f : VSyl)
  /-- VCMP (R355). -/
  | vcmp (cl : Cluster) (f : VSyl)
  /-- VSEL (R356). -/
  | vsel (cl : Cluster) (f : VSyl)
  /-- VMOV (R357). -/
  | vmov (cl : Cluster) (f : VSyl)
  /-- VMOVX (R357). -/
  | vmovx (cl : Cluster) (f : VSyl)
  /-- VBCS (R357). -/
  | vbcs (cl : Cluster) (f : VSyl)
  /-- VBCL (R357). -/
  | vbcl (cl : Cluster) (f : VSyl)
  /-- VEXT (R357). -/
  | vext (cl : Cluster) (f : VSyl)
  /-- VIOTA (R357). -/
  | viota (cl : Cluster) (f : VSyl)
  /-- VPERM (R358). -/
  | vperm (cl : Cluster) (f : VSyl)
  /-- VROT (R358). -/
  | vrot (cl : Cluster) (f : VSyl)
  /-- VZIP (R359). -/
  | vzip (cl : Cluster) (f : VSyl)
  /-- VUZP (R359). -/
  | vuzp (cl : Cluster) (f : VSyl)
  /-- VCVT (R361). -/
  | vcvt (cl : Cluster) (f : VSyl)
  /-- VWID (R362). -/
  | vwid (cl : Cluster) (f : VSyl)
  /-- VNAR (R362). -/
  | vnar (cl : Cluster) (f : VSyl)
  /-- VSCL (R363). -/
  | vscl (cl : Cluster) (f : VSyl)
  /-- VBIN (R364). -/
  | vbin (cl : Cluster) (f : VSyl)
  /-- VUNBN (R364). -/
  | vunbn (cl : Cluster) (f : VSyl)
  /-- VEXP2 (R365). -/
  | vexp2 (cl : Cluster) (f : VSyl)
  /-- VLOG2 (R365). -/
  | vlog2 (cl : Cluster) (f : VSyl)
  /-- VRCP (R365). -/
  | vrcp (cl : Cluster) (f : VSyl)
  /-- VRSQ (R365). -/
  | vrsq (cl : Cluster) (f : VSyl)
  /-- VSQRT (R365). -/
  | vsqrt (cl : Cluster) (f : VSyl)
  /-- VRNGS (R366). -/
  | vrngs (cl : Cluster) (f : VSyl)
  /-- VRNG (R367). -/
  | vrng (cl : Cluster) (f : VSyl)
  /-- VRED (R368). -/
  | vred (cl : Cluster) (f : VSyl)
  /-- VRAMX (R369). -/
  | vramx (cl : Cluster) (f : VSyl)
  /-- VRAMN (R369). -/
  | vramn (cl : Cluster) (f : VSyl)
  /-- VSCAN (R370). -/
  | vscan (cl : Cluster) (f : VSyl)
  /-- VCAS (R371). -/
  | vcas (cl : Cluster) (f : VSyl)
  /-- PAND (R325). -/
  | pand (cl : Cluster) (f : VSyl)
  /-- POR (R325). -/
  | por (cl : Cluster) (f : VSyl)
  /-- PXOR (R325). -/
  | pxor (cl : Cluster) (f : VSyl)
  /-- PANDN (R325). -/
  | pandn (cl : Cluster) (f : VSyl)
  /-- PMOV (R325). -/
  | pmov (cl : Cluster) (f : VSyl)
  /-- PSET (R326). -/
  | pset (cl : Cluster) (f : VSyl)
  /-- PFIRST (R326). -/
  | pfirst (cl : Cluster) (f : VSyl)
  /-- PCNT (R326). -/
  | pcnt (cl : Cluster) (f : VSyl)
  /-- LD (R308). -/
  | ld (f : LSyl)
  /-- LD_SP (R312). -/
  | ldSp (f : LSyl)
  /-- LDC (R309). -/
  | ldc (f : LSyl)
  /-- LDS (R310). -/
  | lds (f : LSyl)
  /-- LDS_SP (R312). -/
  | ldsSp (f : LSyl)
  /-- LDT (R311). -/
  | ldt (f : LSyl)
  /-- ST (R340). -/
  | st (f : LSyl)
  /-- STC (R340). -/
  | stc (f : LSyl)
  /-- STS (R340). -/
  | sts (f : LSyl)
  /-- STT (R341). -/
  | stt (f : LSyl)
  /-- STZ (R340). -/
  | stz (f : LSyl)
  /-- RESULT_LANDING (R74). -/
  | resultLanding (cid : Nat)
  /-- TIMED_LOAD_ROW_READ (R62). -/
  | timedLoadRowRead (cid : Nat)
  /-- TIMED_STORE_ROW_WRITE (R62). -/
  | timedStoreRowWrite (cid : Nat)
  /-- MLW (R160). -/
  | mlw (h : EHdr) (o : MOp)
  /-- MMA (R163). -/
  | mma (h : EHdr) (o : MOp)
  /-- MDRN (R166). -/
  | mdrn (h : EHdr) (o : MOp)
  /-- MDRC (R167). -/
  | mdrc (h : EHdr) (o : MOp)
  /-- MCLR (R165). -/
  | mclr (h : EHdr) (o : MOp)
  /-- MWSW (R161). -/
  | mwsw (h : EHdr) (o : MOp)
  /-- MMSK (R162). -/
  | mmsk (h : EHdr) (o : MOp)
  /-- MATRIX_COMMAND_COMPLETION (R158). -/
  | matrixCommandCompletion (core : Nat)
  /-- CPY (R295). -/
  | cpy (h : EHdr) (o : COp)
  /-- CPW (R293). -/
  | cpw (h : EHdr) (o : COp)
  /-- CPX (R292). -/
  | cpx (h : EHdr) (o : COp)
  /-- CPMC (R292). -/
  | cpmc (h : EHdr) (o : COp)
  /-- CPG (R289). -/
  | cpg (h : EHdr) (o : COp)
  /-- CPS (R289). -/
  | cps (h : EHdr) (o : COp)
  /-- CPAA (R288). -/
  | cpaa (h : EHdr) (o : COp)
  /-- CPLD (R290). -/
  | cpld (h : EHdr) (o : COp)
  /-- CPST (R290). -/
  | cpst (h : EHdr) (o : COp)
  /-- AMO (R281). -/
  | amo (h : EHdr) (o : COp)
  /-- VAMO (R373). -/
  | vamo (h : EHdr) (o : COp)
  /-- PFT (R329). -/
  | pft (h : EHdr) (o : COp)
  /-- STRM (R342). -/
  | strm (h : EHdr) (o : COp)
  /-- STRM_GRAPH_REPLACE (R188). -/
  | strmGraphReplace (core cmd : Nat)
  /-- INVP (R306). -/
  | invp (h : EHdr) (o : COp)
  /-- SHPL (R339). -/
  | shpl (h : EHdr) (o : COp)
  /-- SWAIT (R337). -/
  | swait (f : YSyl)
  /-- SSIG (R336). -/
  | ssig (f : YSyl)
  /-- SSET (R336). -/
  | sset (f : YSyl)
  /-- SFAA (R336). -/
  | sfaa (f : YSyl)
  /-- SCAS (R338). -/
  | scas (f : YSyl)
  /-- SEMAPHORE_UPDATE_APPLY (R212). -/
  | semaphoreUpdateApply (core : Nat)
  /-- PHREG (R219). -/
  | phreg (f : YSyl)
  /-- PHDRP (R219). -/
  | phdrp (f : YSyl)
  /-- PHARV (R219). -/
  | pharv (f : YSyl)
  /-- PHWT (R219). -/
  | phwt (f : YSyl)
  /-- PHAW (R219). -/
  | phaw (f : YSyl)
  /-- PEND (R328). -/
  | pend (f : YSyl)
  /-- SIGN_OFF_SEND (R42). -/
  | signOffSend (cid : Nat)
  /-- SIGN_OFF_ARRIVAL (R41). -/
  | signOffArrival (part task : Nat)
  /-- PHASE_START (R41). -/
  | phaseStart (part task : Nat)
  /-- PSEL (R332). -/
  | psel (f : YSyl)
  /-- FENCE (R303). -/
  | fence (f : YSyl)
  /-- YIELD (R374). -/
  | yield (f : YSyl)
  /-- HINT (R305). -/
  | hint (f : YSyl)
  /-- SELECTED_CONTEXT_ISSUE (R46). -/
  | selectedContextIssue (core : Nat)
  /-- TIMED_COMMAND_BEGIN (R54). -/
  | timedCommandBegin (core cmd : Nat)
  /-- UNTIMED_COMMAND_BEGIN (R55). -/
  | untimedCommandBegin (core cmd : Nat)
  /-- COPY_COMMAND_COMPLETION (R176). -/
  | copyCommandCompletion (core cmd : Nat)
  /-- PACKET_ISSUE (R175). -/
  | packetIssue (core : Nat)
  /-- PACKET_REPLY (R176). -/
  | packetReply (core pkt : Nat)
  /-- PACKET_PERFORM (R176). -/
  | packetPerform (core pkt : Nat)
  /-- CORRECTABLE_THRESHOLD_CROSSED (R197). -/
  | correctableThresholdCrossed (part granule : Nat)
  /-- REFRESH_LIMIT_REACHED (R177). -/
  | refreshLimitReached (part ctrl : Nat)
  /-- TLB_WALK_COMPLETE (R192). -/
  | tlbWalkComplete (part die page : Nat)
  /-- COMPRESSED_PAGE_EXPANSION (R195). -/
  | compressedPageExpansion (part page : Nat)
  /-- ACCESS_COUNTER_THRESHOLD (R231). -/
  | accessCounterThreshold (part die region : Nat)
  /-- SCRUBBER_PASS (R80). -/
  | scrubberPass (core : Nat)
  /-- LAUNCH_TASK_RECORD (R30). -/
  | launchTaskRecord (part ring : Nat)
  /-- LAUNCH_NOP_RECORD (R29). -/
  | launchNopRecord (part ring : Nat)
  /-- RING_STAMP_WAIT_EXPIRY (R27). -/
  | ringStampWaitExpiry (part ring : Nat)
  /-- GANG_BIND (R35). -/
  | gangBind (part task : Nat)
  /-- PREEMPTION_REQUEST (R49). -/
  | preemptionRequest (part task : Nat)
  /-- GANG_REBIND (R50). -/
  | gangRebind (part task : Nat)
  /-- TASK_COMPLETION (R32). -/
  | taskCompletion (part task : Nat)
  /-- SUPERVISOR_EVENT_DISPATCH (R254). -/
  | supervisorEventDispatch (core : Nat)
  /-- DOORBELL_WRITE (R239). -/
  | doorbellWrite (w : DbWrite)
  /-- DBC_WRITE (R240). -/
  | dbcWrite (req : BarReq) (k : Nat) (v : W64)
  /-- DBH_WRITE (R240). -/
  | dbhWrite (req : BarReq) (k : Nat) (v : W64)
  /-- DBIGN_WRITE (R238). -/
  | dbignWrite (req : BarReq) (k : Nat)
  /-- HOST_BAR2_WRITE (R237). -/
  | hostBar2Write (part off : Nat) (data : List Byte) (trusted : Bool)
  /-- HOST_BAR2_READ (R237). -/
  | hostBar2Read (part off len : Nat) (trusted : Bool)
  /-- HOST_ATOMICOP (R237). -/
  | hostAtomicop (r : HostAtomic)
  /-- MSIX_VECTOR_UNMASK (R242). -/
  | msixVectorUnmask (req : BarReq) (vec : Nat)
  /-- IDE_INTEGRITY_FAILURE (R243). -/
  | ideIntegrityFailure (part : Nat)
  /-- SPDM_REQUEST (R244). -/
  | spdmRequest (part : Nat) (req : SpdmReq)
  /-- FLIT_RECEIVE (R232). -/
  | flitReceive (port seq : Nat) (crcOk : Bool) (payload : W64)
  /-- LINK_ACK (R232). -/
  | linkAck (port base : Nat) (bitmap : BitVec 256) (nak : Bool)
  /-- LINK_RETRAIN (R232). -/
  | linkRetrain (port : Nat) (ok : Bool)
  /-- GCM_TAG_VERIFY (R235). -/
  | gcmTagVerify (port : Nat) (ok : Bool)
  /-- LANE_FAILURE (R228). -/
  | laneFailure (port good : Nat)
  /-- FABRIC_RESPONSE_TIMEOUT (R233). -/
  | fabricResponseTimeout (core pkt : Nat)
  /-- REMOTE_REQUEST_ARRIVAL (R229). -/
  | remoteRequestArrival (r : RemoteReq)
  /-- POWER_LIMITER (R13). -/
  | powerLimiter (overBudget : Bool)
  /-- CONTROLLER_RETRAIN_COMPLETE (R274). -/
  | controllerRetrainComplete (part ctrl : Nat)
  /-- ILLEGAL_OPCODE (R133). -/
  | illegalOpcode (sl : Slot) (bits : BitVec 96)
  /-- TDISP_REQUEST (R243). -/
  | tdispRequest (part : Nat) (target : Tdi)
  /-- PHASER_VIEW_UPDATE (R219). -/
  | phaserViewUpdate (core ph : Nat)
  /-- PARTSET (R247). -/
  | partset
  /-- FABADDR (R247). -/
  | fabaddr
  /-- PBASE (R247). -/
  | pbase
  /-- PAIR (R247). -/
  | pair
  /-- XROOT (R247). -/
  | xroot
  /-- XINVAL (R192). -/
  | xinval
  /-- EXPOOL (R247). -/
  | expool
  /-- COMPRESS (R195). -/
  | compress
  /-- PEERCOPY (R247). -/
  | peercopy
  /-- ERRLOG (R247). -/
  | errlog
  /-- FAQ (R247). -/
  | faq
  /-- MIGQ (R247). -/
  | migq
  /-- CETHR (R247). -/
  | cethr
  /-- PHALLOT (R247). -/
  | phallot
  /-- LATCHL (R247). -/
  | latchl
  /-- PHYSMAP (R247). -/
  | physmap
  /-- SIGNER (R247). -/
  | signer
  /-- LOAD (R270). -/
  | load
  /-- CANCEL (R258). -/
  | cancel
  /-- WRESET (R273). -/
  | wreset
  /-- BADADD (R247). -/
  | badadd
  /-- BADREAD (R247). -/
  | badread
  /-- RETIRE (R18). -/
  | retire
  /-- COUNTERS (R247). -/
  | counters
  /-- PORTS (R247). -/
  | ports
  /-- TRACE (R247). -/
  | trace
  /-- FWPROV (R247). -/
  | fwprov
  /-- MAILBOX_COMMAND_COMPLETE (R246). -/
  | mailboxCommandComplete
  /-- COLD_RESET (R200). -/
  | coldReset
  /-- UNKNOWN_OPC (R246). -/
  | unknownOpc
  deriving DecidableEq, Repr

end Sys2Proof
end

