-- ==== Sys2Proof/Machine/Encoding.lean ====
section
/-! DEFINITION. The checks a syllable's own bits decide (R4, R121 to R132 and each entry of the
instruction reference): illegal encodings and non-zero reserved fields. They are made at issue
whatever the guard (R123). Checks that need the machine's state stand with the meanings. -/

namespace Sys2Proof.Machine

/-- What the bits of a syllable alone raise (R122, R249). -/
structure Enc where
  illegal : Bool
  reserved : Bool
  deriving DecidableEq, Repr

/-- Bits `h` down to `l` of a field, as a number (R2). -/
def bits {n : Nat} (x : BitVec n) (h l : Nat) : Nat := (x.extractLsb' l (h + 1 - l)).toNat

/-- True when a field is not zero. -/
def nz {n : Nat} (x : BitVec n) : Bool := x != 0

/-- True when bits `h` down to `l` are not all zero. -/
def nzBits {n : Nat} (x : BitVec n) (h l : Nat) : Bool := bits x h l != 0

end Sys2Proof.Machine

namespace Sys2Proof

open Machine

/-- The 12-bit register number of SYSR and SYSW (R140). -/
def SSyl.sysNum (f : SSyl) : Nat := bits f.imm 11 0
/-- SSEL of the XC form (R127). -/
def VSyl.ssel (f : VSyl) : Nat := bits f.x 20 16
/-- SC of the XC form (R127). -/
def VSyl.sc (f : VSyl) : Bool := f.x.getLsbD 15
/-- FR of the XC form (R127). -/
def VSyl.fr (f : VSyl) : Nat := bits f.x 14 12
/-- DFMT of the XC form (R127). -/
def VSyl.dfmt (f : VSyl) : Nat := bits f.x 11 6
/-- ROP of the XR form (R127). -/
def VSyl.rop (f : VSyl) : Nat := bits f.x 20 18
/-- The source format code of VCVT and VWID: T, or B when T is 11 (R360). -/
def VSyl.srcFmt (f : VSyl) : Nat := if f.t.toNat = 11 then f.b.toNat else f.t.toNat

end Sys2Proof

namespace Sys2Proof.Machine

/-- The register numbers SYSR and SYSW know (R140). -/
def sysKnown (n : Nat) : Bool :=
  n ≤ 2 || (0x8 ≤ n && n ≤ 0xC) || (0x10 ≤ n && n ≤ 0x17) || (0x20 ≤ n && n ≤ 0x22) ||
    (0x24 ≤ n && n ≤ 0x27) || (0x30 ≤ n && n ≤ 0x32) || n == 0x40


/-- Two sources and a zero immediate (R276, R322). -/
def encS3 (f : SSyl) : Enc := ⟨false, nz f.imm⟩
/-- One source and a zero immediate (R276). -/
def encS2 (f : SSyl) : Enc := ⟨false, nz f.imm || nz f.b⟩
/-- No field used (R323, R333, R334, R344). -/
def encS0 (f : SSyl) : Enc := ⟨false, nz f.imm || nz f.b || nz f.a || nz f.d⟩
/-- The shifts use every field (R276). -/
def encShift (_ : SSyl) : Enc := ⟨false, false⟩
/-- DIV and DIVZ use IMM[0] (R298). -/
def encDiv (f : SSyl) : Enc := ⟨false, nzBits f.imm 31 1⟩
/-- The bit-field forms (R282). -/
def encBf (f : SSyl) : Enc :=
  ⟨false, nzBits f.imm 7 7 || nzBits f.imm 31 16 ||
    (if bits f.imm 15 15 = 1 then nzBits f.imm 14 0 else nz f.b)⟩
/-- The conditions 0 to 10 of CMP and CMPI (R287). -/
def encCmp (f : SSyl) (unused : Bool) : Enc := ⟨bits f.imm 3 0 > 10, unused⟩
/-- FADD, FMUL, FFMA: format in IMM[1:0] (R299). -/
def encFarith (f : SSyl) : Enc := ⟨bits f.imm 1 0 == 3, nzBits f.imm 31 2⟩
/-- FCMP: format and condition (R301). -/
def encFcmp (f : SSyl) : Enc := ⟨bits f.imm 1 0 == 3 || bits f.imm 5 2 > 7, nzBits f.imm 31 6⟩
/-- FCVT: source and destination codes (R302). -/
def encFcvt (f : SSyl) : Enc :=
  let src := bits f.imm 3 0
  let dst := bits f.imm 7 4
  ⟨src > 6 || dst > 6 || (src ≥ 3 && dst ≥ 3), nz f.b || nzBits f.imm 31 8⟩
/-- LOOP and LOOPI: END from 3 (R314). -/
def encLoop (f : SSyl) (unused : Bool) : Enc := ⟨bits f.imm 19 0 < 3, unused⟩
/-- SYSR: A and B zero, a known register (R140, R343). -/
def encSysr (f : SSyl) : Enc := ⟨!sysKnown f.sysNum, nz f.a || nz f.b || nzBits f.imm 31 12⟩
/-- SYSW: D and B zero, a known register (R140, R343). -/
def encSysw (f : SSyl) : Enc := ⟨!sysKnown f.sysNum, nz f.d || nz f.b || nzBits f.imm 31 12⟩
/-- TRAP with IMM[31] clear, or with a function that does not exist (R255, R345). -/
def encTrap (f : SSyl) : Enc :=
  if bits f.imm 31 31 = 0 then ⟨false, nz f.d || nz f.a || nz f.b⟩
  else ⟨bits f.imm 30 27 ≥ 6 || bits f.imm 2 0 ≥ 4, nz f.b || nzBits f.imm 26 4⟩
/-- The supervisor functions (R255): `addr` when A is used, which are also the two that allow CORE. -/
def encTrapFn (f : SSyl) (addr : Bool) : Enc :=
  ⟨bits f.imm 2 0 ≥ 4, nz f.b || nzBits f.imm 26 4 || (!addr && (nz f.a || nzBits f.imm 3 3))⟩

/-- A source code that names a register or a bypass (R125). -/
def srcOk (c : BitVec 6) : Bool := c.toNat < 40
/-- T in a range (R126, R347). -/
def tIn (f : VSyl) (lo hi : Nat) : Bool := lo ≤ f.t.toNat && f.t.toNat ≤ hi
/-- The elements per register of a T code, by its container (R81, R126). -/
def tCount (t : Nat) : Nat :=
  match t with
  | 0 | 4 => 1024
  | 1 | 5 => 512
  | 2 | 6 | 9 | 10 => 256
  | _ => 128
/-- True for the mode value 7, which is reserved (R96, R348). -/
def badMode (f : VSyl) : Bool := bits f.m 2 0 == 7
/-- The XC form without a scale: SSEL, SC, FR and the low bits zero (R127, R347). -/
def xcPlain (f : VSyl) : Bool := nzBits f.x 20 12 || nzBits f.x 5 0
/-- The XC form's own rules: SSEL zero without SC, low bits zero (R127). -/
def xcRes (f : VSyl) : Bool := (!f.sc && f.ssel != 0) || nzBits f.x 5 0

/-- Element-wise arithmetic (R349): `nsrc` sources, T up to 10, DFMT equal to T; `mode` when M is a
rounding mode, otherwise only M[3] on integer types. -/
def encArith (f : VSyl) (nsrc lo : Nat) (mode : Bool) : Enc :=
  ⟨!tIn f lo 10 || f.dfmt != f.t.toNat || !srcOk f.a || (nsrc ≥ 2 && !srcOk f.b) ||
      (nsrc ≥ 3 && !srcOk f.c) || (mode && badMode f),
   xcPlain f || (nsrc < 2 && nz f.b) || (nsrc < 3 && nz f.c) ||
      (!mode && (nzBits f.m 2 0 || (f.t.toNat ≥ 8 && nz f.m)))⟩
/-- Two sources, the XI form with X zero, T up to `hi` (R353). -/
def encBit (f : VSyl) (hi : Nat) : Enc :=
  ⟨!tIn f 0 hi || !srcOk f.a || !srcOk f.b, nz f.c || nz f.m || nz f.x⟩
/-- One source, X zero, T from `lo` to `hi` (R353, R357). -/
def encOne (f : VSyl) (lo hi : Nat) : Enc :=
  ⟨!tIn f lo hi || !srcOk f.a, nz f.b || nz f.c || nz f.m || nz f.x⟩
/-- The shifts: immediate or register count (R353). -/
def encVshift (f : VSyl) : Enc :=
  ⟨!tIn f 0 7 || !srcOk f.a || (!f.x.getLsbD 20 && !srcOk f.b),
   nz f.c || nz f.m || (if f.x.getLsbD 20 then nz f.b || nzBits f.x 19 5 else nzBits f.x 19 0)⟩
/-- VFLR (R354). -/
def encVflr (f : VSyl) : Enc :=
  ⟨!tIn f 8 10 || !srcOk f.a || badMode f, nz f.b || nz f.c || nz f.x⟩
/-- VCMP (R355). -/
def encVcmp (f : VSyl) : Enc :=
  ⟨!tIn f 0 10 || !srcOk f.a || !srcOk f.b || f.m.toNat ≥ 8 || (f.m.toNat ≥ 6 && f.t.toNat < 8),
   nz f.c || nz f.x || nzBits f.d 4 3⟩
/-- VSEL (R356). -/
def encVsel (f : VSyl) : Enc :=
  ⟨!tIn f 0 10 || !srcOk f.a || !srcOk f.b, nz f.c || nz f.m || nzBits f.x 20 3⟩
/-- VMOVX: A names a register of the other cluster, 0 to 31 (R125, R357). -/
def encVmovx (f : VSyl) : Enc :=
  ⟨!tIn f 0 10 || f.a.toNat ≥ 32, nz f.b || nz f.c || nz f.m || nz f.x⟩
/-- VBCS: A names a scalar (R357). -/
def encVbcs (f : VSyl) : Enc := ⟨!tIn f 0 10, nz f.b || nz f.c || nz f.m || nz f.x⟩
/-- VBCL and VEXT: an element number below N (R357). -/
def encVbcl (f : VSyl) (ext : Bool) : Enc :=
  ⟨!tIn f 0 10 || !srcOk f.a || bits f.x 9 0 ≥ tCount f.t.toNat,
   nz f.b || nz f.c || nz f.m || nzBits f.x 20 10 || (ext && (nz f.p || nz f.z))⟩
/-- VIOTA (R357). -/
def encViota (f : VSyl) : Enc := ⟨!tIn f 0 7, nz f.b || nz f.c || nz f.m⟩
/-- A register group of `n` that starts at a multiple of `n`, named by a code below 32 (R105, R346). -/
def groupOk (c n : Nat) : Bool := c < 32 && c % n == 0
/-- VPERM: the index registers of R358. -/
def encVperm (f : VSyl) : Enc :=
  let n := match f.t.toNat with | 1 | 5 => 2 | 0 | 4 => 4 | _ => 1
  ⟨!tIn f 0 10 || !srcOk f.a || (if n = 1 then !srcOk f.b else !groupOk f.b.toNat n),
   nz f.c || nz f.m || nzBits f.x 20 1⟩
/-- VROT (R358). -/
def encVrot (f : VSyl) : Enc :=
  ⟨!tIn f 0 10 || !srcOk f.a, nz f.b || nz f.c || nz f.m || nzBits f.x 20 10⟩
/-- VZIP and VUZP (R359). -/
def encVzip (f : VSyl) : Enc :=
  ⟨!tIn f 0 10 || !srcOk f.a || !srcOk f.b || 2 ^ bits f.x 3 0 > tCount f.t.toNat || !groupOk f.d.toNat 2,
   nz f.c || nz f.m || nzBits f.x 20 4⟩
/-- A source format code VCVT and VWID take through B (R360). -/
def srcFmtOk (b : Nat) : Bool :=
  b == 11 || (16 ≤ b && b ≤ 21) || (24 ≤ b && b ≤ 31) || (32 ≤ b && b ≤ 45) || b == 47
/-- A destination format code of VCVT (R360). -/
def dstFmtOk (d : Nat) : Bool := d ≤ 11 || (16 ≤ d && d ≤ 21) || (24 ≤ d && d ≤ 31)
/-- VCVT and VWID: format codes; VWID takes no scale, and its FR is zero unless a code 11 uses it (R127, R347, R360,
R362). -/
def encCvt (f : VSyl) (scaled : Bool) : Enc :=
  ⟨f.t.toNat ≥ 12 || (f.t.toNat = 11 && !srcFmtOk f.b.toNat) || !dstFmtOk f.dfmt || !srcOk f.a ||
      (scaled && badMode f) || (scaled && f.sc && !srcOk f.c),
   xcRes f || (f.t.toNat ≠ 11 && nz f.b) || (!scaled && f.srcFmt ≠ 11 && f.dfmt ≠ 11 && f.fr ≠ 0) ||
      (!(scaled && f.sc) && nz f.c) || (!scaled && (f.sc || nz f.m))⟩
/-- The container width of an integer T code (R81, R82). -/
def intWidth (t : Nat) : Nat := 4 * 2 ^ (t % 4)
/-- VNAR: an integer type to a narrower one, a pair or a quad (R362). -/
def encVnar (f : VSyl) : Enc :=
  let r := intWidth f.t.toNat / intWidth f.dfmt
  ⟨!tIn f 0 7 || f.dfmt ≥ 8 || !(r == 2 || r == 4) || !groupOk f.a.toNat r,
   xcPlain f || nz f.b || nz f.c || nzBits f.m 2 0⟩
/-- VSCL (R363). -/
def encVscl (f : VSyl) : Enc :=
  ⟨!tIn f 8 10 || !(f.dfmt ≤ 1 || (16 ≤ f.dfmt && f.dfmt ≤ 20) || (24 ≤ f.dfmt && f.dfmt ≤ 31)) ||
      !f.sc || f.c.toNat ≥ 32 || f.c.toNat == f.d.toNat || !srcOk f.a || badMode f,
   nz f.b || nzBits f.x 5 0⟩
/-- VBIN and VUNBN (R364): `sat` when M is a mode field, whose low bits are ignored. -/
def encVbin (f : VSyl) (sat : Bool) : Enc :=
  ⟨f.t.toNat != 8 || f.dfmt != 0 || !srcOk f.a,
   xcPlain f || nz f.c || (!sat && nz f.m)⟩
/-- The special functions (R365). -/
def encSpecial (f : VSyl) : Enc :=
  ⟨!tIn f 8 10 || f.dfmt != f.t.toNat || !srcOk f.a || badMode f, xcPlain f || nz f.b || nz f.c⟩
/-- VMULW: the pairs of types of R351; a format register's own width is checked with the state. -/
def encVmulw (f : VSyl) : Enc :=
  let t := f.t.toNat
  let r := if t < 8 then intWidth f.dfmt / intWidth t else 2
  let okT :=
    if t ≤ 2 then f.dfmt ≤ 3 && (r == 2 || r == 4)
    else if 4 ≤ t && t ≤ 6 then 4 ≤ f.dfmt && f.dfmt ≤ 7 && (r == 2 || r == 4)
    else if t == 9 || t == 10 then f.dfmt == 8
    else t == 11 && 8 ≤ f.dfmt && f.dfmt ≤ 10
  ⟨!okT || !srcOk f.a || !srcOk f.b || badMode f || (t != 11 && !groupOk f.d.toNat r) ||
      (f.sc && t == 11 && !srcOk f.c),
   xcRes f || (t != 11 && (f.sc || f.fr != 0)) || (!f.sc && nz f.c)⟩
/-- VDOT4 (R352): M[2:0] is ignored, but 7 is illegal on an integer type (R348). -/
def encVdot4 (f : VSyl) : Enc :=
  let t := f.t.toNat
  ⟨!(t ≤ 2 || (4 ≤ t && t ≤ 6) || t == 9 || t == 10 || t == 11) ||
      f.dfmt != (if t ≤ 7 then 3 else 8) || f.sc || !srcOk f.a || !srcOk f.b || !srcOk f.c || (t < 8 && badMode f),
   (f.ssel != 0 && !f.sc) || nzBits f.x 5 0 || (t != 11 && f.fr != 0)⟩
/-- VRNGS (R366); T from 11 up is illegal (R126). -/
def encVrngs (f : VSyl) : Enc :=
  ⟨f.t.toNat ≥ 11, nz f.t || nz f.d || nz f.b || nz f.c || nz f.p || nz f.z || nz f.m || nz f.x⟩
/-- VRNG (R367). -/
def encVrng (f : VSyl) : Enc := ⟨!tIn f 7 8, nz f.a || nz f.b || nz f.c || nz f.m || nz f.x⟩
/-- The XR form (R127, R368, R370): `scan` when EXC and SEG are used. -/
def encXr (f : VSyl) (scan : Bool) : Enc :=
  ⟨!tIn f 0 10 || f.rop ≥ 6 || !srcOk f.a || badMode f ||
      ((f.rop == 3 || f.rop == 4) && f.t.toNat ≥ 8),
   nz f.b || nz f.c || nzBits f.x 12 0 ||
     (if scan then !f.x.getLsbD 16 && nzBits f.x 15 13 else nz f.z || nzBits f.x 17 13)⟩
/-- VRAMX and VRAMN (R369). -/
def encVram (f : VSyl) : Enc :=
  ⟨!tIn f 0 10 || !srcOk f.a || f.rop ≥ 6, nz f.b || nz f.c || nz f.m || nz f.z || nz f.x⟩
/-- VCAS (R371). -/
def encVcas (f : VSyl) : Enc :=
  let dir := bits f.x 7 4
  ⟨!tIn f 0 10 || !srcOk f.a || f.b.toNat ≥ 32 || !groupOk f.d.toNat 2 || (11 ≤ dir && dir ≤ 14) ||
      2 ^ bits f.x 3 0 ≥ tCount f.t.toNat,
   nz f.c || nz f.m || nzBits f.x 20 9⟩
/-- PAND to PMOV (R325): predicates through the low three bits, X zero; the one T they list is 0 (R347). -/
def encPbit (f : VSyl) (two : Bool) : Enc :=
  ⟨nz f.t, nz f.c || nz f.m || nz f.x || nzBits f.d 4 3 || nzBits f.a 5 3 ||
    (if two then nzBits f.b 5 3 else nz f.b)⟩
/-- The T values of PSET, PFIRST and PCNT (R326). -/
def pcOk (f : VSyl) : Bool := tIn f 1 3 || tIn f 5 10
/-- PSET: A names a scalar (R326). -/
def encPset (f : VSyl) : Enc := ⟨!pcOk f, nz f.b || nz f.c || nz f.m || nzBits f.d 4 3⟩
/-- PFIRST (R326). -/
def encPfirst (f : VSyl) : Enc :=
  ⟨!pcOk f, nz f.b || nz f.c || nz f.m || nz f.x || nzBits f.d 4 3 || nzBits f.a 5 3⟩
/-- PCNT (R326). -/
def encPcnt (f : VSyl) : Enc :=
  ⟨!pcOk f, nz f.b || nz f.c || nz f.m || nz f.x || nz f.p || nz f.z || nzBits f.a 5 3⟩

/-- The station of a register file: VA 3, VB 5, LS 7 (R59, R61). -/
def station (scalar : Bool) (cl : BitVec 1) : Nat := if scalar then 7 else if cl = 0 then 3 else 5

/-- The hop count of a transfer on a lane between a block and a station (R61): clockwise on lanes 0 to
7, anticlockwise on 8 to 15, from source to destination. -/
def hops (load : Bool) (blk lane st : Nat) : Nat :=
  let src := if load then 2 * blk else st
  let dst := if load then st else 2 * blk
  if lane < 8 then (dst + 16 - src) % 16 else (src + 16 - dst) % 16

/-- The lanes a program may name (R60). -/
def laneOk (lane : Nat) : Bool := lane % 8 ≤ 3

/-- LD and SD syllables (R60, R61, R128, R308, R340): whether the station is LS, whether AM may be 1,
which of P and D must be zero. -/
def encL (load scalar am pZero : Bool) (dRes : Bool) (f : LSyl) : Enc :=
  ⟨!laneOk f.lane.toNat || hops load f.blk.toNat f.lane.toNat (station scalar f.cl) > 8 ||
      (!am && nz f.am),
   nz f.zero || (pZero && nz f.p) || dRes⟩

/-- A matrix command must be timed (R153); its unused fields must be zero (R154). -/
def encM (h : EHdr) (o : MOp) (illegal unused : Bool) : Enc :=
  ⟨h.start == 0x3FFF || illegal, nz o.zero || unused⟩

/-- The scope rules of a CP command (R131) with its own unused fields. -/
def encC (o : COp) (illegal unused : Bool) : Enc :=
  ⟨illegal || ((nz o.acq || nz o.rel) && o.store == 0),
   nz o.zero || unused || (!nz o.acq && !nz o.rel && (nz o.agent || nz o.store))⟩

/-- The rule of R207 for an SY syllable that may carry scopes, with its own unused fields. -/
def encYscope (f : YSyl) (unused : Bool) : Enc := ⟨false, unused || (nz f.agent && f.store == 0)⟩

/-- Everything the bits of an instruction's own syllable raise; a step of the hardware raises nothing. -/
def enc (i : Instr) : Enc :=
  match i with
  | .nop sl w => ⟨false, if sl = .sy then nz (w &&& ~~~(BitVec.ofNat 96 (2 ^ 41))) else nz w⟩
  | .hintRegion _ _ => ⟨false, false⟩
  | .illegalOpcode _ _ => ⟨true, false⟩
  | .add f | .sub f | .and f | .or f | .xor f | .andn f | .mini f | .maxi f | .minz f | .maxz f
  | .mul f | .mulh f | .mulhz f => encS3 f
  | .addi f => ⟨false, nz f.b⟩
  | .shl f | .shr f | .sar f | .rotr f => encShift f
  | .clz f | .popc f => encS2 f
  | .div f | .divz f => encDiv f
  | .bfx f | .bfxz f | .bfi f => encBf f
  | .sel f => ⟨false, nzBits f.imm 31 6⟩
  | .li f => ⟨false, nz f.a || nz f.b⟩
  | .lih f => ⟨false, nz f.b⟩
  | .mov f => ⟨false, nz f.b || nzBits f.imm 31 3⟩
  | .movTl f => ⟨false, nz f.a || nz f.b || nzBits f.imm 31 3⟩
  | .cmp f => encCmp f (nzBits f.imm 31 4)
  | .cmpi f => encCmp f (nz f.b)
  | .gset f => ⟨false, nzBits f.d 5 5 || nz f.b || nzBits f.imm 31 1⟩
  | .addr f => ⟨false, nzBits f.imm 7 6⟩
  | .fadd f | .fmul f | .ffma f => encFarith f
  | .fcmp f => encFcmp f
  | .fcvt f => encFcvt f
  | .br f | .call f => ⟨false, nz f.d || nz f.a⟩
  | .ret f | .brk f | .ntreq f | .rft f | .tend f => encS0 f
  | .loop f => encLoop f (nz f.d || nz f.b)
  | .loopi f => encLoop f (nz f.d || nz f.b || nz f.a)
  | .sysr f => encSysr f
  | .sysw f | .lcbWrite f | .tebWrite f | .nbvWrite f | .prioWrite f | .flagsWrite f | .phtselWrite f
  | .lstkWrite f | .trapaWrite f => encSysw f
  | .ccnr f => ⟨false, nz f.a || nz f.b || nz f.imm⟩
  | .trap f => encTrap f
  | .trapHsave f | .trapHload f => encTrapFn f true
  | .trapCres f | .trapCabn f | .trapKill f | .trapCancel f => encTrapFn f false
  | .vadd _ f | .vsub _ f | .vmul _ f => encArith f 2 0 true
  | .vmad _ f => encArith f 3 0 true
  | .vmulw _ f => encVmulw f
  | .vdot4 _ f => encVdot4 f
  | .vabs _ f | .vneg _ f => encArith f 1 0 false
  | .vmin _ f | .vmax _ f => encArith f 2 0 false
  | .vminp _ f | .vmaxp _ f => encArith f 2 8 false
  | .vclmp _ f => encArith f 3 0 false
  | .vand _ f | .vor _ f | .vxor _ f | .vandn _ f => encBit f 10
  | .vshl _ f | .vshr _ f | .vsar _ f => encVshift f
  | .vclz _ f | .vpopc _ f => encOne f 0 7
  | .vflr _ f => encVflr f
  | .vcmp _ f => encVcmp f
  | .vsel _ f => encVsel f
  | .vmov _ f => encOne f 0 10
  | .vmovx _ f => encVmovx f
  | .vbcs _ f => encVbcs f
  | .vbcl _ f => encVbcl f false
  | .vext _ f => encVbcl f true
  | .viota _ f => encViota f
  | .vperm _ f => encVperm f
  | .vrot _ f => encVrot f
  | .vzip _ f | .vuzp _ f => encVzip f
  | .vcvt _ f => encCvt f true
  | .vwid _ f => encCvt f false
  | .vnar _ f => encVnar f
  | .vscl _ f => encVscl f
  | .vbin _ f => encVbin f false
  | .vunbn _ f => encVbin f true
  | .vexp2 _ f | .vlog2 _ f | .vrcp _ f | .vrsq _ f | .vsqrt _ f => encSpecial f
  | .vrngs _ f => encVrngs f
  | .vrng _ f => encVrng f
  | .vred _ f => encXr f false
  | .vramx _ f | .vramn _ f => encVram f
  | .vscan _ f => encXr f true
  | .vcas _ f => encVcas f
  | .pand _ f | .por _ f | .pxor _ f | .pandn _ f => encPbit f true
  | .pmov _ f => encPbit f false
  | .pset _ f => encPset f
  | .pfirst _ f => encPfirst f
  | .pcnt _ f => encPcnt f
  | .ld f | .ldSp f => encL true false true true false f
  | .ldc f => encL true false false true (nzBits f.d 4 3) f
  | .lds f | .ldsSp f | .ldt f => encL true true false true false f
  | .st f => encL false false true false false f
  | .stc f => encL false false false false (nzBits f.d 4 3) f
  | .sts f | .stt f => encL false true false true false f
  | .stz f => encL false false true false (nz f.d) f
  | .mlw h o => encM h o false (nz o.acc || nz o.ssel || nz o.band || nz o.tri || nz o.int || nz o.clr)
  | .mma h o => encM h o (nz o.tri && nz o.band) false
  | .mdrn h o => encM h o false (nz o.sv || nz o.ssel || nz o.band || nz o.tri || nz o.clr)
  | .mdrc h o => encM h o false (nz o.blk || nz o.sv || nz o.ssel || nz o.band || nz o.tri || nz o.clr)
  | .mclr h o =>
    encM h o false (nz o.a || nz o.fr || nz o.blk || nz o.sv || nz o.ssel || nz o.band || nz o.tri ||
      nz o.int || nz o.clr)
  | .mwsw h o =>
    encM h o false (nz o.acc || nz o.a || nz o.b || nz o.fr || nz o.blk || nz o.sv || nz o.ssel ||
      nz o.band || nz o.tri || nz o.int || nz o.clr)
  | .mmsk h o =>
    encM h o false (nz o.acc || nz o.a || nz o.fr || nz o.blk || nz o.sv || nz o.ssel ||
      nz o.band || nz o.tri || nz o.int || nz o.clr)
  | .cpy _ o | .cpw _ o => encC o false false
  | .cpx _ o => encC o false (nz o.sh || nz o.c || nz o.gsub)
  | .cpmc _ o => encC o false (nz o.sh || nz o.gsub)
  | .cpg _ o | .cps _ o => encC o (nz o.gsub) false
  | .cpaa _ o => encC o (o.gsub.toNat > 1) (o.gsub == 0 && nz o.c)
  | .cpld _ o | .cpst _ o => encC o false (nz o.sh || nz o.c || nz o.gsub)
  | .amo _ o => encC o (o.gsub.toNat ≥ 11) (nz o.sh || nz o.c)
  | .vamo _ o => encC o (o.gsub.toNat ≥ 11) (nz o.sh)
  | .pft _ o => encC o (nz o.acq || nz o.rel) (nz o.a || nz o.c || nz o.gsub)
  | .strm _ o => encC o (o.gsub == 0) (nz o.sh || nz o.b || nz o.c)
  | .invp _ o => encC o false (nz o.sh || nz o.c || nz o.gsub)
  | .shpl _ o => encC o false (nz o.b || nz o.c || nz o.gsub || nz o.acq || nz o.rel)
  | .swait f | .ssig f => encYscope f (nz f.sc || nz f.imm)
  | .sset f | .scas f => encYscope f (nz f.val || nz f.imm)
  | .sfaa f => encYscope f (nz f.imm)
  | .phreg f =>
    ⟨bits f.imm 1 0 == 0, nz f.idx || nz f.val || nz f.agent || nz f.store || nzBits f.imm 12 2⟩
  | .phdrp f => ⟨false, nz f.idx || nz f.val || nz f.agent || nz f.store || nz f.imm⟩
  | .pharv f | .phwt f | .phaw f => encYscope f (nz f.idx || nz f.val || nz f.imm)
  | .pend f => ⟨false, nz f.sc || nz f.agent || nz f.store || nz f.imm⟩
  | .psel f => ⟨false, nz f.idx || nz f.agent || nz f.store || nzBits f.imm 12 7 || nzBits f.val 7 7⟩
  | .fence f => ⟨f.store == 0, nz f.idx || nz f.val || nz f.sc || nz f.imm⟩
  | .yield f =>
    ⟨f.sill == 0, nz f.idx || nz f.val || nz f.sc || nz f.agent || nz f.store || nz f.imm⟩
  | .hint f =>
    ⟨bits f.imm 3 0 > 3, nzBits f.imm 12 4 || nz f.idx || nz f.sc || nz f.agent || nz f.store⟩
  | .tileLanding _ | .resultLanding _ | .timedLoadRowRead _ | .timedStoreRowWrite _
  | .matrixCommandCompletion _ | .strmGraphReplace _ _ | .semaphoreUpdateApply _ | .signOffSend _
  | .signOffArrival _ _ | .phaseStart _ _ | .selectedContextIssue _ | .timedCommandBegin _ _
  | .untimedCommandBegin _ _ | .copyCommandCompletion _ _ | .packetIssue _ | .packetReply _ _
  | .packetPerform _ _ | .correctableThresholdCrossed _ _ | .refreshLimitReached _ _
  | .tlbWalkComplete _ _ _ | .compressedPageExpansion _ _ | .accessCounterThreshold _ _ _
  | .scrubberPass _ | .launchTaskRecord _ _ | .launchNopRecord _ _ | .ringStampWaitExpiry _ _
  | .gangBind _ _ | .preemptionRequest _ _ | .gangRebind _ _ | .taskCompletion _ _
  | .supervisorEventDispatch _ | .doorbellWrite _ | .dbcWrite _ _ _ | .dbhWrite _ _ _
  | .dbignWrite _ _ | .hostBar2Write _ _ _ _ | .hostBar2Read _ _ _ _ | .hostAtomicop _
  | .msixVectorUnmask _ _ | .ideIntegrityFailure _ | .spdmRequest _ _ | .partset | .fabaddr
  | .pbase | .pair | .xroot | .xinval | .expool | .compress | .peercopy | .errlog
  | .faq | .migq | .cethr | .phallot | .latchl | .physmap | .signer | .load
  | .cancel | .wreset | .badadd | .badread | .retire | .counters | .ports | .trace
  | .fwprov | .mailboxCommandComplete | .flitReceive _ _ _ _ | .linkAck _ _ _ _ | .linkRetrain _ _
  | .gcmTagVerify _ _ | .laneFailure _ _ | .fabricResponseTimeout _ _ | .remoteRequestArrival _
  | .powerLimiter _ | .coldReset | .controllerRetrainComplete _ _ | .tdispRequest _ _ | .unknownOpc
  | .phaserViewUpdate _ _ => ⟨false, false⟩

end Sys2Proof.Machine
end

