-- ==== Sys2Proof/WellFormed.lean ====
section
/-! DEFINITION. Well-formed instructions: the syllable's bits raise nothing (R122), and the bits that
tell two rows of one opcode apart are the row's own (R140, R255, R321). -/

namespace Sys2Proof

/-- A syllable of the hint region of its slot (R133). -/
def hintSyllable (sl : Slot) (w : BitVec 96) : Bool :=
  match sl with
  | .s | .va | .vb => w.toNat / 2 ^ 56 / 32 == 7
  | .ld | .sd => w.toNat / 2 ^ 34 / 8 == 7
  | .m | .cp => w.toNat / 2 ^ 88 / 32 == 7
  | .sy => w.toNat / 2 ^ 42 / 8 == 7 && w.toNat / 2 ^ 42 != 0x38

/-- The bits that tell rows of one opcode apart: MOV and its tl form by IMM[2] (R321), SYSW by the
register (R140), TRAP by IMM[31:27] (R255), and the opcodes of the hint region (R133). -/
def Instr.tagOk : Instr → Bool
  | .hintRegion sl w => hintSyllable sl w
  | .mov f => !f.imm.getLsbD 2
  | .movTl f => f.imm.getLsbD 2
  | .lcbWrite f => Machine.bits f.imm 11 0 == 0x40
  | .tebWrite f => Machine.bits f.imm 11 0 == 0x22
  | .nbvWrite f => Machine.bits f.imm 11 0 == 0x8
  | .prioWrite f => Machine.bits f.imm 11 0 == 0x2
  | .flagsWrite f => Machine.bits f.imm 11 0 == 0xB
  | .phtselWrite f => Machine.bits f.imm 11 0 == 0x21
  | .lstkWrite f => Machine.bits f.imm 11 0 == 0x20
  | .trapaWrite f => Machine.bits f.imm 11 0 == 0x31
  | .sysw f => !([0x40, 0x22, 0x8, 0x2, 0xB, 0x21, 0x20, 0x31].contains (Machine.bits f.imm 11 0))
  | .trapHsave f => Machine.bits f.imm 31 27 == 16
  | .trapHload f => Machine.bits f.imm 31 27 == 17
  | .trapCres f => Machine.bits f.imm 31 27 == 18
  | .trapCabn f => Machine.bits f.imm 31 27 == 19
  | .trapKill f => Machine.bits f.imm 31 27 == 20
  | .trapCancel f => Machine.bits f.imm 31 27 == 21
  | .trap f => !([16, 17, 18, 19, 20, 21].contains (Machine.bits f.imm 31 27))
  | _ => true

/-- A well-formed instruction: it raises no encoding trap, and its distinguishing bits are its own. -/
def Instr.wf (i : Instr) : Bool :=
  let e := Machine.enc i
  !e.illegal && !e.reserved && i.tagOk

end Sys2Proof
end

