-- ==== Sys2Proof/Decode.lean ====
section
/-! DEFINITION. Decoding bundles into instructions and back (R120 to R138). Decoding is total: a value
that names no instruction becomes the constructor illegalOpcode, which raises the illegal-instruction
trap (R133). The encoder is written from the same tables. -/

namespace Sys2Proof

/-- The lowest bundle bit of a slot's syllable (R120). -/
def Slot.lo : Slot → Nat
  | .s => 0 | .va => 64 | .vb => 128 | .ld => 192 | .sd => 232 | .m => 272 | .cp => 368 | .sy => 464

/-- The width of a slot's syllable (R120). -/
def Slot.width : Slot → Nat
  | .s => 64 | .va => 64 | .vb => 64 | .ld => 40 | .sd => 40 | .m => 96 | .cp => 96 | .sy => 48

/-- The number TRAPV.SYL gives a slot, its rank from the lowest bundle bits (R122, R254). -/
def Slot.num : Slot → Nat
  | .s => 0 | .va => 1 | .vb => 2 | .ld => 3 | .sd => 4 | .m => 5 | .cp => 6 | .sy => 7

/-- All slots in ascending bundle bits (R120). -/
def Slot.all : List Slot := [.s, .va, .vb, .ld, .sd, .m, .cp, .sy]

/-- The opcode field of a syllable that is right-aligned in `w` (R120). -/
def opField (sl : Slot) (w : BitVec 96) : Nat :=
  match sl with
  | .s | .va | .vb => (w.extractLsb' 56 8).toNat
  | .ld | .sd => (w.extractLsb' 34 6).toNat
  | .m | .cp => (w.extractLsb' 88 8).toNat
  | .sy => (w.extractLsb' 42 6).toNat

/-- The fields of an S syllable (R123). -/
def decS (w : BitVec 96) : SSyl :=
  ⟨w.extractLsb' 50 6, w.extractLsb' 44 6, w.extractLsb' 38 6, w.extractLsb' 33 5, w.extractLsb' 32 1,
   w.extractLsb' 0 32⟩

/-- The S syllable with an opcode (R123). -/
def encS (op : BitVec 8) (f : SSyl) : BitVec 96 :=
  (op ++ f.d ++ f.a ++ f.b ++ f.g ++ f.gn ++ f.imm : BitVec 64).setWidth 96

/-- The fields of a V syllable (R124). -/
def decV (w : BitVec 96) : VSyl :=
  ⟨w.extractLsb' 52 4, w.extractLsb' 47 5, w.extractLsb' 41 6, w.extractLsb' 35 6, w.extractLsb' 29 6,
   w.extractLsb' 26 3, w.extractLsb' 25 1, w.extractLsb' 21 4, w.extractLsb' 0 21⟩

/-- The V syllable with an opcode (R124). -/
def encV (op : BitVec 8) (f : VSyl) : BitVec 96 :=
  (op ++ f.t ++ f.d ++ f.a ++ f.b ++ f.c ++ f.p ++ f.z ++ f.m ++ f.x : BitVec 64).setWidth 96

/-- The fields of an LD or SD syllable (R128). -/
def decL (w : BitVec 96) : LSyl :=
  ⟨w.extractLsb' 33 1, w.extractLsb' 28 5, w.extractLsb' 25 3, w.extractLsb' 21 4, w.extractLsb' 20 1,
   w.extractLsb' 14 6, w.extractLsb' 4 10, w.extractLsb' 1 3, w.extractLsb' 0 1⟩

/-- The LD or SD syllable with an opcode (R128). -/
def encL (op : BitVec 6) (f : LSyl) : BitVec 96 :=
  (op ++ f.cl ++ f.d ++ f.blk ++ f.lane ++ f.am ++ f.sb ++ f.off ++ f.p ++ f.zero : BitVec 40).setWidth 96

/-- The header of an M or CP syllable (R129). -/
def decH (w : BitVec 96) : EHdr :=
  ⟨w.extractLsb' 80 8, w.extractLsb' 72 8, w.extractLsb' 64 8, w.extractLsb' 60 4, w.extractLsb' 46 14,
   w.extractLsb' 41 5, w.extractLsb' 40 1⟩

/-- The M operand field (R130). -/
def decMOp (w : BitVec 96) : MOp :=
  ⟨w.extractLsb' 37 3, w.extractLsb' 31 6, w.extractLsb' 25 6, w.extractLsb' 22 3, w.extractLsb' 19 3,
   w.extractLsb' 13 6, w.extractLsb' 8 5, w.extractLsb' 4 4, w.extractLsb' 3 1, w.extractLsb' 2 1,
   w.extractLsb' 1 1, w.extractLsb' 0 1⟩

/-- The CP operand field (R131). -/
def decCOp (w : BitVec 96) : COp :=
  ⟨w.extractLsb' 35 5, w.extractLsb' 30 5, w.extractLsb' 24 6, w.extractLsb' 18 6, w.extractLsb' 12 6,
   w.extractLsb' 11 1, w.extractLsb' 10 1, w.extractLsb' 7 3, w.extractLsb' 4 3, w.extractLsb' 0 4⟩

/-- The M syllable with an opcode (R129, R130). -/
def encM (op : BitVec 8) (h : EHdr) (o : MOp) : BitVec 96 :=
  op ++ h.wsem ++ h.wthr ++ h.ssem ++ h.inc ++ h.start ++ h.g ++ h.gn ++
    o.acc ++ o.a ++ o.b ++ o.fr ++ o.blk ++ o.sv ++ o.ssel ++ o.zero ++ o.band ++ o.tri ++ o.int ++ o.clr

/-- The CP syllable with an opcode (R129, R131). -/
def encC (op : BitVec 8) (h : EHdr) (o : COp) : BitVec 96 :=
  op ++ h.wsem ++ h.wthr ++ h.ssem ++ h.inc ++ h.start ++ h.g ++ h.gn ++
    o.sh ++ o.zero ++ o.a ++ o.b ++ o.c ++ o.acq ++ o.rel ++ o.agent ++ o.store ++ o.gsub

/-- The fields of an SY syllable (R132). -/
def decY (w : BitVec 96) : YSyl :=
  ⟨w.extractLsb' 41 1, w.extractLsb' 33 8, w.extractLsb' 25 8, w.extractLsb' 19 6, w.extractLsb' 16 3,
   w.extractLsb' 13 3, w.extractLsb' 0 13⟩

/-- The SY syllable with an opcode (R132). -/
def encY (op : BitVec 6) (f : YSyl) : BitVec 96 :=
  (op ++ f.sill ++ f.idx ++ f.val ++ f.sc ++ f.agent ++ f.store ++ f.imm : BitVec 48).setWidth 96

/-- SYSW by the register it names (R140, R343): the registers whose write is a step of its own. -/
def decSysw (f : SSyl) : Instr :=
  match (f.imm.extractLsb' 0 12).toNat with
  | 0x40 => .lcbWrite f
  | 0x22 => .tebWrite f
  | 0x8 => .nbvWrite f
  | 0x2 => .prioWrite f
  | 0xb => .flagsWrite f
  | 0x21 => .phtselWrite f
  | 0x20 => .lstkWrite f
  | 0x31 => .trapaWrite f
  | _ => .sysw f

/-- TRAP by IMM[31] and FUNC (R255, R345); a FUNC from 6 to 15 stays with TRAP, which traps it. -/
def decTrap (f : SSyl) : Instr :=
  match (f.imm.extractLsb' 27 5).toNat with
  | 16 => .trapHsave f
  | 17 => .trapHload f
  | 18 => .trapCres f
  | 19 => .trapCabn f
  | 20 => .trapKill f
  | 21 => .trapCancel f
  | _ => .trap f

/-- What an opcode outside the listed ones names: a hint, or an illegal opcode (R133). -/
def unlisted (sl : Slot) (hint : Bool) (w : BitVec 96) : Instr :=
  if hint then .hintRegion sl w else .illegalOpcode sl w

/-- The S-slot opcodes (R134); IMM[2] of opcode 0x1D tells MOV from its tl form (R321). -/
def decodeS (w : BitVec 96) : Instr :=
  match opField .s w with
  | 0 => .nop .s w
  | 0x01 => .add (decS w)
  | 0x02 => .addi (decS w)
  | 0x03 => .sub (decS w)
  | 0x04 => .mul (decS w)
  | 0x05 => .mulh (decS w)
  | 0x06 => .mulhz (decS w)
  | 0x07 => .div (decS w)
  | 0x08 => .divz (decS w)
  | 0x09 => .and (decS w)
  | 0x0a => .or (decS w)
  | 0x0b => .xor (decS w)
  | 0x0c => .andn (decS w)
  | 0x0d => .shl (decS w)
  | 0x0e => .shr (decS w)
  | 0x0f => .sar (decS w)
  | 0x10 => .rotr (decS w)
  | 0x11 => .mini (decS w)
  | 0x12 => .maxi (decS w)
  | 0x13 => .minz (decS w)
  | 0x14 => .maxz (decS w)
  | 0x15 => .clz (decS w)
  | 0x16 => .popc (decS w)
  | 0x17 => .bfx (decS w)
  | 0x18 => .bfxz (decS w)
  | 0x19 => .bfi (decS w)
  | 0x1a => .sel (decS w)
  | 0x1b => .li (decS w)
  | 0x1c => .lih (decS w)
  | 0x1d => if (decS w).imm.getLsbD 2 then .movTl (decS w) else .mov (decS w)
  | 0x1e => .cmp (decS w)
  | 0x1f => .cmpi (decS w)
  | 0x20 => .gset (decS w)
  | 0x21 => .addr (decS w)
  | 0x22 => .fadd (decS w)
  | 0x23 => .fmul (decS w)
  | 0x24 => .ffma (decS w)
  | 0x25 => .fcmp (decS w)
  | 0x26 => .fcvt (decS w)
  | 0x30 => .br (decS w)
  | 0x31 => .call (decS w)
  | 0x32 => .ret (decS w)
  | 0x33 => .loop (decS w)
  | 0x34 => .loopi (decS w)
  | 0x35 => .brk (decS w)
  | 0x36 => .ntreq (decS w)
  | 0x38 => .sysr (decS w)
  | 0x39 => decSysw (decS w)
  | 0x3a => .ccnr (decS w)
  | 0x3c => decTrap (decS w)
  | 0x3d => .rft (decS w)
  | 0x3e => .tend (decS w)
  | op => unlisted .s (0xE0 ≤ op && op ≤ 0xFF) w

/-- The opcodes of a vector slot (R135): the same in both clusters. -/
def decodeV (sl : Slot) (cl : Cluster) (w : BitVec 96) : Instr :=
  match opField sl w with
  | 0 => .nop sl w
  | 0x01 => .vadd cl (decV w)
  | 0x02 => .vsub cl (decV w)
  | 0x03 => .vmul cl (decV w)
  | 0x04 => .vmad cl (decV w)
  | 0x05 => .vmulw cl (decV w)
  | 0x06 => .vdot4 cl (decV w)
  | 0x07 => .vabs cl (decV w)
  | 0x08 => .vneg cl (decV w)
  | 0x09 => .vmin cl (decV w)
  | 0x0a => .vmax cl (decV w)
  | 0x0b => .vminp cl (decV w)
  | 0x0c => .vmaxp cl (decV w)
  | 0x0d => .vclmp cl (decV w)
  | 0x10 => .vand cl (decV w)
  | 0x11 => .vor cl (decV w)
  | 0x12 => .vxor cl (decV w)
  | 0x13 => .vandn cl (decV w)
  | 0x14 => .vshl cl (decV w)
  | 0x15 => .vshr cl (decV w)
  | 0x16 => .vsar cl (decV w)
  | 0x17 => .vclz cl (decV w)
  | 0x18 => .vpopc cl (decV w)
  | 0x19 => .vflr cl (decV w)
  | 0x1a => .vcmp cl (decV w)
  | 0x1b => .vsel cl (decV w)
  | 0x20 => .vmov cl (decV w)
  | 0x21 => .vmovx cl (decV w)
  | 0x22 => .vbcs cl (decV w)
  | 0x23 => .vbcl cl (decV w)
  | 0x24 => .vext cl (decV w)
  | 0x25 => .vperm cl (decV w)
  | 0x26 => .vrot cl (decV w)
  | 0x27 => .vzip cl (decV w)
  | 0x28 => .vuzp cl (decV w)
  | 0x29 => .viota cl (decV w)
  | 0x30 => .vwid cl (decV w)
  | 0x31 => .vnar cl (decV w)
  | 0x32 => .vcvt cl (decV w)
  | 0x33 => .vscl cl (decV w)
  | 0x34 => .vbin cl (decV w)
  | 0x35 => .vunbn cl (decV w)
  | 0x38 => .vexp2 cl (decV w)
  | 0x39 => .vlog2 cl (decV w)
  | 0x3a => .vrcp cl (decV w)
  | 0x3b => .vrsq cl (decV w)
  | 0x3c => .vsqrt cl (decV w)
  | 0x3d => .vrngs cl (decV w)
  | 0x3e => .vrng cl (decV w)
  | 0x40 => .vred cl (decV w)
  | 0x41 => .vramx cl (decV w)
  | 0x42 => .vramn cl (decV w)
  | 0x43 => .vscan cl (decV w)
  | 0x44 => .vcas cl (decV w)
  | 0x50 => .pand cl (decV w)
  | 0x51 => .por cl (decV w)
  | 0x52 => .pxor cl (decV w)
  | 0x53 => .pandn cl (decV w)
  | 0x54 => .pmov cl (decV w)
  | 0x55 => .pset cl (decV w)
  | 0x56 => .pfirst cl (decV w)
  | 0x57 => .pcnt cl (decV w)
  | op => unlisted sl (0xE0 ≤ op && op ≤ 0xFF) w

/-- The LD-slot opcodes (R136). -/
def decodeLd (w : BitVec 96) : Instr :=
  match opField .ld w with
  | 0 => .nop .ld w
  | 0x01 => .ld (decL w)
  | 0x02 => .ldc (decL w)
  | 0x03 => .lds (decL w)
  | 0x04 => .ldt (decL w)
  | 0x09 => .ldSp (decL w)
  | 0x0b => .ldsSp (decL w)
  | op => unlisted .ld (0x38 ≤ op && op ≤ 0x3F) w

/-- The SD-slot opcodes (R136). -/
def decodeSd (w : BitVec 96) : Instr :=
  match opField .sd w with
  | 0 => .nop .sd w
  | 0x01 => .st (decL w)
  | 0x02 => .stc (decL w)
  | 0x03 => .sts (decL w)
  | 0x04 => .stt (decL w)
  | 0x05 => .stz (decL w)
  | op => unlisted .sd (0x38 ≤ op && op ≤ 0x3F) w

/-- The M-slot opcodes (R137). -/
def decodeM (w : BitVec 96) : Instr :=
  match opField .m w with
  | 0 => .nop .m w
  | 0x01 => .mlw (decH w) (decMOp w)
  | 0x02 => .mma (decH w) (decMOp w)
  | 0x03 => .mdrn (decH w) (decMOp w)
  | 0x04 => .mdrc (decH w) (decMOp w)
  | 0x05 => .mclr (decH w) (decMOp w)
  | 0x06 => .mwsw (decH w) (decMOp w)
  | 0x07 => .mmsk (decH w) (decMOp w)
  | op => unlisted .m (0xE0 ≤ op && op ≤ 0xFF) w

/-- The CP-slot opcodes (R137). -/
def decodeC (w : BitVec 96) : Instr :=
  match opField .cp w with
  | 0 => .nop .cp w
  | 0x01 => .cpy (decH w) (decCOp w)
  | 0x02 => .cpw (decH w) (decCOp w)
  | 0x03 => .cpx (decH w) (decCOp w)
  | 0x04 => .cpmc (decH w) (decCOp w)
  | 0x05 => .cpg (decH w) (decCOp w)
  | 0x06 => .cps (decH w) (decCOp w)
  | 0x07 => .cpaa (decH w) (decCOp w)
  | 0x08 => .cpld (decH w) (decCOp w)
  | 0x09 => .cpst (decH w) (decCOp w)
  | 0x0a => .amo (decH w) (decCOp w)
  | 0x0b => .vamo (decH w) (decCOp w)
  | 0x0c => .pft (decH w) (decCOp w)
  | 0x0d => .strm (decH w) (decCOp w)
  | 0x0e => .invp (decH w) (decCOp w)
  | 0x0f => .shpl (decH w) (decCOp w)
  | op => unlisted .cp (0xE0 ≤ op && op ≤ 0xFF) w

/-- The SY-slot opcodes (R138). -/
def decodeY (w : BitVec 96) : Instr :=
  match opField .sy w with
  | 0 => .nop .sy w
  | 0x01 => .swait (decY w)
  | 0x02 => .ssig (decY w)
  | 0x03 => .sset (decY w)
  | 0x04 => .sfaa (decY w)
  | 0x05 => .scas (decY w)
  | 0x08 => .phreg (decY w)
  | 0x09 => .phdrp (decY w)
  | 0x0a => .pharv (decY w)
  | 0x0b => .phwt (decY w)
  | 0x0c => .phaw (decY w)
  | 0x10 => .pend (decY w)
  | 0x11 => .psel (decY w)
  | 0x12 => .fence (decY w)
  | 0x13 => .yield (decY w)
  | 0x38 => .hint (decY w)
  | op => unlisted .sy (0x39 ≤ op && op ≤ 0x3F) w

/-- The instruction of a syllable that is right-aligned in `w`: total on every value (R133). -/
def decodeSyl (sl : Slot) (w : BitVec 96) : Instr :=
  match sl with
  | .s => decodeS w
  | .va => decodeV .va .a w
  | .vb => decodeV .vb .b w
  | .ld => decodeLd w
  | .sd => decodeSd w
  | .m => decodeM w
  | .cp => decodeC w
  | .sy => decodeY w

/-- A slot's syllable of a bundle, right-aligned (R120). -/
def syllable (b : BitVec 512) (sl : Slot) : BitVec 96 :=
  (b.extractLsb' sl.lo 96) &&& BitVec.ofNat 96 (2 ^ sl.width - 1)

/-- A bundle's eight instructions in ascending bundle bits (R120). -/
def decodeBundle (b : BitVec 512) : List (Slot × Instr) :=
  Slot.all.map fun sl => (sl, decodeSyl sl (syllable b sl))

/-- A bundle from its 64 bytes, the lowest address first (R2, R120); any other number of bytes is no
bundle. -/
def bundleOfBytes (bs : List Byte) : Option (BitVec 512) :=
  if bs.length = 64 then some (BitVec.ofNat 512 (bs.foldr (fun x acc => x.toNat + 256 * acc) 0)) else none

/-- The slot of a vector cluster (R120). -/
def Cluster.slot : Cluster → Slot
  | .a => .va
  | .b => .vb

/-- The syllable of an instruction with the slot it goes to (R120 to R138); a step of the hardware has
none. -/
def encodeSyl (i : Instr) : Option (Slot × BitVec 96) :=
  match i with
  | .nop sl w => some (sl, w)
  | .hintRegion sl w => some (sl, w)
  | .illegalOpcode sl w => some (sl, w)
  | .add f => some (.s, encS 0x01 f)
  | .addi f => some (.s, encS 0x02 f)
  | .sub f => some (.s, encS 0x03 f)
  | .mul f => some (.s, encS 0x04 f)
  | .mulh f => some (.s, encS 0x05 f)
  | .mulhz f => some (.s, encS 0x06 f)
  | .div f => some (.s, encS 0x07 f)
  | .divz f => some (.s, encS 0x08 f)
  | .and f => some (.s, encS 0x09 f)
  | .or f => some (.s, encS 0x0a f)
  | .xor f => some (.s, encS 0x0b f)
  | .andn f => some (.s, encS 0x0c f)
  | .shl f => some (.s, encS 0x0d f)
  | .shr f => some (.s, encS 0x0e f)
  | .sar f => some (.s, encS 0x0f f)
  | .rotr f => some (.s, encS 0x10 f)
  | .mini f => some (.s, encS 0x11 f)
  | .maxi f => some (.s, encS 0x12 f)
  | .minz f => some (.s, encS 0x13 f)
  | .maxz f => some (.s, encS 0x14 f)
  | .clz f => some (.s, encS 0x15 f)
  | .popc f => some (.s, encS 0x16 f)
  | .bfx f => some (.s, encS 0x17 f)
  | .bfxz f => some (.s, encS 0x18 f)
  | .bfi f => some (.s, encS 0x19 f)
  | .sel f => some (.s, encS 0x1a f)
  | .li f => some (.s, encS 0x1b f)
  | .lih f => some (.s, encS 0x1c f)
  | .cmp f => some (.s, encS 0x1e f)
  | .cmpi f => some (.s, encS 0x1f f)
  | .gset f => some (.s, encS 0x20 f)
  | .addr f => some (.s, encS 0x21 f)
  | .fadd f => some (.s, encS 0x22 f)
  | .fmul f => some (.s, encS 0x23 f)
  | .ffma f => some (.s, encS 0x24 f)
  | .fcmp f => some (.s, encS 0x25 f)
  | .fcvt f => some (.s, encS 0x26 f)
  | .br f => some (.s, encS 0x30 f)
  | .call f => some (.s, encS 0x31 f)
  | .ret f => some (.s, encS 0x32 f)
  | .loop f => some (.s, encS 0x33 f)
  | .loopi f => some (.s, encS 0x34 f)
  | .brk f => some (.s, encS 0x35 f)
  | .ntreq f => some (.s, encS 0x36 f)
  | .sysr f => some (.s, encS 0x38 f)
  | .ccnr f => some (.s, encS 0x3a f)
  | .rft f => some (.s, encS 0x3d f)
  | .tend f => some (.s, encS 0x3e f)
  | .mov f => some (.s, encS 0x1d f)
  | .movTl f => some (.s, encS 0x1d f)
  | .sysw f => some (.s, encS 0x39 f)
  | .lcbWrite f => some (.s, encS 0x39 f)
  | .tebWrite f => some (.s, encS 0x39 f)
  | .nbvWrite f => some (.s, encS 0x39 f)
  | .prioWrite f => some (.s, encS 0x39 f)
  | .flagsWrite f => some (.s, encS 0x39 f)
  | .phtselWrite f => some (.s, encS 0x39 f)
  | .lstkWrite f => some (.s, encS 0x39 f)
  | .trapaWrite f => some (.s, encS 0x39 f)
  | .trap f => some (.s, encS 0x3c f)
  | .trapHsave f => some (.s, encS 0x3c f)
  | .trapHload f => some (.s, encS 0x3c f)
  | .trapCres f => some (.s, encS 0x3c f)
  | .trapCabn f => some (.s, encS 0x3c f)
  | .trapKill f => some (.s, encS 0x3c f)
  | .trapCancel f => some (.s, encS 0x3c f)
  | .vadd cl f => some (cl.slot, encV 0x01 f)
  | .vsub cl f => some (cl.slot, encV 0x02 f)
  | .vmul cl f => some (cl.slot, encV 0x03 f)
  | .vmad cl f => some (cl.slot, encV 0x04 f)
  | .vmulw cl f => some (cl.slot, encV 0x05 f)
  | .vdot4 cl f => some (cl.slot, encV 0x06 f)
  | .vabs cl f => some (cl.slot, encV 0x07 f)
  | .vneg cl f => some (cl.slot, encV 0x08 f)
  | .vmin cl f => some (cl.slot, encV 0x09 f)
  | .vmax cl f => some (cl.slot, encV 0x0a f)
  | .vminp cl f => some (cl.slot, encV 0x0b f)
  | .vmaxp cl f => some (cl.slot, encV 0x0c f)
  | .vclmp cl f => some (cl.slot, encV 0x0d f)
  | .vand cl f => some (cl.slot, encV 0x10 f)
  | .vor cl f => some (cl.slot, encV 0x11 f)
  | .vxor cl f => some (cl.slot, encV 0x12 f)
  | .vandn cl f => some (cl.slot, encV 0x13 f)
  | .vshl cl f => some (cl.slot, encV 0x14 f)
  | .vshr cl f => some (cl.slot, encV 0x15 f)
  | .vsar cl f => some (cl.slot, encV 0x16 f)
  | .vclz cl f => some (cl.slot, encV 0x17 f)
  | .vpopc cl f => some (cl.slot, encV 0x18 f)
  | .vflr cl f => some (cl.slot, encV 0x19 f)
  | .vcmp cl f => some (cl.slot, encV 0x1a f)
  | .vsel cl f => some (cl.slot, encV 0x1b f)
  | .vmov cl f => some (cl.slot, encV 0x20 f)
  | .vmovx cl f => some (cl.slot, encV 0x21 f)
  | .vbcs cl f => some (cl.slot, encV 0x22 f)
  | .vbcl cl f => some (cl.slot, encV 0x23 f)
  | .vext cl f => some (cl.slot, encV 0x24 f)
  | .vperm cl f => some (cl.slot, encV 0x25 f)
  | .vrot cl f => some (cl.slot, encV 0x26 f)
  | .vzip cl f => some (cl.slot, encV 0x27 f)
  | .vuzp cl f => some (cl.slot, encV 0x28 f)
  | .viota cl f => some (cl.slot, encV 0x29 f)
  | .vwid cl f => some (cl.slot, encV 0x30 f)
  | .vnar cl f => some (cl.slot, encV 0x31 f)
  | .vcvt cl f => some (cl.slot, encV 0x32 f)
  | .vscl cl f => some (cl.slot, encV 0x33 f)
  | .vbin cl f => some (cl.slot, encV 0x34 f)
  | .vunbn cl f => some (cl.slot, encV 0x35 f)
  | .vexp2 cl f => some (cl.slot, encV 0x38 f)
  | .vlog2 cl f => some (cl.slot, encV 0x39 f)
  | .vrcp cl f => some (cl.slot, encV 0x3a f)
  | .vrsq cl f => some (cl.slot, encV 0x3b f)
  | .vsqrt cl f => some (cl.slot, encV 0x3c f)
  | .vrngs cl f => some (cl.slot, encV 0x3d f)
  | .vrng cl f => some (cl.slot, encV 0x3e f)
  | .vred cl f => some (cl.slot, encV 0x40 f)
  | .vramx cl f => some (cl.slot, encV 0x41 f)
  | .vramn cl f => some (cl.slot, encV 0x42 f)
  | .vscan cl f => some (cl.slot, encV 0x43 f)
  | .vcas cl f => some (cl.slot, encV 0x44 f)
  | .pand cl f => some (cl.slot, encV 0x50 f)
  | .por cl f => some (cl.slot, encV 0x51 f)
  | .pxor cl f => some (cl.slot, encV 0x52 f)
  | .pandn cl f => some (cl.slot, encV 0x53 f)
  | .pmov cl f => some (cl.slot, encV 0x54 f)
  | .pset cl f => some (cl.slot, encV 0x55 f)
  | .pfirst cl f => some (cl.slot, encV 0x56 f)
  | .pcnt cl f => some (cl.slot, encV 0x57 f)
  | .ld f => some (.ld, encL 0x01 f)
  | .ldc f => some (.ld, encL 0x02 f)
  | .lds f => some (.ld, encL 0x03 f)
  | .ldt f => some (.ld, encL 0x04 f)
  | .ldSp f => some (.ld, encL 0x09 f)
  | .ldsSp f => some (.ld, encL 0x0b f)
  | .st f => some (.sd, encL 0x01 f)
  | .stc f => some (.sd, encL 0x02 f)
  | .sts f => some (.sd, encL 0x03 f)
  | .stt f => some (.sd, encL 0x04 f)
  | .stz f => some (.sd, encL 0x05 f)
  | .mlw h o => some (.m, encM 0x01 h o)
  | .mma h o => some (.m, encM 0x02 h o)
  | .mdrn h o => some (.m, encM 0x03 h o)
  | .mdrc h o => some (.m, encM 0x04 h o)
  | .mclr h o => some (.m, encM 0x05 h o)
  | .mwsw h o => some (.m, encM 0x06 h o)
  | .mmsk h o => some (.m, encM 0x07 h o)
  | .cpy h o => some (.cp, encC 0x01 h o)
  | .cpw h o => some (.cp, encC 0x02 h o)
  | .cpx h o => some (.cp, encC 0x03 h o)
  | .cpmc h o => some (.cp, encC 0x04 h o)
  | .cpg h o => some (.cp, encC 0x05 h o)
  | .cps h o => some (.cp, encC 0x06 h o)
  | .cpaa h o => some (.cp, encC 0x07 h o)
  | .cpld h o => some (.cp, encC 0x08 h o)
  | .cpst h o => some (.cp, encC 0x09 h o)
  | .amo h o => some (.cp, encC 0x0a h o)
  | .vamo h o => some (.cp, encC 0x0b h o)
  | .pft h o => some (.cp, encC 0x0c h o)
  | .strm h o => some (.cp, encC 0x0d h o)
  | .invp h o => some (.cp, encC 0x0e h o)
  | .shpl h o => some (.cp, encC 0x0f h o)
  | .swait f => some (.sy, encY 0x01 f)
  | .ssig f => some (.sy, encY 0x02 f)
  | .sset f => some (.sy, encY 0x03 f)
  | .sfaa f => some (.sy, encY 0x04 f)
  | .scas f => some (.sy, encY 0x05 f)
  | .phreg f => some (.sy, encY 0x08 f)
  | .phdrp f => some (.sy, encY 0x09 f)
  | .pharv f => some (.sy, encY 0x0a f)
  | .phwt f => some (.sy, encY 0x0b f)
  | .phaw f => some (.sy, encY 0x0c f)
  | .pend f => some (.sy, encY 0x10 f)
  | .psel f => some (.sy, encY 0x11 f)
  | .fence f => some (.sy, encY 0x12 f)
  | .yield f => some (.sy, encY 0x13 f)
  | .hint f => some (.sy, encY 0x38 f)
  | .tileLanding _ => none
  | .resultLanding _ => none
  | .timedLoadRowRead _ => none
  | .timedStoreRowWrite _ => none
  | .matrixCommandCompletion _ => none
  | .strmGraphReplace _ _ => none
  | .semaphoreUpdateApply _ => none
  | .signOffSend _ => none
  | .signOffArrival _ _ => none
  | .phaseStart _ _ => none
  | .selectedContextIssue _ => none
  | .timedCommandBegin _ _ => none
  | .untimedCommandBegin _ _ => none
  | .copyCommandCompletion _ _ => none
  | .packetIssue _ => none
  | .packetReply _ _ => none
  | .packetPerform _ _ => none
  | .correctableThresholdCrossed _ _ => none
  | .refreshLimitReached _ _ => none
  | .tlbWalkComplete _ _ _ => none
  | .compressedPageExpansion _ _ => none
  | .accessCounterThreshold _ _ _ => none
  | .scrubberPass _ => none
  | .launchTaskRecord _ _ => none
  | .launchNopRecord _ _ => none
  | .ringStampWaitExpiry _ _ => none
  | .gangBind _ _ => none
  | .preemptionRequest _ _ => none
  | .gangRebind _ _ => none
  | .taskCompletion _ _ => none
  | .supervisorEventDispatch _ => none
  | .doorbellWrite _ => none
  | .dbcWrite _ _ _ => none
  | .dbhWrite _ _ _ => none
  | .dbignWrite _ _ => none
  | .hostBar2Write _ _ _ _ => none
  | .hostBar2Read _ _ _ _ => none
  | .hostAtomicop _ => none
  | .msixVectorUnmask _ _ => none
  | .ideIntegrityFailure _ => none
  | .spdmRequest _ _ => none
  | .partset => none
  | .fabaddr => none
  | .pbase => none
  | .pair => none
  | .xroot => none
  | .xinval => none
  | .expool => none
  | .compress => none
  | .peercopy => none
  | .errlog => none
  | .faq => none
  | .migq => none
  | .cethr => none
  | .phallot => none
  | .latchl => none
  | .physmap => none
  | .signer => none
  | .load => none
  | .cancel => none
  | .wreset => none
  | .badadd => none
  | .badread => none
  | .retire => none
  | .counters => none
  | .ports => none
  | .trace => none
  | .fwprov => none
  | .mailboxCommandComplete => none
  | .flitReceive _ _ _ _ => none
  | .linkAck _ _ _ _ => none
  | .linkRetrain _ _ => none
  | .gcmTagVerify _ _ => none
  | .laneFailure _ _ => none
  | .fabricResponseTimeout _ _ => none
  | .remoteRequestArrival _ => none
  | .powerLimiter _ => none
  | .coldReset => none
  | .controllerRetrainComplete _ _ => none
  | .tdispRequest _ _ => none
  | .unknownOpc => none
  | .phaserViewUpdate _ _ => none

/-- The encoder: the bundle that holds an instruction's syllable alone, every other slot NOP (R8, R120). -/
def encode (i : Instr) : Option (BitVec 512) :=
  (encodeSyl i).map fun (sl, w) => (w.setWidth 512) <<< sl.lo

/-- An instruction that issues nothing: an all-zero syllable (R121). -/
def Instr.isZeroNop : Instr → Bool
  | .nop _ w => w == 0
  | _ => false

/-- The instruction a bundle image holds when it holds one: its only syllable that is not all zero, or
NOP for an image of zeros; an image with several syllables is no single instruction. -/
def decodeTableWord (nbits w : Nat) : Option Instr :=
  match (decodeBundle (BitVec.ofNat 512 (w % 2 ^ nbits))).filter (fun p => !p.2.isZeroNop) with
  | [] => some (.nop .s 0)
  | [p] => some p.2
  | _ => none

end Sys2Proof
end

