-- ==== Sys2Proof/Machine/Sparse.lean ====
section
/-! DEFINITION. Reading and writing a canonical table: the numbers strictly rising and no entry equal to
the value an unlisted number reads as. -/

namespace Sys2Proof.Machine

/-- The value at a number; an unlisted number reads as `d`. -/
def tget {α : Type} (d : α) (k : Nat) : Sparse α → α
  | [] => d
  | (j, v) :: m => if j = k then v else tget d k m

/-- Takes a number out of a table. -/
def tdel {α : Type} (k : Nat) : Sparse α → Sparse α
  | [] => []
  | (j, v) :: m => if j = k then tdel k m else (j, v) :: tdel k m

/-- Puts an entry before the first one of a higher number. -/
def tins {α : Type} (k : Nat) (v : α) : Sparse α → Sparse α
  | [] => [(k, v)]
  | (j, w) :: m => if k < j then (k, v) :: (j, w) :: m else (j, w) :: tins k v m

/-- Writes a number; writing the value it would read as unlisted removes the entry. -/
def tset {α : Type} [DecidableEq α] (d : α) (k : Nat) (v : α) (m : Sparse α) : Sparse α :=
  if v = d then tdel k m else tins k v (tdel k m)

/-- Changes the value at a number. -/
def tmod {α : Type} [DecidableEq α] (d : α) (k : Nat) (f : α → α) (m : Sparse α) : Sparse α :=
  tset d k (f (tget d k m)) m

/-- True when every number is above `lo` and the numbers rise strictly. -/
def risingFrom {α : Type} (lo : Nat) : Sparse α → Bool
  | [] => true
  | (j, _) :: m => decide (lo < j) && risingFrom j m

/-- The canonical form: strictly rising numbers, no entry equal to the default. -/
def canonical {α : Type} [DecidableEq α] (d : α) : Sparse α → Bool
  | [] => true
  | (j, v) :: m => decide (v ≠ d) && risingFrom j m && canonical d m

/-- Writes a run of consecutive numbers. -/
def tsetAll {α : Type} [DecidableEq α] (d : α) (k : Nat) : List α → Sparse α → Sparse α
  | [], m => m
  | v :: vs, m => tsetAll d (k + 1) vs (tset d k v m)

end Sys2Proof.Machine
end

