-- ==== Sys2Proof/Config.lean ====
section
/-! DEFINITION. What an implementation fixes and what the spec leaves open: opaque constants with no
body, so that no proof can see a value (notes/assumptions 5 to 9). -/

namespace Sys2Proof.Config

/-- Free choices: the n-th choice the spec leaves open (which outstanding packet is answered next, a
TLB victim, an aligned latency). Nothing constrains it. DESIGN CHOICE, log 5. -/
opaque freeNat : Nat → Nat

/-- Free words: the n-th value the spec leaves open. DESIGN CHOICE, log 5. -/
opaque freeWord : Nat → W64

/-- The latch-tree delay of a member from the root at rank 0 (R41: between 4 and 40, fixed for a
placement); Ops.latchDelay brings it into that range. DESIGN CHOICE, log 5. -/
opaque latchDelay : Nat → Nat → Nat

/-- SHAKE256 with 512 bits of output (R268, R271): named by the spec, defined elsewhere. UNVERIFIED,
log 6. -/
opaque shake256 : List Byte → BitVec 512

/-- SHA3-512 (R244). UNVERIFIED, log 6. -/
opaque sha3 : List Byte → BitVec 512

/-- Verification of an Ed448 signature with context string "SRW-TCO" (R268): key, message, signature.
UNVERIFIED, log 6. -/
opaque ed448Verify : List Byte → List Byte → List Byte → Bool

/-- Verification of the firmware image against the fused key (R272). UNVERIFIED, log 6. -/
opaque firmwareOk : List Byte → Bool

/-- The lossless compressed form of a page's bytes (R195); the spec gives no format. DESIGN CHOICE,
log 7. -/
opaque compressed : List Byte → List Byte

/-- The home controller of a physical granule within a partition (R175: a fixed hash). DESIGN CHOICE,
log 8. -/
opaque granuleHash : Nat → Nat

/-- The route of the packets of a queue (`5 * core + slot`) to a granule of a partition of another device (R227: the
routers keep them on one). DESIGN CHOICE, log 69. -/
opaque route : Nat → Nat → Nat → Nat → Nat

end Sys2Proof.Config
end

