-- ==== Sys2Proof/Machine/State.lean ====
section
/-! DEFINITION. The state of the machine as plain data: everything the spec gives it, the model's own
records of what is in flight, and its lists of inputs and outputs. INVENTORY.md names the rule and the
reset value of each field. -/

namespace Sys2Proof.Machine

/-- Nothing the spec describes stops the machine with no effect at all, so this type is empty: causes
the spec gives a trap are next states (R249), and no step of the model answers a fault. Safe. -/
inductive Fault where
  deriving DecidableEq, Repr

/-- Why a step has no meaning. -/
inductive Refusal where
  /-- An arm of exec whose instruction has no meaning yet; raised by exec alone. Safe. -/
  | notModelled (mnemonic : String)
  deriving DecidableEq, Repr

/-- The register a result lands in (R261 FILE), or a system register that a SYSW writes in its own issue
cycle (R97, R343). -/
inductive RegFile where
  | scalar | va | vb | pa | pb | guard | sys
  deriving DecidableEq, Repr

/-- An exposed result in flight (R74, R141): what lands where, with its poison, flags and widened codes,
the bypass register it is presented on (`8 * cluster + k`), its landing cycle on the phase clock, whether it is
an SFAA or SCAS result (R252), and its place in issue order. -/
structure Flight where
  file : RegFile
  reg : Nat
  val : Row
  pois : Bool
  flags : BitVec 6
  subst : BitVec 16
  byp : Option Nat
  land : Nat
  slow : Bool
  seq : Nat
  deriving DecidableEq, Repr

/-- The unit of a timed load or store (R308, R340). -/
inductive LsKind where
  | vec | pred | word | tag | zero
  deriving DecidableEq, Repr

/-- A timed load in flight (R62): the row or column it reads, its read and landing cycles on the phase
clock, and the data once read. `spec` marks a speculative load that lands poisoned zero (R223). -/
structure LoadOp where
  kind : LsKind
  file : RegFile
  reg : Nat
  blk : Nat
  row : Nat
  col : Nat
  am : Bool
  sub : Nat
  lane : Nat
  hop : Nat
  spec : Bool
  read : Nat
  land : Nat
  data : Option Row
  seq : Nat
  deriving DecidableEq, Repr

/-- A timed store in flight (R62): its source and mask registers, the row it writes, its write cycle on
the phase clock, and the data and byte mask once read (t+n+1). -/
structure StoreOp where
  kind : LsKind
  file : RegFile
  reg : Nat
  mask : Nat
  blk : Nat
  row : Nat
  col : Nat
  am : Bool
  sub : Nat
  lane : Nat
  hop : Nat
  write : Nat
  data : Option (Row × Pred)
  seq : Nat
  deriving DecidableEq, Repr

/-- An NTREQ answer on its way to tl(reg), with its landing cycle and the sheaf index it carries (none
for NULL) (R52, R252). -/
structure TileReq where
  val : W64
  reg : Nat
  land : Nat
  index : Option Nat
  deriving DecidableEq, Repr

/-- A loop-stack entry (R23, R315). -/
structure LoopEnt where
  start : Nat
  stop : Nat
  count : Nat
  deriving DecidableEq, Repr

/-- What a transfer does once its delay or entry bundles have issued (R142, R285, R315): go to a bundle,
or go on as after the last iteration of a loop that ends at a bundle. -/
inductive Transfer where
  | target (bundle : Nat)
  | afterLoop (stop : Nat)
  deriving DecidableEq, Repr

/-- What a context waits for at a sill point (R45, R170, R331): a semaphore, its arrival at a phaser, or a phase of
one, with the acquire's scopes (R207) and the bundle whose wait it is; room in its command queue; or the issue slot
alone, which it has given up there (R45, R374). -/
inductive Wait where
  | sem (idx thr : Nat)
  | arrive (ph : Nat)
  | phase (ph agent : Nat) (store : BitVec 3) (pc : Nat)
  | queue
  | sill
  deriving DecidableEq, Repr

/-- A trap or supervisor event (R254): the fields of TRAPC, TRAPA and TRAPV. -/
structure Event where
  cause : Nat
  slot : Nat
  async : Bool
  fetch : Bool
  detail : Nat
  va : Nat
  syl : Nat
  val : Nat
  deriving DecidableEq, Repr

/-- The condition of a context (R45, R46, R42, R253). In a transom `sent` says whether the sign-off has
left; the PEND's wait stands in the context's position record. A trap remembers a transom it was taken
in (R398), and a wait that holds the context after its bundle has issued (R331); so does a member that has been
husked and keeps its slot until its gang is free (R49). -/
inductive Status where
  | unbound
  | ready
  | waiting (w : Wait) (issued : Bool)
  | transom (sent : Bool)
  | trapped (inTransom : Option Bool) (hold : Option Wait)
  | husked (inTransom : Option Bool) (hold : Option Wait)
  | ended
  deriving DecidableEq, Repr

/-- The register files of a context (R72, R222); key of a cluster file is `32 * cluster + n`, of a
predicate or bypass `8 * cluster + n`. -/
structure Regs where
  s : Sparse W64
  sPois : BitVec 64
  v : Sparse Row
  vPois : BitVec 64
  p : Sparse Pred
  pPois : BitVec 16
  byp : Sparse Row
  bypPois : BitVec 16
  g : BitVec 32
  tl : Sparse W64
  sh : Sparse (BitVec 512)
  gen : Sparse Row
  deriving DecidableEq, Repr

/-- The control registers of a context (R87, R94, R96, R106, R90, R108, R48, R70, R140, R324). -/
structure Ctl where
  fm : Sparse (BitVec 32)
  nbv : BitVec 8
  flush : BitVec 3
  rmode : BitVec 3
  flags : BitVec 6
  subst : BitVec 16
  prio : BitVec 2
  teb : W64
  sam : BitVec 256
  tlNext : BitVec 2
  psv : Bool
  psg : BitVec 6
  pst : BitVec 7
  psf : BitVec 7
  deriving DecidableEq, Repr

/-- The position of a context (R23, R38, R39, R262, R269): program counter, stacks, phase clock and
phase, the transfer under way with the bundles left before it acts (3 at the transfer itself, 2 and 1 in
its delay or entry bundles), and those that a LOOP within these bundles began, the code it runs, whether its phase has begun without an issue so far (R42),
the wait of its PEND, and whether a member that has issued TEND has sent its sign-off. -/
structure Pos where
  pc : Nat
  clk : Nat
  loops : List LoopEnt
  calls : List Nat
  xfer : Option Transfer
  left : Nat
  more : List (Nat × Option Transfer)
  depth0 : Nat
  buf : BitVec 1
  entry : BitVec 6
  inph : Bool
  fresh : Bool
  sb : BitVec 1
  snext : BitVec 6
  codeBase : Nat
  codeLen : Nat
  pend : Nat × Nat
  endSent : Bool
  deriving DecidableEq, Repr

/-- What a context has in flight on its phase clock (R62, R74, R252). -/
structure InFlight where
  flights : List Flight
  loads : List LoadOp
  stores : List StoreOp
  tiles : List TileReq
  seq : Nat
  deriving DecidableEq, Repr

/-- A release taken at some point of a context (R205): the commands and semaphore updates that must
have performed, the phase time through which its timed stores must have performed, and its scopes. -/
structure Release where
  agent : Nat
  store : BitVec 3
  cmds : List Nat
  stores : List Nat
  deriving DecidableEq, Repr

/-- What engine commands that complete in this cycle leave for its end (R107, R339): flags, SUBST bits and shape
records, which no bundle of the cycle sees. -/
structure Late where
  flags : BitVec 6
  subst : BitVec 16
  shapes : List (Nat × BitVec 512)
  deriving DecidableEq, Repr

/-- A task context, or the supervisor context in slot 4 (R22, R72). -/
structure Ctx where
  regs : Regs
  ctl : Ctl
  pos : Pos
  fly : InFlight
  late : Late
  phtab : Sparse (BitVec 128)
  expect : Sparse (BitVec 32)
  compared : List Nat
  reasons : Sparse Nat
  phasers : List (Nat × BitVec 2)
  fences : List Release
  status : Status
  boundary : List Event
  event : Option Event
  task : Option Nat
  rank : Nat
  deriving DecidableEq, Repr

/-- The numeric controls a command carries from its issue (R97, R108, R181). -/
structure NumCtl where
  nbv : BitVec 8
  flush : BitVec 3
  rmode : BitVec 3
  fm : Sparse (BitVec 32)
  deriving DecidableEq, Repr

/-- The seven matrix commands (R137). -/
inductive MKind where
  | mlw | mma | mdrn | mdrc | mclr | mwsw | mmsk
  deriving DecidableEq, Repr

/-- A queued matrix command (R153, R319): operands, scale vector and controls as read at issue, and the
address of its bundle (R254), the cycle of its issue, and the release an MDRC takes there (R202, R207). -/
structure MCmd where
  id : Nat
  slot : Nat
  kind : MKind
  h : EHdr
  o : MOp
  a : W64
  b : W64
  sv : Row
  shape : BitVec 512
  num : NumCtl
  bundle : Nat
  issued : Nat
  fences : List Release
  rel : Option Release
  deriving DecidableEq, Repr

/-- A latch bank (R152): weights as encoding (15:0) and scale byte (23:16), `k * 128 + n`. -/
structure Bank where
  w : Sparse (BitVec 32)
  kv : Nat
  nv : Nat
  fmt : BitVec 6
  fm : BitVec 32
  intw : Bool
  wsc : Bool
  deriving DecidableEq, Repr

/-- The matrix engine's own state (R152). -/
structure Mx where
  act : BitVec 1
  bank0 : Bank
  bank1 : Bank
  doff : BitVec 8
  bw : BitVec 8
  deriving DecidableEq, Repr

/-- A matrix command that has begun (R158): the cycle it began, the scratchpad rows read so far, the
bank or accumulator rows it took at its begin, and the flags it will land. -/
structure MRun where
  cmd : MCmd
  start : Nat
  reads : List Row
  bank : Bank
  rows : List Row
  doff : BitVec 8
  bw : BitVec 8
  flags : BitVec 6
  subst : BitVec 16
  deriving DecidableEq, Repr

/-- The copy-engine commands (R137), with the store half of MDRC (R167). -/
inductive CKind where
  | cpy | cpw | cpx | cpmc | cpg | cps | cpaa | cpld | cpst | amo | vamo | pft | strm | invp | shpl | mdrc
  deriving DecidableEq, Repr

/-- Where a copy-engine command stands (R53 to R56, R193): queued, begun, stopped at a faulting packet
with the fault's address, or abandoned there. -/
inductive CStage where
  | queued | begun | faulted (va : Nat) | abandoned
  deriving DecidableEq, Repr

/-- A translation entry of a die's TLB (R192): die, 64 KiB virtual page, and the leaf entry with the
level it stood at. -/
structure TlbEnt where
  die : Nat
  page : Nat
  level : Nat
  pte : BitVec 128
  home : Nat
  deriving DecidableEq, Repr

/-- A run of bits of the scratchpad: the bit address from a command's first row, how many bits, and their value. -/
abbrev BitRun := Nat × Nat × Nat

/-- A copy-engine command in its queue or begun (R169, R277): operands, shape record, controls and graph
as read at issue; the fences and the release it waits for; the rows it has still to read and those it has
read; the translations it holds (R194); its packets, known once its sources are read, the next of them
and the answers; the row writes that wait for a port (R66); the tiles it has published; whether its fills and
deliveries have been sent and are done; the reason its signal is withheld (R265); its flags; the cycle of its issue,
later the earliest cycle of its last steps. -/
structure Cmd where
  id : Nat
  slot : Nat
  kind : CKind
  h : EHdr
  o : COp
  a : W64
  b : W64
  c : W64
  shape : BitVec 512
  num : NumCtl
  bundle : Nat
  fences : List Release
  rel : Option Release
  stage : CStage
  start : Nat
  srcLeft : List (Nat × Nat)
  src : List Row
  graph : List W64
  held : List TlbEnt
  total : Option Nat
  next : Nat
  got : List (Nat × List (Nat × Byte))
  wq : List (Nat × List BitRun)
  pubs : List Nat
  sent : Bool
  filled : Bool
  reason : Nat
  flags : BitVec 6
  subst : BitVec 16
  failed : Nat
  wake : Nat
  deriving DecidableEq, Repr

/-- Where a packet stands (R175, R176, R192). -/
inductive PStage where
  | issued | performed
  deriving DecidableEq, Repr

/-- The owner of the memory a packet goes to (R190, R229); `window` is the device alias of a partition (R241). -/
inductive Dest where
  | local (part : Nat)
  | peer (fa part : Nat)
  | host
  | window (part : Nat)
  deriving DecidableEq, Repr

/-- An outstanding packet (R175): command and packet number, its granule's virtual address, its
destination and physical address, the page's MODE, its access (0 read, 1 write, 2 atomic), the bytes it
writes with their bit masks, the bytes it read, the reason it failed with (R265), and the port on which its
answer still awaits its tag (R235). -/
structure Pkt where
  id : Nat
  cmd : Nat
  slot : Nat
  idx : Nat
  va : Nat
  pa : Nat
  dest : Dest
  mode : Nat
  acc : Nat
  stage : PStage
  issued : Nat
  wr : List (Nat × Byte × Byte)
  rd : List (Nat × Byte)
  bad : Nat
  port : Option Nat
  deriving DecidableEq, Repr

/-- What a semaphore update does (R212, R336). -/
inductive SemOp where
  | add (n : Nat) | set (v : BitVec 16) | fetchAdd (n : Nat) (reg : Nat) | cas (e w : BitVec 16) (reg : Nat)
  deriving DecidableEq, Repr

/-- Who sends an update; the order of R212 within a cycle. -/
inductive SemSrc where
  | sy | mEngine | cpEngine (slot : Nat) | gateway (core : Nat) | doorbell (k : Nat)
  deriving DecidableEq, Repr

/-- A semaphore update issued and not yet applied (R212): due no earlier than cycle `due`, after the
releases and timed stores of its context named here; a result lands no earlier than phase time `sched`
(R251), in its place `seq` of the issue order. -/
structure SemUpd where
  id : Nat
  idx : Nat
  op : SemOp
  src : SemSrc
  slot : Nat
  due : Nat
  rel : List Release
  stores : List Nat
  sched : Nat
  seq : Nat
  deriving DecidableEq, Repr

/-- What a phaser operation does at the sync engine (R219): register with a mode, arrive, or drop. -/
inductive PhKind where
  | reg (mode : BitVec 2) | arrive | drop
  deriving DecidableEq, Repr

/-- A phaser operation on its way to the sync engine (R207, R209, R218): its context, phaser and kind, and
the releases an arrival waits for. -/
structure PhOp where
  id : Nat
  ph : Nat
  op : PhKind
  rel : List Release
  deriving DecidableEq, Repr

/-- A publication under way (R69, R297): its cycle, its place among the publications of one cycle, the
tile and the tag. -/
structure Pub where
  at_ : Nat
  ord : Nat
  tile : Nat
  tag : BitVec 16
  deriving DecidableEq, Repr

/-- The selector of a core (R45 to R47): the slot that holds the issue slot (7 none), the slot selected
to issue next (7 none), the cycle from which it may issue, the cycle of the invocation, the slot that
keeps the issue slot if its wait is satisfied in the next cycle, the most recent task slot, and for each task slot the
cycles its context has been ready without the issue slot since it was last selected. -/
structure Selector where
  cur : Nat
  sel : Nat
  from_ : Nat
  invAt : Nat
  keep : Nat
  last : Nat
  aged : Sparse Nat
  deriving DecidableEq, Repr

/-- The supervisor's event registers and queue (R254, R257). -/
structure Super where
  trapc : W64
  trapa : W64
  trapv : W64
  events : List Event
  fromHload : Bool
  fenced : Bool
  deriving DecidableEq, Repr

/-- A delivery of CPX or CPMC at a destination core (R291): its source core and command, the slot that accepts it, its
destination word, and the rows the gateway has still to write, by number from the first. -/
structure Delivery where
  src : Nat
  cmd : Nat
  slot : Nat
  word : W64
  rows : List (Nat × Row)
  deriving DecidableEq, Repr

/-- The storage of a core (R64, R69, R73, R77, R80). Scratchpad rows `768 * blk + r`; accumulator rows
`128 * tile + r`; owner tags of both, accumulator rows from 6144. `ecc` holds the bit errors (1 correctable, 2 not)
of 64-bit words, `64 * row + word`. For each block, and for the accumulator tiles as 8, the rows the scrubber has looked at
since reset and the cycles its ports have been held for. Of the present cycle: the blocks whose read and write ports have
been used, and those whose ports the scrubber has (R66), and the rows written with what they held before (R201). -/
structure Store where
  rows : Sparse Row
  acc : Sparse Row
  tags : Sparse (BitVec 16)
  owners : Sparse (BitVec 8)
  gens : Sparse (BitVec 5)
  tileOwn : Sparse Nat
  accOwn : Sparse Nat
  mxOwn : Nat
  ecc : Sparse Nat
  scrubbed : Sparse Nat
  held : Sparse Nat
  pubs : List Pub
  rdUsed : List Nat
  wrUsed : List Nat
  scrubs : List Nat
  before : List (Nat × Row)
  deriving DecidableEq, Repr

/-- A core (R10, R22, R152, R169, R210, R291); `gw` holds what its gateway has to deliver, `lanes` the engine lanes
used in this cycle (R60); `semView` holds the semaphores as the updates of earlier cycles left them,
which waits read; `issuedAt` is one more than the cycle of its last bundle, and `issuedBy` the slot whose bundle that
was. -/
structure Core where
  st : Store
  sems : Sparse (BitVec 16)
  semView : Sparse (BitVec 16)
  semq : List SemUpd
  mx : Mx
  mq : List MCmd
  mrun : List MRun
  cq : List Cmd
  pkts : List Pkt
  gw : List Delivery
  lanes : List Nat
  turn : Nat
  pktAt : Nat
  sel : Selector
  sup : Super
  phView : Sparse (BitVec 32)
  phq : List PhOp
  issuedAt : Nat
  issuedBy : Nat
  deriving DecidableEq, Repr

/-- A launch ring as the unit holds it (R26, R27). -/
structure Ring where
  served : Bool
  base : Nat
  logcap : Nat
  prio : Nat
  db : Nat
  headAddr : Nat
  head : W64
  stamped : Option Nat
  last : Nat
  deriving DecidableEq, Repr

/-- Where a task stands (R30 to R36, R49, R50). -/
inductive TaskStage where
  | accepted | ready | bound | preempting | preempted | ending | done
  deriving DecidableEq, Repr

/-- A sign-off on its way to the root or gathered there (R41, R344): rank, successor (none: end), and
its arrival cycle; for a SOLO phase, which has a root of its own, also the cycle its next phase begins. -/
structure SignOff where
  rank : Nat
  succ : Option (BitVec 7)
  arrive : Nat
  arrived : Bool
  solo : Bool
  start : Option Nat
  deriving DecidableEq, Repr

/-- What a pre-empted member keeps that its husk has no place for (R39, R46, R50, R71, R74, R142, R207, R209, R212, R253,
R331): its rank, its logical core and slot, whether it has ended and sent its sign-off, the transfer under way with the
bundles left before it acts, the tiles compared in its phase, the loop depth at t+0, a wait that holds it with the bundle
after, boundary causes recorded, fences in force, updates and phaser operations behind stores it has still to make, its
aging count, and what its bypass registers show. -/
structure Kept where
  rank : Nat
  place : Nat × Nat
  ended : Option Bool
  xfer : Option Transfer
  left : Nat
  more : List (Nat × Option Transfer)
  compared : List Nat
  depth0 : Nat
  hold : Option (Wait × Nat)
  boundary : List Event
  fences : List Release
  updates : List SemUpd
  phops : List PhOp
  aged : Nat
  byp : Sparse Row
  bypPois : BitVec 16
  deriving DecidableEq, Repr

/-- A task (R21, R29, R35, R51): its record, header, members by rank, sheaf, sign-offs, the status it ends with, and
what each rank of a pre-empted one keeps. -/
structure Task where
  record : BitVec 512
  ring : Nat
  prio : Nat
  header : BitVec 2048
  nbv : BitVec 8
  stage : TaskStage
  members : List (Nat × Nat)
  rootDie : Nat
  order : Nat
  bound : Nat
  sheaf : Nat
  returned : List Nat
  signoffs : List SignOff
  startAt : Option Nat
  status : Nat
  kept : List Kept
  noVictim : Bool
  cancelling : Bool
  deriving DecidableEq, Repr

/-- A ring of records in DRAM (R196, R266, R397): base, log2 of the capacity, and whether the next
record carries LOST. -/
structure RecRing where
  base : Nat
  log : Nat
  lost : Bool
  deriving DecidableEq, Repr

/-- The granule lines of a controller's stream buffer (R178, R179), most recent first. -/
structure Line where
  ctrl : Nat
  granule : Nat
  core : Nat
  filled : Bool
  used : Bool
  deriving DecidableEq, Repr

/-- A granule of the peer copy (R230), most recent first; `filling` is the packet that fetches its data (R229). -/
structure PeerLine where
  fa : Nat
  part : Nat
  granule : Nat
  data : List Byte
  filling : Option Nat
  deriving DecidableEq, Repr

/-- An access counter of a die's translation unit (R231), most recent first. -/
structure AccCount where
  die : Nat
  region : Nat
  count : Nat
  peer : Nat
  part : Nat
  act : Nat
  deriving DecidableEq, Repr

/-- A loaded graph, and the STRMs that are replacing it (R180, R188). -/
structure GraphSlot where
  graph : List W64
  loading : Bool
  deriving DecidableEq, Repr

/-- A compressed page's frame and what it expands to (R195). -/
structure CFrame where
  frame : Nat
  large : Bool
  data : List Byte
  deriving DecidableEq, Repr

/-- A doorbell (R238). -/
structure Doorbell where
  dbv : W64
  dbc : W64
  dbh : W64
  ign : BitVec 32
  deriving DecidableEq, Repr

/-- An accepted code object's segment (R30, R270). -/
structure Seg where
  kind : Nat
  vaddr : Nat
  msize : Nat
  nbv : BitVec 8
  deriving DecidableEq, Repr

/-- The measurement record (R271). -/
structure Attest where
  digest : BitVec 512
  entries : List (BitVec 512 × Nat × Nat)
  overflow : Bool
  loads : W64
  deriving DecidableEq, Repr

/-- The launch unit of a partition (R24 to R36). -/
structure Launch where
  lcb : W64
  depBase : Nat
  depLog : Nat
  rings : Sparse Ring
  tasks : Sparse (Option Task)
  stopped : Bool
  order : Nat
  deriving DecidableEq, Repr

/-- The memory side of a partition (R178 to R197, R230, R231, R266). -/
structure MemSys where
  root : Option Nat
  tlb : List TlbEnt
  walks : List (Nat × Nat)
  expanding : List Nat
  pool : List (Nat × Bool)
  frames : List CFrame
  peerBase : Nat
  peerSize : Nat
  peer : List PeerLine
  acc : List AccCount
  graphs : Sparse (Option GraphSlot)
  lines : List Line
  counters : Sparse W64
  errlog : Option RecRing
  cntPage : Nat
  faq : Option RecRing
  migq : Option RecRing
  errCounts : Sparse Nat
  cethr : Nat
  dramErr : Sparse Nat
  ceCount : Sparse Nat
  retrain : List Nat
  deriving DecidableEq, Repr

/-- The host side of a partition (R226, R234, R238 to R244, R305): its confidential pairs and the session key of each
pair that has one; the MSI-X vectors not masked, those pending, the address (63:0) and data (95:64) of each message,
and the function's enable and mask (R242). -/
structure HostSide where
  pbase : Nat
  pairs : List (Nat × Nat)
  keys : List (Nat × Nat × W64)
  signers : Sparse (BitVec 456)
  attest : Attest
  segs : List Seg
  bells : Sparse Doorbell
  msixOn : List Nat
  msixPend : List Nat
  msixTable : Sparse (BitVec 96)
  msixEnable : Bool
  msixMask : Bool
  tdi : Tdi
  traceBase : Nat
  traceSize : Nat
  traceOn : Bool
  trace : List (Nat × Nat × Nat)
  leftUnlocked : Bool
  deriving DecidableEq, Repr

/-- A partition (R17). -/
structure Part where
  launch : Launch
  memory : MemSys
  host : HostSide
  deriving DecidableEq, Repr

/-- A phaser (R217): owner (none), counters, and SPH and WPH of each member with its mode, a member named by
`5 * core + slot`, or while its gang is pre-empted by a number of its task and rank (R220). -/
structure Phaser where
  cnt : BitVec 32
  nsig : Nat
  arr : Nat
  drops : Nat
  owner : Option Nat
  members : List (Nat × BitVec 2 × BitVec 32 × BitVec 32)
  deriving DecidableEq, Repr

/-- What the device sends to the world outside it: the model's record (log 4). -/
inductive Out where
  | msix (part vec : Nat) (addr data : Nat)
  | write (dest : Dest) (addr : Nat) (data : List Byte)
  | packet (dest : Dest) (addr : Nat) (data : List (Nat × Byte × Byte))
  | read (dest : Dest) (addr : Nat)
  | atomic (dest : Dest) (addr : Nat) (op : Nat) (operand compare : List Byte)
  | barData (part : Nat) (data : List Byte)
  | unsupported (part : Nat)
  | spdm (part : Nat) (answer : List Byte)
  | reply (tag : Nat) (data : List Byte)
  | ack (port : Nat) (base : Nat) (bitmap : BitVec 256) (good : Bool)
  | resend (port : Nat) (seq : Nat)
  deriving DecidableEq, Repr

/-- What a group of flits that awaits its tag carries (R235): a peer's request, or the answer to a packet of a core. -/
inductive Held where
  | request (r : RemoteReq)
  | answer (core pkt : Nat)
  deriving DecidableEq, Repr

/-- A fabric port (R227, R228, R232, R235): lanes or wavelengths, up or down, sequence numbers, the retry buffer with
how often each flit has been resent in a row, the resequencing buffer, the flits delivered, the flit a negative
acknowledgement has asked for with the last one discarded since, the groups that await their tags, the oldest first,
each with how often it has failed, and the messages that wait for room in the retry buffer with their flits. -/
structure Port where
  lanes : Nat
  up : Bool
  retraining : Bool
  sendSeq : Nat
  recvSeq : Nat
  retry : List (Nat × W64 × Nat)
  reseq : List (Nat × W64)
  delivered : List W64
  nak : Option (Nat × Nat)
  held : List (Held × Nat)
  queue : List (Nat × Out)
  deriving DecidableEq, Repr

/-- The management mailbox (R245, R246): its registers; the command in progress as read at its start, its results,
and the translations it waits for: the cycle of its invalidation and the addresses that covers (R192). -/
structure Mailbox where
  cmd : W64
  stat : W64
  cfg : W64
  args : Sparse W64
  rsp : Sparse W64
  bulk : Sparse Byte
  run : W64
  pending : Option (Nat × List (Nat × W64))
  wait : Option (Nat × Nat × Nat)
  deriving DecidableEq, Repr

/-- What the world outside may do next (log 4): a step of the table, or what has no row of its own: an aligned 8-byte
write to a mailbox register or the bulk buffer and a read of the mailbox (R245), a read of BAR 0 (R237, R238, R242), a
write of a double word of an MSI-X table entry and of the function's MSI-X enable and mask (R242), or a bit error that
strikes a stored word (R77, R197). -/
inductive Input where
  | step (i : Instr)
  | mailbox (off : Nat) (v : W64)
  | mailboxRead (off len : Nat)
  | bar0Read (part off len : Nat) (trusted : Bool)
  | msixWrite (part vec dword : Nat) (v : BitVec 32) (trusted : Bool)
  | msixControl (part : Nat) (enable mask : Bool)
  | sramError (core row word : Nat) (double : Bool)
  | dramError (part granule : Nat) (double : Bool)
  deriving DecidableEq, Repr

/-- The device (R10, R16, R20, R217, R226, R245, R272): the firmware image in the non-volatile store, and the one loaded
from it at the last reset. -/
structure Dev where
  form : BitVec 4
  quads : BitVec 64
  chansOff : Sparse (BitVec 16)
  parts : Nat
  phasers : Sparse Phaser
  group : Nat
  member : Nat
  ports : Sparse Port
  mb : Mailbox
  nvImage : Sparse Byte
  nvLen : Nat
  fw : Sparse Byte
  fwLen : Nat
  badPages : List Nat
  fwUp : Bool
  slowClock : Bool
  out : List Out
  deriving DecidableEq, Repr

/-- The bundle being issued (R122, R142, R327): its sill mark and the slots whose syllable is neither
a NOP nor a hint. -/
structure Bundle where
  sill : Bool
  busy : BitVec 8
  deriving DecidableEq, Repr

/-- The machine. `ccn` counts the cycles since cold reset: CCN is its low 64 bits, which wrap (R200). `core` and `slot`
name the context whose bundle issues; `inbox` holds what the world outside will do,
each with the cycle from which it does so (log 4); `memBefore` is the memory as this cycle found it, once something
has been written (R201); `ids` numbers commands, packets and updates; `free` counts the free values taken (log 5). -/
structure State where
  ctxs : Sparse Ctx
  cores : Sparse Core
  parts : Sparse Part
  dev : Dev
  mem : List Host.Cell
  memBefore : Option (List Host.Cell)
  ccn : Nat
  core : Nat
  slot : Nat
  bnd : Bundle
  inbox : List (Nat × Input)
  ids : Nat
  free : Nat
  deriving DecidableEq, Repr

/-- The register files before any binding. DESIGN CHOICE zero, log 1: R36 gives them at binding alone. -/
def Regs.reset : Regs :=
  { s := [], sPois := 0, v := [], vPois := 0, p := [], pPois := 0, byp := [], bypPois := 0, g := 0
    tl := [], sh := [], gen := [] }

/-- The control registers before any binding: zero where the spec gives zero (R87, R94, R96, R106) and
DESIGN CHOICE zero elsewhere, log 1. -/
def Ctl.reset : Ctl :=
  { fm := [], nbv := 0, flush := 0, rmode := 0, flags := 0, subst := 0, prio := 0, teb := 0, sam := 0
    tlNext := 0, psv := false, psg := 0, pst := 0, psf := 0 }

/-- The position before any binding (R262: PHTSEL and LSTK 0); pc and code DESIGN CHOICE 0, log 1. -/
def Pos.reset : Pos :=
  { pc := 0, clk := 0, loops := [], calls := [], xfer := none, left := 0, more := [], depth0 := 0
    buf := 0, entry := 0, inph := false, fresh := false, sb := 0, snext := 0, codeBase := 0, codeLen := 0
    pend := (0, 0), endSent := false }

/-- Nothing in flight. -/
def InFlight.reset : InFlight := { flights := [], loads := [], stores := [], tiles := [], seq := 0 }

/-- Nothing left for the end of the cycle. -/
def Late.reset : Late := { flags := 0, subst := 0, shapes := [] }

/-- A context bound to nothing. -/
def Ctx.reset : Ctx :=
  { regs := Regs.reset, ctl := Ctl.reset, pos := Pos.reset, fly := InFlight.reset, late := Late.reset, phtab := []
    expect := [], compared := [], reasons := [], phasers := [], fences := [], status := .unbound
    boundary := [], event := none, task := none, rank := 0 }

/-- A cleared latch bank (R152). -/
def Bank.reset : Bank := { w := [], kv := 0, nv := 0, fmt := 0, fm := 0, intw := true, wsc := false }

/-- The matrix engine at reset and at its task's binding (R152). -/
def Mx.reset : Mx := { act := 0, bank0 := Bank.reset, bank1 := Bank.reset, doff := 0, bw := 128 }

/-- The storage of a core after warm reset (R80), and at cold reset by DESIGN CHOICE, log 2. -/
def Store.reset : Store :=
  { rows := [], acc := [], tags := [], owners := [], gens := [], tileOwn := [], accOwn := []
    mxOwn := 7, ecc := [], scrubbed := [], held := [], pubs := [], rdUsed := [], wrUsed := [], scrubs := []
    before := [] }

/-- No context selected; slot 3 counts as the most recent (R46). -/
def Selector.reset : Selector :=
  { cur := 7, sel := 7, from_ := 0, invAt := 0, keep := 7, last := 3, aged := [] }

/-- The supervisor's registers (R254): no event, SYL 15. -/
def Super.reset : Super :=
  { trapc := 0, trapa := 0, trapv := 0xF000000000000000#64, events := [], fromHload := false
    fenced := false }

/-- A core at reset. -/
def Core.reset : Core :=
  { st := Store.reset, sems := [], semView := [], semq := [], mx := Mx.reset, mq := [], mrun := [], cq := []
    pkts := [], gw := [], lanes := [], turn := 0, pktAt := 0, sel := Selector.reset, sup := Super.reset, phView := [], phq := []
    issuedAt := 0, issuedBy := 7 }

/-- The launch unit at reset (R24). -/
def Launch.reset : Launch :=
  { lcb := 0, depBase := 0, depLog := 0, rings := [], tasks := [], stopped := false, order := 0 }

/-- The memory side of a partition at reset (R179, R180, R230; DESIGN CHOICE for the rest, log 3). -/
def MemSys.reset : MemSys :=
  { root := none, tlb := [], walks := [], expanding := [], pool := [], frames := [], peerBase := 0
    peerSize := 0, peer := [], acc := [], graphs := [], lines := [], counters := [], errlog := none
    cntPage := 0, faq := none, migq := none, errCounts := [], cethr := 0, dramErr := [], ceCount := []
    retrain := [] }

/-- The measurement record at reset (R271). -/
def Attest.reset : Attest := { digest := 0, entries := [], overflow := false, loads := 0 }

/-- The host side of a partition at reset (R238, R243, R271; log 3 for the rest). -/
def HostSide.reset : HostSide :=
  { pbase := 0, pairs := [], keys := [], signers := [], attest := Attest.reset, segs := [], bells := []
    msixOn := [], msixPend := [], msixTable := [], msixEnable := false, msixMask := false, tdi := .unlocked, traceBase := 0, traceSize := 0, traceOn := false
    trace := [], leftUnlocked := false }

/-- A partition at reset. -/
def Part.reset : Part :=
  { launch := Launch.reset, memory := MemSys.reset, host := HostSide.reset }

/-- A phaser at reset (R217). -/
def Phaser.reset : Phaser := { cnt := 0, nsig := 0, arr := 0, drops := 0, owner := none, members := [] }

/-- A doorbell at reset (R238). -/
def Doorbell.reset : Doorbell := { dbv := 0, dbc := 0, dbh := 0, ign := 0 }

/-- A ring that is not served (R26). -/
def Ring.reset : Ring :=
  { served := false, base := 0, logcap := 0, prio := 0, db := 0, headAddr := 0, head := 0
    stamped := none, last := 0 }

/-- Port `i` at reset, with every lane or wavelength good: local ports 0 to 30 have 16 lanes, global
ports 31 to 94 have 128 wavelengths (R10, R227). DESIGN CHOICE up and empty, log 3. -/
def Port.reset (i : Nat) : Port :=
  { lanes := if i < 31 then 16 else 128, up := true, retraining := false, sendSeq := 0, recvSeq := 0
    retry := [], reseq := [], delivered := [], nak := none, held := [], queue := [] }

/-- The mailbox at reset (R245). -/
def Mailbox.reset : Mailbox :=
  { cmd := 0, stat := 0, cfg := 0, args := [], rsp := [], bulk := [], run := 0, pending := none, wait := none }

/-- The device after cold reset: an unpartitioned, undegraded P256 (R16) with verified firmware.
DESIGN CHOICE for the form, the fabric address and the non-volatile store, log 3. -/
def Dev.reset : Dev :=
  { form := 1, quads := BitVec.allOnes 64, chansOff := [], parts := 1, phasers := [], group := 0
    member := 0, ports := [], mb := Mailbox.reset, nvImage := [], nvLen := 0, fw := [], fwLen := 0
    badPages := [], fwUp := true, slowClock := false, out := [] }

/-- The machine right after cold reset (R200: CCN 0). -/
def State.reset : State :=
  { ctxs := [], cores := [], parts := [], dev := Dev.reset, mem := [], memBefore := none, ccn := 0, core := 0, slot := 0
    bnd := { sill := false, busy := 0 }, inbox := [], ids := 0, free := 0 }

end Sys2Proof.Machine
end

