-- ==== Sys2Proof/Machine/Memory.lean ====
section
/-! DEFINITION. Memory (R2, R10, R189): a partition's DRAM by physical byte address, with byte order
decided once (little-endian, R2). The key of byte `a` of partition `p` is `p * 2^57 + a`. A byte nothing
has written reads 0: DESIGN CHOICE, log 2. -/

namespace Sys2Proof.Machine

/-- Division rounded up. -/
def ceilDiv (a b : Nat) : Nat := (a + b - 1) / b

/-- What an unlisted byte reads as. -/
def memDefault : Byte := 0

/-- Reads one byte. -/
def memGet (m : List Host.Cell) (a : Nat) : Byte := tget memDefault a m

/-- Writes one byte. -/
def memSet (m : List Host.Cell) (a : Nat) (b : Byte) : List Host.Cell := tset memDefault a b m

/-- The canonical form of memory. -/
def memWf (m : List Host.Cell) : Bool := canonical memDefault m

/-- Reads `n` bytes from `a` up. -/
def memRead (m : List Host.Cell) (a : Nat) : Nat → List Byte
  | 0 => []
  | n + 1 => memGet m a :: memRead m (a + 1) n

/-- Writes bytes from `a` up. -/
def memWrite (m : List Host.Cell) (a : Nat) : List Byte → List Host.Cell
  | [] => m
  | b :: bs => memWrite (memSet m a b) (a + 1) bs

/-- The number whose bytes are given, the lowest address first (R2). -/
def leNat : List Byte → Nat
  | [] => 0
  | b :: bs => b.toNat + 256 * leNat bs

/-- The lowest `n` bytes of a number, the lowest address first (R2). -/
def leBytes : Nat → Nat → List Byte
  | 0, _ => []
  | n + 1, v => BitVec.ofNat 8 v :: leBytes n (v / 256)

/-- The key of a physical byte of a partition. -/
def physKey (part pa : Nat) : Nat := part * 2 ^ 57 + pa

/-- Reads a little-endian number of `n` bytes from a partition's DRAM. -/
def physNat (s : State) (part pa n : Nat) : Nat := leNat (memRead s.mem (physKey part pa) n)

/-- Reads bytes from a partition's DRAM. -/
def physBytes (s : State) (part pa n : Nat) : List Byte := memRead s.mem (physKey part pa) n

/-- Something is about to be written: what memory held as this cycle found it is kept (R201). -/
def keepBefore (s : State) : State := { s with memBefore := some (s.memBefore.getD s.mem) }

/-- Writes bytes to a partition's DRAM. -/
def physWrite (part pa : Nat) (bs : List Byte) (s : State) : State :=
  { keepBefore s with mem := memWrite s.mem (physKey part pa) bs }

/-- The bytes a read of this cycle sees: writes that perform in its own cycle are not seen (R201). -/
def seenBytes (s : State) (part pa n : Nat) : List Byte := memRead (s.memBefore.getD s.mem) (physKey part pa) n

/-- The number a read of this cycle sees. -/
def seenNat (s : State) (part pa n : Nat) : Nat := leNat (seenBytes s part pa n)

/-- No write of this cycle has changed these bytes: an atomic, which reads them, can perform in it (R201). -/
def unwritten (s : State) (part pa n : Nat) : Bool := seenBytes s part pa n == physBytes s part pa n

/-- Puts bytes where every access finds them at once: what an expansion brings in (R195) is no access of R201. -/
def plant (part pa : Nat) (bs : List Byte) (s : State) : State :=
  { s with
    mem := memWrite s.mem (physKey part pa) bs
    memBefore := s.memBefore.map fun m => memWrite m (physKey part pa) bs }

/-- Writes a little-endian number of `n` bytes to a partition's DRAM. -/
def physWriteNat (part pa n v : Nat) (s : State) : State := physWrite part pa (leBytes n v) s

end Sys2Proof.Machine
end

