-- ==== Sys2Proof/Machine/Access.lean ====
section
/-! DEFINITION. The one home of every piece of state: reading and changing contexts, cores, partitions,
registers, and the numbering of dies, quads and cores (R14 to R18). -/

namespace Sys2Proof.Machine

/-- The number of a context: slot `sl` of physical core `c` (R22). -/
def ctxId (c sl : Nat) : Nat := 5 * c + sl

/-- The context of a number. -/
def ctxOf (s : State) (id : Nat) : Ctx := tget Ctx.reset id s.ctxs
/-- Replaces a context. -/
def setCtx (id : Nat) (x : Ctx) (s : State) : State := { s with ctxs := tset Ctx.reset id x s.ctxs }
/-- Changes a context. -/
def updCtx (id : Nat) (f : Ctx → Ctx) (s : State) : State := setCtx id (f (ctxOf s id)) s

/-- The core of a number. -/
def coreOf (s : State) (c : Nat) : Core := tget Core.reset c s.cores
/-- Replaces a core. -/
def setCore (c : Nat) (x : Core) (s : State) : State := { s with cores := tset Core.reset c x s.cores }
/-- Changes a core. -/
def updCore (c : Nat) (f : Core → Core) (s : State) : State := setCore c (f (coreOf s c)) s

/-- The partition of a number. -/
def partAt (s : State) (p : Nat) : Part := tget Part.reset p s.parts
/-- Replaces a partition. -/
def setPart (p : Nat) (x : Part) (s : State) : State := { s with parts := tset Part.reset p x s.parts }
/-- Changes a partition. -/
def updPart (p : Nat) (f : Part → Part) (s : State) : State := setPart p (f (partAt s p)) s

/-- The context whose bundle issues. -/
def curId (s : State) : Nat := ctxId s.core s.slot
/-- The context whose bundle issues. -/
def cur (s : State) : Ctx := ctxOf s (curId s)
/-- Changes the context whose bundle issues. -/
def updCur (f : Ctx → Ctx) (s : State) : State := updCtx (curId s) f s
/-- The core of the context whose bundle issues. -/
def curCore (s : State) : Core := coreOf s s.core
/-- Changes the core of the context whose bundle issues. -/
def updCurCore (f : Core → Core) (s : State) : State := updCore s.core f s

/-- Changes the device. -/
def updDev (f : Dev → Dev) (s : State) : State := { s with dev := f s.dev }
/-- The phaser of a number. -/
def phaserOf (s : State) (p : Nat) : Phaser := tget Phaser.reset p s.dev.phasers
/-- Replaces a phaser. -/
def setPhaser (p : Nat) (x : Phaser) (s : State) : State :=
  updDev (fun d => { d with phasers := tset Phaser.reset p x d.phasers }) s
/-- The port of a number. -/
def portOf (s : State) (i : Nat) : Port := tget (Port.reset i) i s.dev.ports
/-- Replaces a port. -/
def setPort (i : Nat) (x : Port) (s : State) : State :=
  updDev (fun d => { d with ports := tset (Port.reset i) i x d.ports }) s
/-- Adds a message to what the device has sent. -/
def send (o : Out) (s : State) : State := updDev (fun d => { d with out := d.out ++ [o] }) s

/-- The launch unit of a partition changed. -/
def updLaunch (p : Nat) (f : Launch → Launch) (s : State) : State :=
  updPart p (fun x => { x with launch := f x.launch }) s
/-- The memory side of a partition changed. -/
def updMem (p : Nat) (f : MemSys → MemSys) (s : State) : State :=
  updPart p (fun x => { x with memory := f x.memory }) s
/-- The host side of a partition changed. -/
def updHost (p : Nat) (f : HostSide → HostSide) (s : State) : State :=
  updPart p (fun x => { x with host := f x.host }) s
/-- Doorbell `k` of a partition. -/
def bellOf (s : State) (p k : Nat) : Doorbell := tget Doorbell.reset k (partAt s p).host.bells
/-- Replaces a doorbell. -/
def setBell (p k : Nat) (b : Doorbell) (s : State) : State :=
  updHost p (fun h => { h with bells := tset Doorbell.reset k b h.bells }) s
/-- The task of a handle. -/
def taskOf (s : State) (p t : Nat) : Option Task := tget none t (partAt s p).launch.tasks
/-- Replaces or removes a task. -/
def setTask (p t : Nat) (x : Option Task) (s : State) : State :=
  updLaunch p (fun l => { l with tasks := tset none t x l.tasks }) s
/-- Changes a task that exists. -/
def updTask (p t : Nat) (f : Task → Task) (s : State) : State :=
  match taskOf s p t with
  | some x => setTask p t (some (f x)) s
  | none => s

/-- A fresh number for a command, packet or update. -/
def fresh (s : State) : Nat × State := (s.ids, { s with ids := s.ids + 1 })
/-- The next free choice below `n` (log 5). -/
def choose (n : Nat) (s : State) : Nat × State :=
  (Config.freeNat s.free % n, { s with free := s.free + 1 })
/-- The next free word (log 5). -/
def freeBits (s : State) : W64 × State := (Config.freeWord s.free, { s with free := s.free + 1 })
/-- The cycle (R200). -/
def now (s : State) : Nat := s.ccn
/-- CCN (R200): 64 bits, which wrap. -/
def ccnWord (s : State) : W64 := BitVec.ofNat 64 s.ccn

/-- The dies of partition `p` (R17): whole dies in order. -/
def partDies (d : Dev) (p : Nat) : List Nat :=
  match d.parts with
  | 1 => [0, 1, 2, 3]
  | 2 => [2 * p, 2 * p + 1]
  | _ => [p]
/-- The partition of a die (R17). -/
def partOfDie (d : Dev) (die : Nat) : Nat :=
  match d.parts with
  | 1 => 0
  | 2 => die / 2
  | _ => die
/-- The die of a physical core: 16 quads of 4 cores each (R10). -/
def dieOfCore (c : Nat) : Nat := c / 64
/-- The partition of a physical core. -/
def partOfCore (d : Dev) (c : Nat) : Nat := partOfDie d (dieOfCore c)
/-- The enabled physical quads of a partition in logical order (R15). -/
def partQuads (d : Dev) (p : Nat) : List Nat :=
  ((partDies d p).flatMap fun die => (List.range 16).map fun q => 16 * die + q).filter
    fun q => d.quads.getLsbD q
/-- The physical cores of a partition in logical order (R15). -/
def partCores (d : Dev) (p : Nat) : List Nat :=
  (partQuads d p).flatMap fun q => [4 * q, 4 * q + 1, 4 * q + 2, 4 * q + 3]
/-- The physical core of a logical number (R15). -/
def physCore (d : Dev) (p l : Nat) : Option Nat := (partCores d p)[l]?
/-- The logical number of a physical core in its partition (R15). -/
def logCore (d : Dev) (c : Nat) : Nat := (partCores d (partOfCore d c)).findIdx (· == c)
/-- The controllers of a partition: 32 a die (R10). -/
def partCtrls (d : Dev) (p : Nat) : List Nat :=
  (partDies d p).flatMap fun die => (List.range 32).map fun k => 32 * die + k
/-- The usable pseudo-channels of a controller (R18). -/
def usableChans (d : Dev) (k : Nat) : List Nat := (List.range 16).filter fun i => !(tget 0 k d.chansOff).getLsbD i
/-- How many pseudo-channels of a controller are usable. -/
def chansOn (d : Dev) (k : Nat) : Nat := (usableChans d k).length
/-- The usable controllers of a partition (R18). -/
def usableCtrls (d : Dev) (p : Nat) : List Nat := (partCtrls d p).filter fun k => chansOn d k != 0
/-- The usable DRAM of a partition in MiB: 384 MiB a pseudo-channel (R10, R18). -/
def usableMib (d : Dev) (p : Nat) : Nat :=
  384 * ((partCtrls d p).foldl (fun n k => n + chansOn d k) 0)
/-- The usable DRAM of a partition in bytes, whole GiB (R16 MEMGIB). -/
def usableBytes (d : Dev) (p : Nat) : Nat := usableMib d p / 1024 * 2 ^ 30
/-- DEVID of a partition (R16). -/
def devid (d : Dev) (p : Nat) : W64 :=
  BitVec.ofNat 64 (d.form.toNat * 2 ^ 60 + 9 * 2 ^ 56 + 3 * 2 ^ 52 + d.parts * 2 ^ 49 + p * 2 ^ 47 +
    (partCores d p).length * 2 ^ 38 + (partQuads d p).length * 2 ^ 31 +
    (partDies d p).length * 2 ^ 28 + 2 * (partDies d p).length * 2 ^ 24 +
    (usableCtrls d p).length * 2 ^ 16 + usableMib d p / 1024 * 2 ^ 6)
/-- The partition of the context whose bundle issues. -/
def curPart (s : State) : Nat := partOfCore s.dev s.core

/-- A scalar register; s0 reads 0 (R72). -/
def sget (c : Ctx) (n : Nat) : W64 := if n = 0 then 0 else tget 0 n c.regs.s
/-- A scalar register's poison bit (R222). -/
def spois (c : Ctx) (n : Nat) : Bool := n != 0 && c.regs.sPois.getLsbD n
/-- A vector register of a cluster, by `32 * cluster + n` (R72). -/
def vget (c : Ctx) (k : Nat) : Row := tget 0 k c.regs.v
/-- A predicate, by `8 * cluster + n`; pa0 and pb0 read all ones (R72). -/
def pget (c : Ctx) (k : Nat) : Pred := if k % 8 = 0 then BitVec.allOnes 512 else tget 0 k c.regs.p
/-- A predicate's poison bit (R222). -/
def ppois (c : Ctx) (k : Nat) : Bool := k % 8 != 0 && c.regs.pPois.getLsbD k
/-- A guard's value; g0 reads true (R72). -/
def gget (c : Ctx) (n : Nat) : Bool := n == 0 || c.regs.g.getLsbD n
/-- A guard is unresolved while a write to it is in flight (R76). -/
def gresolved (c : Ctx) (n : Nat) : Bool :=
  n == 0 || !(c.fly.flights.any fun f => f.file == .guard && f.reg == n)
/-- Sets or clears a bit. -/
def setBit {n : Nat} (x : BitVec n) (i : Nat) (b : Bool) : BitVec n :=
  if b then x ||| BitVec.ofNat n (2 ^ i) else x &&& ~~~(BitVec.ofNat n (2 ^ i))
/-- Writes a scalar register and its poison bit; s0 discards (R72, R222). -/
def sput (n : Nat) (v : W64) (pois : Bool) (r : Regs) : Regs :=
  if n = 0 then r else { r with s := tset 0 n v r.s, sPois := setBit r.sPois n pois }
/-- Writes a vector register and its poison bit. -/
def vput (k : Nat) (v : Row) (pois : Bool) (r : Regs) : Regs :=
  { r with v := tset 0 k v r.v, vPois := setBit r.vPois k pois }
/-- Writes a predicate and its poison bit; pa0 and pb0 discard (R72). -/
def pput (k : Nat) (v : Pred) (pois : Bool) (r : Regs) : Regs :=
  if k % 8 = 0 then r else { r with p := tset 0 k v r.p, pPois := setBit r.pPois k pois }
/-- Writes a guard; g0 discards (R72). -/
def gput (n : Nat) (b : Bool) (r : Regs) : Regs :=
  if n = 0 then r else { r with g := setBit r.g n b }
/-- Any register of the context is poisoned (R225). -/
def anyPoison (c : Ctx) : Bool := c.regs.sPois != 0 || c.regs.vPois != 0 || c.regs.pPois != 0

/-- A semaphore's value; sm0 reads 0 (R211). -/
def semGet (k : Core) (i : Nat) : BitVec 16 := if i = 0 then 0 else tget 0 i k.sems
/-- Writes a semaphore; sm0 discards (R211). -/
def semPut (i : Nat) (v : BitVec 16) (k : Core) : Core :=
  if i = 0 then k else { k with sems := tset 0 i v k.sems }
/-- A wait on a semaphore is satisfied (R210): after every update of the cycles before this one. -/
def semOk (k : Core) (i thr : Nat) : Bool := i == 0 || ((tget 0 i k.semView).toNat % 256 + 256 - thr) % 256 < 128
/-- A semaphore a context may name (R73). -/
def semMine (c : Ctx) (i : Nat) : Bool := i == 0 || c.ctl.sam.getLsbD i

end Sys2Proof.Machine
end

