-- ==== Sys2Proof/Machine/Log.lean ====
section
/-! DEFINITION. The records a partition posts (R196, R231, R266, R397): the error log, the
fault-address queue and the migration queue, with their indices in the counter page. -/

namespace Sys2Proof.Machine

/-- Writes one record into a placed ring, or drops it when the ring is full (R397): `idx` is the word of
the ring's producer index in the counter page, `size` the bytes of a record. A ring that RETIRE has left beyond the usable
DRAM is read and written as before (DESIGN CHOICE, log 78). -/
def postRing (p idx size : Nat) (r : RecRing) (rec : Bool → List Byte) (s : State) : RecRing × State :=
  let page := (partAt s p).memory.cntPage
  let prod := physNat s p (page + 8 * idx) 8
  let cons := physNat s p (page + 8 * (idx + 1)) 8
  if (prod + 2 ^ 64 - cons) % 2 ^ 64 < 2 ^ r.log then
    let s := physWrite p (r.base + size * (prod % 2 ^ r.log)) (rec r.lost) s
    ({ r with lost := false }, physWriteNat p (page + 8 * idx) 8 ((prod + 1) % 2 ^ 64) s)
  else ({ r with lost := true }, s)

/-- A 64-byte record of the error log (R266). -/
def errRecord (kind slot core unit ccn addr info : Nat) (lost : Bool) : List Byte :=
  leBytes 2 kind ++ [if lost then 1 else 0] ++ leBytes 1 slot ++ leBytes 2 core ++ leBytes 2 unit ++
    leBytes 8 ccn ++ leBytes 8 addr ++ leBytes 8 info ++ leBytes 32 0

/-- Posts a record to a partition's error log (R266); an error log that is not placed holds none. -/
def logErr (p kind slot core unit addr info : Nat) (s : State) : State :=
  match (partAt s p).memory.errlog with
  | none => s
  | some r =>
    let (r, s) := postRing p 16 64 r (errRecord kind slot core unit (now s) addr info) s
    updMem p (fun m => { m with errlog := some r }) s

/-- Adds 1 to a count of the error log; the rejection counts of rings 0 to 7 stand in the counter page
(R266), wherever RETIRE has left that (DESIGN CHOICE, log 78). -/
def countErr (p k : Nat) (s : State) : State :=
  let s := updMem p (fun m => { m with errCounts := tmod 0 k (· + 1) m.errCounts }) s
  match (partAt s p).memory.errlog with
  | some _ =>
    if k < 8 then
      let a := (partAt s p).memory.cntPage + 8 * k
      physWriteNat p a 8 ((physNat s p a 8 + 1) % 2 ^ 64) s
    else s
  | none => s

/-- Posts a fault-address record (R196). -/
def postFaq (p paddr kind ctrl pch : Nat) (s : State) : State :=
  match (partAt s p).memory.faq with
  | none => s
  | some r =>
    let (r, s) := postRing p 18 32 r (fun lost =>
      leBytes 8 paddr ++ leBytes 1 kind ++ leBytes 1 ctrl ++ leBytes 1 pch ++
        [if lost then 1 else 0] ++ leBytes 8 (now s) ++ leBytes 12 0) s
    updMem p (fun m => { m with faq := some r }) s

/-- Posts a migration record (R231). -/
def postMig (p region peer part : Nat) (s : State) : State :=
  match (partAt s p).memory.migq with
  | none => s
  | some r =>
    let (r, s) := postRing p 20 32 r (fun lost =>
      leBytes 8 region ++ leBytes 2 peer ++ leBytes 1 part ++ [if lost then 1 else 0] ++
        leBytes 8 (now s) ++ leBytes 12 0) s
    updMem p (fun m => { m with migq := some r }) s

/-- A vector's message goes out: the function's MSI-X is enabled and neither it nor the vector is masked (R242). -/
def vecOpen (h : HostSide) (v : Nat) : Bool := h.msixEnable && !h.msixMask && h.msixOn.contains v

/-- The message of a vector: the address and data of its table entry (R242). -/
def sendVec (p v : Nat) (s : State) : State :=
  let e := tget 0 v (partAt s p).host.msixTable
  send (.msix p v (bits e 63 0) (bits e 95 64)) s

/-- Sends an MSI-X vector, or sets its pending bit while it is masked (R242). -/
def msix (p v : Nat) (s : State) : State :=
  if vecOpen (partAt s p).host v then sendVec p v s
  else updHost p (fun h =>
    { h with msixPend := if h.msixPend.contains v then h.msixPend else h.msixPend ++ [v] }) s

/-- Adds to a 64-bit wrapping counter of the counter block (R179): index 8 * core + i, or
8 * 256 + controller for REFCLOSE. -/
def bumpCounter (p k n : Nat) (s : State) : State :=
  updMem p (fun m => { m with counters := tmod 0 k (· + BitVec.ofNat 64 n) m.counters }) s

end Sys2Proof.Machine
end

