-- ==== Sys2Proof/Machine/Links.lean ====
section
/-! DEFINITION. Links to other devices (R226 to R228, R232 to R235): fabric addresses, routes, the flits that leave on a
port, and the pairs whose traffic is confidential. -/

namespace Sys2Proof.Machine

/-- The device's own fabric address (R226). -/
def ownFa (d : Dev) : Nat := 32 * d.group + d.member

/-! ## Flits (R228, R232) -/

/-- The sequence numbers of a port (R232): 12 bits on local ports, 0 to 30, and 16 on global ones. -/
def seqMod (port : Nat) : Nat := if port < 31 then 2 ^ 12 else 2 ^ 16
/-- The flits of a port's retry buffer (R232). -/
def retryCap (port : Nat) : Nat := if port < 31 then 512 else 4096

/-- Flits leave on a port into its retry buffer (R232); what a flit carries is not laid down, so it is a free value
(log 5). -/
def sendFlits (port : Nat) : Nat → State → State
  | 0, s => s
  | n + 1, s =>
    let (v, s) := freeBits s
    let x := portOf s port
    sendFlits port n (setPort port { x with
      sendSeq := (x.sendSeq + 1) % seqMod port, retry := x.retry ++ [(x.sendSeq, v, 0)] } s)

/-- A port has room for some flits in its retry buffer (R228, R232). -/
def portRoom (s : State) (i n : Nat) : Bool :=
  let x := portOf s i
  x.up && !x.retraining && decide (x.retry.length + n ≤ retryCap i)

/-- The messages that wait for room on a port leave, in order; `fuel` of them at most. -/
def drainPort (port : Nat) : Nat → State → State
  | 0, s => s
  | fuel + 1, s =>
    match (portOf s port).queue with
    | [] => s
    | (n, o) :: rest =>
      if portRoom s port n then
        drainPort port fuel (send o (sendFlits port n (setPort port { portOf s port with queue := rest } s)))
      else s

/-- What waits on a port goes out as far as there is room. -/
def drainAll (port : Nat) (s : State) : State := drainPort port (portOf s port).queue.length s

/-- A message of some flits leaves on a port, behind those that wait there for room (R232). -/
def sendVia (port n : Nat) (o : Out) (s : State) : State :=
  drainAll port (setPort port { portOf s port with queue := (portOf s port).queue ++ [(n, o)] } s)

/-- The port packets of one source to a granule of another device leave on (R227): one route for them all while the same
ports are up. Which it is, is a free value (log 69). -/
def routeTo (s : State) (src fa q granule : Nat) : Option Nat :=
  let up := (List.range 95).filter fun i => (portOf s i).up
  up[Config.route src fa q granule % max 1 up.length]?

/-! ## Confidential pairs (R234) -/

/-- The tag flits that follow the flits of a confidential packet (R234): one for every group of 16, the last of them
perhaps short. -/
def tagFlits (n : Nat) : Nat := ceilDiv n 16

/-- This side of a pair allows confidential traffic (R234). -/
def pairRuns (s : State) (p fa q : Nat) : Bool :=
  (partAt s p).host.tdi == .run && (partAt s p).host.pairs.contains (fa, q)

/-- The two sides of a pair on this device share a session key (R234): a free value, set up when traffic first needs
it (log 67). -/
def shareKey (p q : Nat) (s : State) : State :=
  let me := ownFa s.dev
  if (partAt s p).host.keys.any fun k => k.1 == me && k.2.1 == q then s
  else
    let (v, s) := freeBits s
    updHost q (fun h => { h with keys := h.keys ++ [(me, p, v)] })
      (updHost p (fun h => { h with keys := h.keys ++ [(me, q, v)] }) s)

/-- The session key of a pair with another device's partition. -/
def pairKey (p fa q : Nat) (s : State) : State :=
  if (partAt s p).host.keys.any fun k => k.1 == fa && k.2.1 == q then s
  else
    let (v, s) := freeBits s
    updHost p (fun h => { h with keys := h.keys ++ [(fa, q, v)] }) s

/-- Traffic to another partition is confidential (R234): the pair is declared and both TDIs are in RUN, and it then has
its session key. Of a pair with another device, that device's side is not known here: a free choice (log 5). -/
def confidential (p : Nat) (d : Dest) (s : State) : Bool × State :=
  let here (q : Nat) : Bool × State :=
    if p ≠ q ∧ pairRuns s p (ownFa s.dev) q ∧ pairRuns s q (ownFa s.dev) p then (true, shareKey p q s) else (false, s)
  match d with
  | .peer fa q =>
    if pairRuns s p fa q then
      let (n, s) := choose 2 s
      if n = 1 then (true, pairKey p fa q s) else (false, s)
    else (false, s)
  | .local q => here q
  | .window q => here q
  | .host => (false, s)

/-- A packet of a partition's own unit goes to another device or the host, true when it meets a fabric error (R226, R233):
its flits leave on its route, with their tags when its pair is confidential (R232, R234); without a route it meets an
error, else that is a free choice (log 5). Units have routes of their own (log 69). -/
def reach (p : Nat) (d : Dest) (pa n : Nat) (o : Out) (s : State) : Bool × State :=
  match d with
  | .peer fa q =>
    match routeTo s (2 ^ 16 + p) fa q (pa / 256) with
    | none => (true, s)
    | some port =>
      let (conf, s) := confidential p d s
      let (k, s) := choose 2 (sendVia port (n + if conf then tagFlits n else 0) o s)
      (k == 0, s)
  | _ => (false, send o s)

end Sys2Proof.Machine
end

