-- ==== Sys2Proof/Machine/Translate.lean ====
section
/-! DEFINITION. Translation (R189 to R192, R195, R226, R241): page-table walks, permissions, the expansion of
compressed pages; DRAM errors (R197); the peer copy and the access counters (R229 to R231); and accesses made through a
partition's translation by its own units. -/

namespace Sys2Proof.Machine

/-- The fabric address a PEER value names in a partition (R226). -/
def peerFa (s : State) (p peer : Nat) : Nat := ((partAt s p).host.pbase + peer) % 65568
/-- The first byte of the device window (R241). -/
def windowBase : Nat := 0x01FFFFFFFFFF0000

/-- A field of a page-table entry (R190). -/
def pteBits (e : BitVec 128) (h l : Nat) : Nat := bits e h l
/-- The physical address FRAME names (R190). -/
def pteFrame (e : BitVec 128) : Nat := 512 * pteBits e 111 64
/-- MODE (R190). -/
def pteMode (e : BitVec 128) : Nat := pteBits e 7 6
/-- The page size of a leaf (R189). -/
def pageSize (level : Nat) : Nat := if level = 2 then 2 ^ 21 else 2 ^ 16

/-- A leaf entry, the level it stands at and its own physical address (R189). -/
structure Leaf where
  pte : BitVec 128
  level : Nat
  home : Nat
  deriving DecidableEq, Repr

/-- A leaf's own rules (R190, R191). -/
def leafOk (s : State) (p level : Nat) (e : BitVec 128) : Bool :=
  let frame := pteFrame e
  let peer := pteBits e 47 32
  let own := peer != 0xFFFF && peerFa s p peer == ownFa s.dev && pteBits e 13 12 == p
  let inDram := frame + pageSize level ≤ usableBytes s.dev p || (level == 3 && frame == windowBase)
  pteBits e 127 112 == 0 && pteBits e 63 48 == 0 && pteBits e 31 18 == 0 && pteBits e 11 9 == 0 &&
    frame % pageSize level == 0 &&
    (if pteMode e = 0 then own && inDram else !own && (peer != 0xFFFF || pteMode e == 1))

/-- A table pointer's own rules (R190, R191): V and FRAME alone, aligned for the next level, and the
next table within the partition's DRAM. -/
def pointerOk (s : State) (p level : Nat) (e : BitVec 128) : Bool :=
  let size := if level = 2 then 512 else 65536
  pteBits e 127 112 == 0 && pteBits e 63 1 == 0 && pteFrame e % size == 0 &&
    pteFrame e + size ≤ usableBytes s.dev p

/-! ## Granules and their errors (R175, R197) -/

/-- The home controller of a granule of a partition (R175). -/
def homeCtrl (s : State) (p g : Nat) : Nat :=
  let l := usableCtrls s.dev p
  l.getD (Config.granuleHash g % max 1 l.length) 0

/-- The number in its partition of a granule's controller, and the pseudo-channel there (R175, R196). -/
def granulePlace (s : State) (p g : Nat) : Nat × Nat :=
  let k := homeCtrl s p g
  let l := usableChans s.dev k
  ((partCtrls s.dev p).findIdx (· == k), l.getD (Config.granuleHash (g + 2 ^ 57) % max 1 l.length) 0)

/-- Some granule of `n` bytes from `a` is homed at a controller that is retraining (R274). -/
def notReady (s : State) (p a n : Nat) : Bool :=
  (List.range ((a + n - 1) / 256 - a / 256 + 1)).any fun i =>
    (partAt s p).memory.retrain.contains (homeCtrl s p (a / 256 + i))

/-- A granule among `n` bytes from `pa` holds an uncorrectable error (R197). -/
def dramBad (s : State) (q pa n : Nat) : Bool :=
  (List.range ((pa + n - 1) / 256 - pa / 256 + 1)).any fun i =>
    2 ≤ tget 0 (pa / 256 + i) (partAt s q).memory.dramErr

/-- A bit error met by a read of a granule (R197): a correctable one is counted and gone (DESIGN CHOICE, log 20), an
uncorrectable one is posted. -/
def meetDramError (q pa : Nat) (s : State) : Bool × State :=
  let g := pa / 256
  let m := (partAt s q).memory
  match tget 0 g m.dramErr with
  | 0 => (false, s)
  | 1 => (false, updMem q (fun m => { m with
      dramErr := tset 0 g 0 m.dramErr, ceCount := tmod 0 g (· + 1) m.ceCount }) s)
  | _ => (true, postFaq q (256 * g) 2 (granulePlace s q g).1 (granulePlace s q g).2 s)

/-- The bit errors met by a read of `n` bytes from `pa`: true if one of them cannot be corrected. -/
def meetErrors (q pa n : Nat) (s : State) : Bool × State :=
  let hit := (partAt s q).memory.dramErr.filter fun e =>
    decide (pa / 256 ≤ e.1) && decide (e.1 ≤ (pa + n - 1) / 256)
  hit.foldl (fun (a : Bool × State) e =>
    let (bad, s) := meetDramError q (256 * e.1) a.2
    (a.1 || bad, s)) (false, s)

/-- The granules wholly within `n` bytes from `pa` hold no error once those bytes are written (DESIGN CHOICE, log 20). -/
def healBytes (q pa n : Nat) (s : State) : State :=
  let whole (g : Nat) : Bool := decide (pa ≤ 256 * g) && decide (256 * g + 256 ≤ pa + n)
  updMem q (fun m => { m with dramErr := m.dramErr.filter fun e => !whole e.1 }) s

/-! ## The walk -/

/-- The walk of R189 from the table at `table`, `fuel` levels from the bottom up; none is a translation
fault (R191), as is an entry with an uncorrectable error (DEDUCED, log 66). -/
def walkFrom (s : State) (p va : Nat) : Nat → Nat → Option Leaf
  | 0, _ => none
  | fuel + 1, table =>
    let level := 3 - fuel
    let idx := if level = 3 then va / 2 ^ 16 % 32 else va / 2 ^ (45 - 12 * level) % 4096
    let home := table + 16 * idx
    let e := BitVec.ofNat 128 (physNat s p home 16)
    if !e.getLsbD 0 || dramBad s p home 16 then none
    else if e.getLsbD 1 then
      if level ≥ 2 && leafOk s p level e then some ⟨e, level, home⟩ else none
    else if level < 3 && pointerOk s p level e then walkFrom s p va fuel (pteFrame e) else none

/-- A whole walk (R189); without a root, or with a root table outside the DRAM, every access faults. -/
def walk (s : State) (p va : Nat) : Option Leaf :=
  match (partAt s p).memory.root with
  | none => none
  | some r => if r + 65536 ≤ usableBytes s.dev p && va < 2 ^ 57 then walkFrom s p va 4 r else none

/-- The entries a walk reads, from the table at `table`. -/
def walkHomes (s : State) (p va : Nat) : Nat → Nat → List Nat
  | 0, _ => []
  | fuel + 1, table =>
    let level := 3 - fuel
    let idx := if level = 3 then va / 2 ^ 16 % 32 else va / 2 ^ (45 - 12 * level) % 4096
    let home := table + 16 * idx
    let e := BitVec.ofNat 128 (physNat s p home 16)
    home :: (if e.getLsbD 0 && !e.getLsbD 1 && decide (level < 3) && pointerOk s p level e then
      walkHomes s p va fuel (pteFrame e) else [])

/-- The bit errors a whole walk meets are counted or posted (R197). -/
def meetWalk (p va : Nat) (s : State) : State :=
  match (partAt s p).memory.root with
  | none => s
  | some r =>
    if (partAt s p).memory.dramErr.isEmpty || usableBytes s.dev p < r + 65536 || 2 ^ 57 ≤ va then s
    else (walkHomes s p va 4 r).foldl (fun s home => (meetErrors p home 16 s).2) s

/-- The TLB entry of a die that covers an address (R192). -/
def tlbHit (s : State) (p die va : Nat) : Option Leaf :=
  ((partAt s p).memory.tlb.find? fun e =>
    e.die == die && (if e.level = 2 then e.page / 32 == va / 2 ^ 21 else e.page == va / 2 ^ 16)).map
    fun e => ⟨e.pte, e.level, e.home⟩

/-- Fills a die's TLB (R192: 4,096 entries); the victim of a full TLB is a free choice (log 5). -/
def tlbFill (p die va : Nat) (l : Leaf) (s : State) : State :=
  let mine := (partAt s p).memory.tlb.filter (·.die == die)
  let (v, s) := if mine.length ≥ 4096 then choose 4096 s else (4096, s)
  updMem p (fun m =>
    let tlb := match mine[v]? with | some x => m.tlb.erase x | none => m.tlb
    { m with tlb := tlb ++ [⟨die, va / 2 ^ 16, l.level, l.pte, l.home⟩] }) s

/-- What an access needs of its page (R191). -/
inductive Need where
  | read | write | atomic | amo | exec | none
  deriving DecidableEq, Repr

/-- The permission rules of R191; an AMO reads as well (R281). -/
def allowed (e : BitVec 128) (n : Need) : Bool :=
  match n with
  | .read => e.getLsbD 2
  | .write => e.getLsbD 3
  | .atomic => e.getLsbD 3 && e.getLsbD 5
  | .amo => e.getLsbD 2 && e.getLsbD 3 && e.getLsbD 5
  | .exec => e.getLsbD 4
  | .none => true

/-- A physical address lies in the device alias (R241). -/
def inAlias (pa : Nat) : Bool := decide (windowBase ≤ pa) && decide (pa < windowBase + 65536)

/-- Where a leaf sends an access to a physical address (R190, R226, R241): a page of another partition of this device
reaches that partition's alias. -/
def destOf (s : State) (p : Nat) (e : BitVec 128) (pa : Nat) : Dest :=
  let here (q : Nat) : Dest := if inAlias pa then .window q else .local q
  if pteMode e = 0 then here p
  else if pteBits e 47 32 = 0xFFFF then .host
  else if peerFa s p (pteBits e 47 32) = ownFa s.dev then here (pteBits e 13 12)
  else .peer (peerFa s p (pteBits e 47 32)) (pteBits e 13 12)

/-- The physical address a leaf gives a virtual one. -/
def leafPa (l : Leaf) (va : Nat) : Nat := pteFrame l.pte + va % pageSize l.level

/-- Memory that no partition of this device has: a partition not configured, or an address beyond its usable DRAM
(R17, R18). An access to it is answered with a fabric error (DEDUCED from R226, log 66). -/
def absent (s : State) (q pa n : Nat) : Bool := decide (s.dev.parts ≤ q) || decide (usableBytes s.dev q < pa + n)

/-- The bytes of a freed compressed frame's page: those it was made from, or free values when no
compression made it (R195; log 5, log 7). -/
def expandedData (p frame : Nat) (large : Bool) (s : State) : List Byte × State :=
  match (partAt s p).memory.frames.find? fun f => f.frame == frame && f.large == large with
  | some f => (f.data, s)
  | none =>
    let n := if large then 2 ^ 21 else 2 ^ 16
    ((List.range n).map fun i => BitVec.ofNat 8 (Config.freeNat (s.free + i)), { s with free := s.free + n })

/-- Expansion of a compressed page (R195): a frame from the pool, the data into it, the entry replaced by a
compare-and-swap (not performed where the entry cannot be read, R197), the old frame posted. None when the pool is
empty. A frame that RETIRE has left beyond the usable DRAM is used as before (DESIGN CHOICE, log 78). -/
def expand (p : Nat) (l : Leaf) (s : State) : Option State :=
  let large := l.level == 2
  match (partAt s p).memory.pool.find? fun f => f.2 == large with
  | none => none
  | some f =>
    if BitVec.ofNat 128 (physNat s p l.home 16) = l.pte ∧ !dramBad s p l.home 16 then
      let (data, s) := expandedData p (pteFrame l.pte) large s
      let old := pteFrame l.pte
      let e := (l.pte.toNat - 2 ^ 8 - pteBits l.pte 111 64 * 2 ^ 64) + f.1 / 512 * 2 ^ 64
      let s := updMem p (fun m => { m with
        pool := m.pool.erase f
        frames := m.frames.filter (fun x => x.frame != old)
        tlb := m.tlb.filter (fun t => t.home != l.home) }) s
      let at_ := granulePlace s p (old / 256)
      some (postFaq p old 3 at_.1 at_.2 (plant p l.home (leBytes 16 e) (plant p f.1 data s)))
    else some (updMem p (fun m => { m with tlb := m.tlb.filter (fun t => t.home != l.home) }) s)

/-- A translated byte address. -/
structure Where where
  dest : Dest
  pa : Nat
  pte : BitVec 128
  level : Nat
  deriving DecidableEq, Repr

/-- The leaf for an address: from the die's TLB, else by a walk (R192). -/
def leafFor (s : State) (p die va : Nat) : Option Leaf :=
  match tlbHit s p die va with
  | some l => some l
  | none => walk s p va

/-- The leaf once its page is expanded (R195): the access walks again after each expansion, one that failed as well, so
that it comes to no compressed page. None on a translation fault. -/
def expandedLeaf (p va : Nat) : Nat → Leaf → State → Option Leaf × State
  | 0, _, s => (none, s)
  | fuel + 1, l, s =>
    if !l.pte.getLsbD 8 then (some l, s)
    else
      match expand p l s with
      | none => (none, s)
      | some s =>
        match walk s p va with
        | none => (none, meetWalk p va s)
        | some l => expandedLeaf p va fuel l (meetWalk p va s)

/-- Translates one address with its permission (R191): the cause code of the fault, 0x07 or 0x08
(R249), or the place. A compressed page is expanded first (R195). -/
def translate (p die va : Nat) (n : Need) (s : State) : Except Nat Where × State :=
  let r := leafFor s p die va
  let s := if (tlbHit s p die va).isNone then meetWalk p va s else s
  match r with
  | none => (.error 7, s)
  | some l =>
    match expandedLeaf p va 3 l s with
    | (none, s) => (.error 7, s)
    | (some l, s) =>
      if allowed l.pte n then (.ok ⟨destOf s p l.pte (leafPa l va), leafPa l va, l.pte, l.level⟩, s) else (.error 8, s)

/-! ## The peer copy and the access counters (R229 to R231) -/

/-- The owner of memory reached through a page that is not LOCAL (R229): none for the host and an alias. -/
def ownerOf (s : State) (e : BitVec 128) (d : Dest) (pa : Nat) : Option (Nat × Nat) :=
  if pteMode e = 0 ∨ inAlias pa then none
  else
    match d with
    | .peer fa q => some (fa, q)
    | .local q => some (ownFa s.dev, q)
    | _ => none

/-- The owner of a granule kept in the peer copy (R229): none when the page is not PEERCACHE or the copy has no
room (R230). -/
def copyOwner (s : State) (p : Nat) (e : BitVec 128) (d : Dest) (pa : Nat) : Option (Nat × Nat) :=
  if pteMode e = 2 ∧ (partAt s p).memory.peerSize ≠ 0 then ownerOf s e d pa else none

/-- A line is this granule's. -/
def PeerLine.isFor (x : PeerLine) (o : Nat × Nat) (g : Nat) : Bool := x.fa == o.1 && x.part == o.2 && x.granule == g

/-- The line of a granule. -/
def lineOf (s : State) (p : Nat) (o : Nat × Nat) (g : Nat) : Option PeerLine :=
  (partAt s p).memory.peer.find? (·.isFor o g)

/-- Drops a granule from the peer copy (R229). -/
def dropLine (p : Nat) (o : Nat × Nat) (g : Nat) (s : State) : State :=
  updMem p (fun m => { m with peer := m.peer.filter fun x => !x.isFor o g }) s

/-- Puts a granule first in the peer copy; the least recently used leaves a full one (R230). -/
def putLine (p : Nat) (x : PeerLine) (s : State) : State :=
  updMem p (fun m =>
    { m with peer := (x :: m.peer.filter fun y => !y.isFor (x.fa, x.part) x.granule).take (m.peerSize / 256) }) s

/-- The data packet `n` has fetched comes into the line that waits for it: not into one put in after an invalidation
took that line out (R229). -/
def fillLine (p : Nat) (o : Nat × Nat) (g n : Nat) (data : List Byte) (s : State) : State :=
  let put (y : PeerLine) : PeerLine :=
    if y.isFor o g && y.filling == some n then { y with data := data, filling := none } else y
  updMem p (fun m => { m with peer := m.peer.map put }) s

/-- The data packet `n` has fetched stands by in its line until its group's tag verifies (R235). -/
def stageLine (p : Nat) (o : Nat × Nat) (g n : Nat) (data : List Byte) (s : State) : State :=
  let put (y : PeerLine) : PeerLine := if y.isFor o g && y.filling == some n then { y with data := data } else y
  updMem p (fun m => { m with peer := m.peer.map put }) s

/-- The lines that wait for packet `n` hold what it has fetched. -/
def openLine (p n : Nat) (s : State) : State :=
  let put (y : PeerLine) : PeerLine := if y.filling = some n then { y with filling := none } else y
  updMem p (fun m => { m with peer := m.peer.map put }) s

/-- A write through a PEERCACHE page, or an atomic through any page of another owner, takes the granule out of the
copy as it issues (R215, R229). -/
def dropCopy (p : Nat) (e : BitVec 128) (d : Dest) (pa : Nat) (atomic : Bool) (s : State) : State :=
  match ownerOf s e d pa with
  | some o => if atomic || pteMode e == 2 then dropLine p o (pa / 256) s else s
  | none => s

/-- Counts a packet through a MIGRATE entry (R231): a full table drops the counter least recently used. -/
def countAccess (p die va : Nat) (e : BitVec 128) (s : State) : State :=
  let act := pteBits e 17 14
  if pteMode e = 3 ∧ act ≠ 0 then
    updMem p (fun m =>
      let region := va / 2 ^ 21
      let same (x : AccCount) : Bool := x.die == die && x.region == region
      let old := ((m.acc.find? same).map (·.count)).getD 0
      let rest := m.acc.filter fun x => !same x
      let rest := if (rest.filter (·.die == die)).length ≥ 4096 then
          match (rest.filter (·.die == die)).getLast? with
          | some v => rest.erase v
          | none => rest
        else rest
      { m with acc := ⟨die, region, old + 1, pteBits e 47 32, pteBits e 13 12, act⟩ :: rest }) s
  else s

/-- The threshold a counter has reached (R231). -/
def accReached (x : AccCount) : Bool := decide (2 ^ (x.act + 7) ≤ x.count)

/-- A counter that has reached its threshold (R231): a migration record, and it starts again at 0. -/
def postCrossed (p die region : Nat) (s : State) : State :=
  match (partAt s p).memory.acc.find? fun x => x.die == die && x.region == region && accReached x with
  | none => s
  | some x =>
    postMig p (2 ^ 21 * region) x.peer x.part
      (updMem p (fun m => { m with acc := m.acc.map fun y => if y = x then { y with count := 0 } else y }) s)

/-- Counts a packet of a unit's access; each is one packet, so its record is posted before the next is counted (R231). -/
def countUnit (p die va : Nat) (e : BitVec 128) (s : State) : State :=
  postCrossed p die (va / 2 ^ 21) (countAccess p die va e s)

/-! ## Accesses of a partition's own units -/

/-- Free bytes for what memory outside this device answers (log 5). -/
def freeBytes (n : Nat) (s : State) : List Byte × State :=
  ((List.range n).map fun i => (Config.freeWord (s.free + i)).setWidth 8, { s with free := s.free + n })

/-- An access reaches a device alias (R241): of a partition of this device or of another. -/
def reachesAlias (d : Dest) (pa : Nat) : Bool := d != .host && inAlias pa

/-- Bytes of memory, or the cause of R249 that stops the read: an uncorrectable error, a fabric error, an alias, which
takes no such access (R241), or a controller that retrains and answers not ready (R274; DEDUCED, log 31). What another
device or the host answers is a free value; `p` is the partition that reads. -/
def readFrom (p : Nat) (d : Dest) (pa n : Nat) (s : State) : Except Nat (List Byte) × State :=
  match d with
  | .local q =>
    if absent s q pa n || notReady s q pa n then (.error 0x0A, s)
    else
      let (bad, s) := meetErrors q pa n s
      if bad then (.error 0x09, s) else (.ok (seenBytes s q pa n), s)
  | .window _ => (.error 0x08, s)
  | d =>
    if reachesAlias d pa then (.error 0x08, s)
    else
      let (bad, s) := reach p d pa 1 (.read d pa) s
      if bad then (.error 0x0A, s)
      else
        let (bs, s) := freeBytes n s
        (.ok bs, s)

/-- Writes bytes to memory: false where a fabric error, an alias or a controller that retrains stops it. -/
def writeTo (p : Nat) (d : Dest) (pa : Nat) (bs : List Byte) (s : State) : Bool × State :=
  match d with
  | .local q =>
    if absent s q pa bs.length || notReady s q pa bs.length then (false, s)
    else (true, healBytes q pa bs.length (physWrite q pa bs s))
  | .window _ => (false, s)
  | d =>
    if reachesAlias d pa then (false, s)
    else
      let (bad, s) := reach p d pa (1 + ceilDiv bs.length 64) (.write d pa bs) s
      (!bad, s)

/-- The pieces of `n` bytes from `va` that lie in one granule each: where each begins from `va`, and its length. -/
def granuleCuts (va n : Nat) : List (Nat × Nat) :=
  (List.range ((va + n - 1) / 256 - va / 256 + 1)).map fun i =>
    let lo := max va (256 * (va / 256 + i))
    (lo - va, min (va + n) (256 * (va / 256 + i) + 256) - lo)

/-- Reads bytes of one granule through a page that is not LOCAL (R229, R231): the peer copy serves a granule it holds
and keeps one it fetches. -/
def readPiece (p die va : Nat) (e : BitVec 128) (d : Dest) (pa n : Nat) (s : State) : Except Nat (List Byte) × State :=
  let s := countUnit p die va e s
  match copyOwner s p e d pa with
  | none => readFrom p d pa n s
  | some o =>
    let g := pa / 256
    let part (data : List Byte) : List Byte := (data.drop (pa % 256)).take n
    match (lineOf s p o g).filter (·.filling.isNone) with
    | some x => (.ok (part x.data), putLine p x s)
    | none =>
      match readFrom p d (256 * g) 256 s with
      | (.ok data, s) => (.ok (part data), putLine p ⟨o.1, o.2, g, data, none⟩ s)
      | (.error k, s) => (.error k, s)

/-- Reads bytes of one 64 KiB page. -/
def readPage (p die va : Nat) (w : Where) (n : Nat) (s : State) : Except Nat (List Byte) × State :=
  if pteMode w.pte = 0 then readFrom p w.dest w.pa n s
  else
    (granuleCuts va n).foldl (fun (a : Except Nat (List Byte) × State) c =>
      match a.1 with
      | .error _ => a
      | .ok bs =>
        match readPiece p die (va + c.1) w.pte w.dest (w.pa + c.1) c.2 a.2 with
        | (.ok b, s) => (.ok (bs ++ b), s)
        | (.error k, s) => (.error k, s)) (.ok [], s)

/-- Writes bytes of one 64 KiB page, false on a fault. -/
def writePage (p die va : Nat) (w : Where) (bs : List Byte) (s : State) : Bool × State :=
  if pteMode w.pte = 0 then writeTo p w.dest w.pa bs s
  else
    (granuleCuts va bs.length).foldl (fun (a : Bool × State) c =>
      if a.1 then
        let pa := w.pa + c.1
        writeTo p w.dest pa ((bs.drop c.1).take c.2)
          (dropCopy p w.pte w.dest pa false (countUnit p die (va + c.1) w.pte a.2))
      else a) (true, s)

/-- The bytes left before the end of a 64 KiB page. -/
def pageLeft (va : Nat) : Nat := 65536 - va % 65536

/-- Reads `n` bytes through a partition's translation, page by page (`fuel` pages): none on a translation or permission
fault, a fabric error or an uncorrectable error. -/
def vread (p die : Nat) (need : Need) : Nat → Nat → Nat → State → Option (List Byte) × State
  | 0, _, _, s => (some [], s)
  | fuel + 1, va, n, s =>
    if n = 0 then (some [], s)
    else
      let k := min n (pageLeft va)
      match translate p die va need s with
      | (.error _, s) => (none, s)
      | (.ok w, s) =>
        match readPage p die va w k s with
        | (.error _, s) => (none, s)
        | (.ok bs, s) =>
          match vread p die need fuel (va + k) (n - k) s with
          | (some r, s) => (some (bs ++ r), s)
          | (none, s) => (none, s)

/-- Writes bytes through a partition's translation, page by page; false on a fault, after which what came before it
stands written. -/
def vwriteAs (p die : Nat) (need : Need) : Nat → Nat → List Byte → State → Bool × State
  | 0, _, _, s => (true, s)
  | fuel + 1, va, bs, s =>
    if bs.isEmpty then (true, s)
    else
      let k := min bs.length (pageLeft va)
      match translate p die va need s with
      | (.error _, s) => (false, s)
      | (.ok w, s) =>
        match writePage p die va w (bs.take k) s with
        | (false, s) => (false, s)
        | (true, s) => vwriteAs p die need fuel (va + k) (bs.drop k) s

/-- Writes bytes to pages that allow writes. -/
def vwrite (p die fuel va : Nat) (bs : List Byte) (s : State) : Bool × State := vwriteAs p die .write fuel va bs s

/-- Every page of a range translates with the permission asked. -/
def vcheck (p die : Nat) (need : Need) : Nat → Nat → Nat → State → Bool × State
  | 0, _, _, s => (true, s)
  | fuel + 1, va, n, s =>
    if n = 0 then (true, s)
    else
      let k := min n (pageLeft va)
      match translate p die va need s with
      | (.error _, s) => (false, s)
      | (.ok _, s) => vcheck p die need fuel (va + k) (n - k) s

/-- Reads a range of up to 4 MiB (64 pages) through the partition's translation from its first die. -/
def unitRead (p va n : Nat) (s : State) : Option (List Byte) × State :=
  vread p ((partDies s.dev p).headD 0) .read 66 va n s

/-- Writes a range through the partition's translation from its first die. -/
def unitWrite (p va : Nat) (bs : List Byte) (s : State) : Bool × State :=
  vwrite p ((partDies s.dev p).headD 0) 66 va bs s

end Sys2Proof.Machine
end

