-- ==== Sys2Proof/Machine/Ops.lean ====
section
/-! DEFINITION. The named operations every meaning uses: the selector (R45 to R47), traps and events and
the return from them (R249 to R257), the ends of tasks (R32, R79, R255), results in flight (R74), and
releases (R205). -/

namespace Sys2Proof.Machine

/-! ## Waits and the selector -/

/-- A context's membership of a phaser as the sync engine holds it (R217). -/
def memberOf (s : State) (id ph : Nat) : Option (BitVec 2 × BitVec 32 × BitVec 32) :=
  ((phaserOf s ph).members.find? fun m => m.1 == id).map (·.2)

/-- The operations of a context on a phaser that have still to reach the sync engine, in order (R218). -/
def pendingOps (s : State) (id ph : Nat) : List PhKind :=
  ((coreOf s (id / 5)).phq.filter fun q => q.id == id && q.ph == ph).map (·.op)

/-- SPH after an operation, none without membership (R219). -/
def sphAfter (cnt : BitVec 32) (m : Option (BitVec 32)) : PhKind → Option (BitVec 32)
  | .reg _ => some cnt
  | .arrive => m.map (· + 1)
  | .drop => none

/-- A member's arrival can proceed: it has not arrived for the open phase, its earlier operations counted (R219). -/
def arriveOk (s : State) (id ph : Nat) : Bool :=
  let cnt := (phaserOf s ph).cnt
  ((pendingOps s id ph).foldl (sphAfter cnt) ((memberOf s id ph).map (·.2.1))).all (· == cnt)

/-- A member's wait is satisfied in its core's view (R219): not before its registration, which sets WPH. -/
def phaseOk (s : State) (id ph : Nat) : Bool :=
  ((pendingOps s id ph).all (· == .arrive)) &&
    (memberOf s id ph).any fun m =>
      let d := (tget 0 ph (coreOf s (id / 5)).phView - m.2.2).toNat
      1 ≤ d && d < 2 ^ 31

/-- The CP queue entries a slot holds; a drain in its hand-off buffer takes none (R167, R169). -/
def queueLen (k : Core) (sl : Nat) : Nat := (k.cq.filter fun c => c.slot == sl && c.kind != .mdrc).length
/-- The CP queue entries a slot has (R169). -/
def queueCap (sl : Nat) : Nat := if sl = 4 then 16 else 12

/-- A wait at a sill point is satisfied, or has a deferred copy fault to raise (R210, R214, R170, R331). -/
def waitOk (s : State) (id : Nat) : Wait → Bool
  | .sem i t => semOk (coreOf s (id / 5)) i t || tget 0 i (ctxOf s id).reasons != 0
  | .arrive ph => arriveOk s id ph
  | .phase ph _ _ _ => phaseOk s id ph
  | .sill => true
  | .queue => queueLen (coreOf s (id / 5)) (id % 5) < queueCap (id % 5)

/-- A context is ready: its wait is satisfied, or its transom has ended (R46). -/
def isReady (s : State) (id : Nat) : Bool :=
  match (ctxOf s id).status with
  | .ready => true
  | .waiting w _ => waitOk s id w
  | _ => false

/-- The supervisor of a core has an event to handle or is handling one (R46, R254); a fenced core and a
device without verified firmware run none (R257, R272). -/
def superReady (s : State) (core : Nat) : Bool :=
  let k := coreOf s core
  s.dev.fwUp && !k.sup.fenced &&
    ((bits k.sup.trapc 7 0 == 0 && !k.sup.events.isEmpty) || isReady s (ctxId core 4))

/-- A supervisor event, not a trap, is pending for the core (R45, R249). -/
def eventPending (s : State) (core : Nat) : Bool :=
  s.dev.fwUp && !(coreOf s core).sup.fenced && (coreOf s core).sup.events.any fun e => decide (0x20 ≤ e.cause)

/-- The effective priority of a ready context (R46). -/
def effPrio (s : State) (core sl : Nat) : Nat :=
  min ((ctxOf s (ctxId core sl)).ctl.prio.toNat + tget 0 sl (coreOf s core).sel.aged / 2 ^ 20) 7

/-- The ready slot of highest effective priority, the first in the given order among equals (R46). -/
def bestSlot (s : State) (core : Nat) : List Nat → Nat
  | [] => 7
  | sl :: rest =>
    let b := bestSlot s core rest
    if isReady s (ctxId core sl) &&
        (b == 7 || effPrio s core b ≤ effPrio s core sl) then sl else b

/-- The selector's choice (R46, R374): the supervisor, else the best ready task context other than
`excl`, else `excl` itself if ready; 7 for none. -/
def selectSlot (s : State) (core excl : Nat) : Nat :=
  let l := (coreOf s core).sel.last
  let order := [(l + 1) % 4, (l + 2) % 4, (l + 3) % 4, l % 4]
  if superReady s core then 4
  else
    let b := bestSlot s core (order.filter (· != excl))
    if b != 7 then b else bestSlot s core (order.filter (· == excl))

/-- A task slot is selected (R46): it counts as the most recent, and its aging count restarts from `w`. -/
def Selector.chosen (sl w : Nat) (k : Selector) : Selector :=
  if sl < 4 then { k with last := sl, aged := tset 0 sl w k.aged } else k

/-- The selector is invoked (R45): no context holds the issue slot; the choice is made now, and the
first bundle issues 8 cycles later (R46); `keep` keeps the issue slot if ready in the next cycle, and the choice
counts only if it is not (R47). -/
def invoke (core keep excl : Nat) (s : State) : State :=
  let choice := selectSlot s core excl
  updCore core (fun k =>
    let sel := { k.sel with cur := 7, sel := choice, from_ := now s + 8, invAt := now s, keep := keep }
    { k with sel := if keep = 7 then sel.chosen choice 0 else sel }) s

/-- A context gives up the issue slot if it holds it or was chosen for it; another that may keep it still may (R47). -/
def dropSlot (id : Nat) (s : State) : State :=
  let k := (coreOf s (id / 5)).sel
  if k.cur = 7 ∧ k.sel = id % 5 ∧ k.keep < 5 ∧ k.keep ≠ id % 5 ∧ now s ≤ k.invAt + 1 then
    let choice := selectSlot s (id / 5) 7
    updCore (id / 5) (fun k => { k with sel := { k.sel with sel := choice, from_ := now s + 8 } }) s
  else if k.cur = id % 5 ∨ (k.cur = 7 ∧ k.sel = id % 5) then invoke (id / 5) 7 7 s
  else s

/-! ## Traps, events and the ends of tasks -/

/-- TRAPC of an event (R254). -/
def trapcWord (e : Event) : W64 :=
  BitVec.ofNat 64 (e.slot % 8 * 2 ^ 58 + (if e.async then 2 ^ 57 else 0) + (if e.fetch then 2 ^ 56 else 0) +
    e.detail % 256 * 2 ^ 48 + e.cause % 256)
/-- TRAPA of an event (R254). -/
def trapaWord (e : Event) : W64 := BitVec.ofNat 64 (e.va % 2 ^ 57)
/-- TRAPV of an event (R254). -/
def trapvWord (e : Event) : W64 := BitVec.ofNat 64 (e.syl % 16 * 2 ^ 60 + e.val % 2 ^ 57)

/-- The fields TRAPC keeps of a word (R254). -/
def trapcKept (v : W64) : W64 := v &&& 0x1FFF0000000000FF#64
/-- The fields TRAPA keeps of a word (R254). -/
def trapaKept (v : W64) : W64 := v &&& 0x01FFFFFFFFFFFFFF#64
/-- The fields TRAPV keeps of a word (R254). -/
def trapvKept (v : W64) : W64 := v &&& 0xF1FFFFFFFFFFFFFF#64

/-- A format register holds its fields alone: bits 12:0 read 0 (R87). -/
def fmKept (r : BitVec 32) : BitVec 32 := r &&& 0xFFFFE000#32

/-- RMODE.DEF: 6 and 7 store 0 (R96). -/
def rmodeKept (m : BitVec 3) : BitVec 3 := if 6 ≤ m.toNat then 0 else m

/-- TRAPC.SLOT (R254), 4 at most: a core has five contexts. -/
def eventSlot (w : W64) : Nat := min (bits w 60 58) 4

/-- The address of the bundle a context would issue next (R120, R254). -/
def bundleVa (c : Ctx) : Nat := (c.pos.codeBase + 64 * c.pos.pc) % 2 ^ 57

/-- A copy command stopped at a fault is abandoned (R193, R265). -/
def abandon (c : Cmd) : Cmd :=
  match c.stage with
  | .faulted _ => { c with stage := .abandoned, reason := if c.reason = 0 then 1 else c.reason }
  | _ => c

/-- A member's part in its task ends (R32, R255): queued commands are discarded without signals, one stopped at a
fault is abandoned, begun ones go on, and the slot gives up the issue slot. -/
def endMember (id : Nat) (s : State) : State :=
  let s := updCtx id (fun c =>
    { c with status := .ended, boundary := [], pos := { c.pos with endSent := true } }) s
  let s := updCore (id / 5) (fun k => { k with
    mq := k.mq.filter fun m => m.slot != id % 5
    cq := (k.cq.filter fun m => m.slot != id % 5 || m.stage != .queued).map fun m =>
      if m.slot = id % 5 then abandon m else m }) s
  dropSlot id s

/-- A task ends with a status (R79, R255, R257, R258): every member ends; the first status stands. -/
def endTask (p t status : Nat) (s : State) : State :=
  match taskOf s p t with
  | none => s
  | some x =>
    if x.stage = .bound || x.stage = .preempting then
      let s := setTask p t (some { x with stage := .ending, status := status }) s
      x.members.foldl (fun s m => endMember (ctxId m.1 m.2) s) s
    else s

/-- The task of a context ends with a status. -/
def endTaskOf (id status : Nat) (s : State) : State :=
  match (ctxOf s id).task with
  | some t => endTask (partOfCore s.dev (id / 5)) t status s
  | none => s

/-- A trap of a slot ends its task with STATUS 1 (R79, R255): a record of KIND 5 names the slot, the trap's address and
its cause (R257, R266). -/
def killByTrap (id va cause : Nat) (s : State) : State :=
  let p := partOfCore s.dev (id / 5)
  let live := ((ctxOf s id).task.bind (taskOf s p)).any fun x => x.stage == .bound || x.stage == .preempting
  endTaskOf id 1 (if live then logErr p 5 (id % 5) (logCore s.dev (id / 5)) 0 va cause s else s)

/-- A fault of the supervisor's own bundles or functions fences the core (R257). -/
def fenceCore (core : Nat) (s : State) : State :=
  let p := partOfCore s.dev core
  let s := updCore core (fun k => { k with sup := { k.sup with fenced := true } }) s
  let s := updCtx (ctxId core 4) (fun c => { c with status := .unbound }) s
  let s := [0, 1, 2, 3].foldl (fun s sl => endTaskOf (ctxId core sl) 1 s) s
  let s := logErr p 6 4 (logCore s.dev core) 0 0 0 s
  invoke core 7 7 s

/-- Posts a supervisor event to a core, behind those pending (R254). -/
def postEvent (core : Nat) (e : Event) (s : State) : State :=
  updCore core (fun k => { k with sup := { k.sup with events := k.sup.events ++ [e] } }) s

/-- TAKING A TRAP (R251, R253, R254): the phase clock stops, so everything scheduled on it is captured as
it stands; the event waits for the supervisor, and the selector is invoked. Raising a deferred copy fault
clears its reason (R214). A trap of the supervisor itself fences the core (R257). -/
def takeTrap (id : Nat) (e : Event) (s : State) : State :=
  if id % 5 = 4 then fenceCore (id / 5) s
  else
    let tr := match (ctxOf s id).status with
      | .transom sent => some sent
      | _ => none
    let hold := match (ctxOf s id).status with
      | .waiting .sill true => none
      | .waiting w true => some w
      | _ => none
    let s := updCtx id (fun c => match c.status with
      | .ended => { c with boundary := [] }
      | _ => { c with status := .trapped tr hold, event := some e, boundary := [] }) s
    let s := if (e.cause = 0x10 ∨ e.cause = 0x0A) ∧ !e.fetch then
      updCtx id (fun c => { c with reasons := tset 0 e.val 0 c.reasons }) s else s
    dropSlot id (postEvent (id / 5) e s)

/-- A boundary cause is noted, to be taken before the context's next bundle issues (R250, R253). -/
def noteBoundary (id : Nat) (e : Event) (s : State) : State :=
  updCtx id (fun c => { c with boundary := c.boundary ++ [e] }) s

/-- The rank of a cause at issue among those of one bundle (R250). -/
def issueRank (cause : Nat) : Nat :=
  match cause with
  | 0x01 => 2 | 0x02 => 3 | 0x03 => 4 | 0x06 => 5 | 0x08 => 6 | 0x10 => 7 | 0x0A => 7 | 0x05 => 8
  | 0x0E => 9 | 0x04 => 10 | 0x0C => 11 | 0x0D => 11 | _ => 1

/-- The rank of a boundary cause among those of one cycle (R250). -/
def boundaryRank (cause : Nat) : Nat :=
  match cause with
  | 0x09 => 0 | 0x04 => 1 | 0x05 => 2 | 0x0B => 3 | 0x0F => 5 | _ => 4

/-- A cause a syllable raises at issue, with TRAPC.DETAIL and TRAPV.VAL (R249, R254). -/
structure Raise where
  cause : Nat
  detail : Nat
  val : Nat
  deriving DecidableEq, Repr

/-- A raise when a condition holds. -/
def chk (b : Bool) (cause : Nat) : List Raise := if b then [⟨cause, 0, 0⟩] else []

/-- The first raise in the order of R250. -/
def firstRaise : List Raise → Option Raise
  | [] => none
  | r :: rs =>
    match firstRaise rs with
    | none => some r
    | some q => if issueRank r.cause ≤ issueRank q.cause then some r else some q

/-- The event of a cause at issue raised by the syllable of slot `syl` (R254). -/
def issueEvent (s : State) (syl : Nat) (r : Raise) : Event :=
  { cause := r.cause, slot := s.slot, async := false, fetch := false, detail := r.detail
    va := bundleVa (cur s), syl := syl, val := r.val }

/-- What a syllable does (R122, R250): take the first cause it raises, or its effect. -/
def syllableStep (sl : Slot) (raises : List Raise) (eff : State → State) (s : State) :
    Host.Outcome State Fault Refusal :=
  match firstRaise raises with
  | some r => .next (takeTrap (curId s) (issueEvent s sl.num r) s)
  | none => .next (eff s)

/-- The raises of an encoding (R122). -/
def encRaises (e : Enc) : List Raise := chk e.illegal 0x01 ++ chk e.reserved 0x02

/-- The bundle is a delay or entry bundle (R142, R315). -/
def inDelay (c : Ctx) : Bool :=
  c.pos.left == 1 || c.pos.left == 2 || c.pos.more.any fun x => x.1 == 1 || x.1 == 2

/-- The context whose bundle issues is the supervisor (R22). -/
def isSuper (s : State) : Bool := s.slot == 4

/-- The guard lets an S syllable execute (R123). -/
def guardOn (f : SSyl) (c : Ctx) : Bool := gget c f.g.toNat != (f.gn == 1)

/-- What an S syllable raises (R123): checks made whatever the guard, an unresolved guard, and, when the syllable
executes, the checks of executing. -/
def scalarRaises (e : Enc) (f : SSyl) (always checks : State → List Raise) (s : State) : List Raise :=
  let c := cur s
  let unres := !gresolved c f.g.toNat
  encRaises e ++ always s ++ chk unres 0x04 ++ (if guardOn f c && !unres then checks s else [])

/-- An S syllable (R123): what it raises, and the effect of executing. -/
def scalarStep (e : Enc) (f : SSyl) (always checks : State → List Raise) (eff : State → State)
    (s : State) : Host.Outcome State Fault Refusal :=
  syllableStep .s (scalarRaises e f always checks s) (if guardOn f (cur s) then eff else id) s

/-! ## Results in flight -/

/-- A result goes in flight: it lands in the cycle before it becomes visible, `lat` cycles after the
issue of its bundle (R74, R141). -/
def launch (file : RegFile) (reg : Nat) (val : Row) (pois : Bool) (flags : BitVec 6)
    (subst : BitVec 16) (byp : Option Nat) (lat : Nat) (c : Ctx) : Ctx :=
  let f : Flight :=
    { file := file, reg := reg, val := val, pois := pois, flags := if pois then 0 else flags
      subst := if pois then 0 else subst, byp := byp, land := c.pos.clk + lat - 1, slow := false, seq := c.fly.seq }
  { c with fly := { c.fly with flights := c.fly.flights ++ [f], seq := c.fly.seq + 1 } }

/-- A scalar result with no flag. -/
def launchS (reg : Nat) (val : W64) (pois : Bool) (lat : Nat) (s : State) : State :=
  updCur (launch .scalar reg (val.setWidth 4096) pois 0 0 none lat) s

/-- A scalar result with flags (R107). -/
def launchSF (reg : Nat) (val : W64) (pois : Bool) (flags : BitVec 6) (lat : Nat) (s : State) : State :=
  updCur (launch .scalar reg (val.setWidth 4096) pois flags 0 none lat) s

/-- The exposed results of a context in flight (R43, R141, R252): results, loads, stores, tile requests,
and semaphore results to come. DEDUCED, log 11: a husk made at a sill point holds none of them (R260). -/
def exposed (s : State) (id : Nat) : Bool :=
  let c := ctxOf s id
  !c.fly.flights.isEmpty || !c.fly.loads.isEmpty || !c.fly.stores.isEmpty || !c.fly.tiles.isEmpty ||
    ((coreOf s (id / 5)).semq.any fun u => u.slot == id % 5 &&
      (match u.op with | .fetchAdd _ _ => true | .cas _ _ _ => true | _ => false))

/-- A command is timed (R53). -/
def timed (h : EHdr) : Bool := h.start != 0x3FFF

/-- A timed command of a slot is queued or running (R40, R43): matrix commands queued or not complete,
and timed copy commands; not an MDRC that has been handed off to the CP queue, where it is untimed (R167; DEDUCED,
log 80). -/
def timedBusy (s : State) (core sl : Nat) : Bool :=
  let k := coreOf s core
  (k.mq.any fun m => m.slot == sl) || (k.mrun.any fun m => m.cmd.slot == sl) ||
    (k.cq.any fun q => q.slot == sl && timed q.h && q.kind != .mdrc)

/-- An untimed command of a slot is outstanding (R32, R255). -/
def untimedBusy (s : State) (core sl : Nat) : Bool :=
  (coreOf s core).cq.any fun q => q.slot == sl && (!timed q.h || q.kind == .mdrc)

/-! ## Releases -/

/-- The release of a scope taken now by a context (R205): everything it has issued before. A command of
the same bundle counts as issued after it (R303; DEDUCED for the other releases, log 12). -/
def releaseNow (s : State) (id agent : Nat) (store : BitVec 3) : Release :=
  let c := ctxOf s id
  let k := coreOf s (id / 5)
  let sl := id % 5
  { agent := agent, store := store
    cmds := ((k.mq.filter fun m => m.slot == sl && m.issued != now s).map (·.id)) ++
      ((k.mrun.filter (·.cmd.slot == sl)).map (·.cmd.id)) ++
      ((k.cq.filter fun q => q.slot == sl && !(q.stage == .queued && q.wake == now s)).map (·.id))
    stores := c.fly.stores.map (·.seq) ++ (c.fly.loads.filter (·.data.isNone)).map (·.seq) }

/-- A semaphore update by an SY syllable goes on its way (R212): applied from the next cycle, after the
timed stores issued so far, and after its release and the fences in force. -/
def sendUpdate (idx : Nat) (op : SemOp) (agent : Nat) (store : BitVec 3) (s : State) : State :=
  let c := cur s
  let (n, s) := fresh s
  let rel := if store = 0 then [] else [releaseNow s (curId s) agent store]
  let s := updCur (fun c => { c with fly := { c.fly with seq := c.fly.seq + 1 } }) s
  updCurCore (fun k => { k with semq := k.semq ++
    [{ id := n, idx := idx, op := op, src := .sy, slot := s.slot, due := now s + 1
       rel := rel ++ c.fences, stores := c.fly.stores.map (·.seq)
       sched := c.fly.stores.foldl (fun m w => max m (w.write + 1)) (c.pos.clk + 1)
       seq := c.fly.seq }] }) s

/-- An engine's or the gateway's update goes on its way (R56, R212): none for an increment of 0. -/
def sendSignal (core sl idx inc due : Nat) (src : SemSrc) (s : State) : State :=
  if inc = 0 then s
  else
    let (n, s) := fresh s
    updCore core (fun k => { k with semq := k.semq ++
      [{ id := n, idx := idx, op := .add inc, src := src, slot := sl, due := due, rel := []
         stores := [], sched := 0, seq := 0 }] }) s

/-- A withheld signal records its reason for the signal semaphore unless one stands there (R265); sm0
keeps none (R211). -/
def recordReason (core sl sem reason : Nat) (s : State) : State :=
  updCtx (ctxId core sl) (fun c =>
    if sem = 0 ∨ tget 0 sem c.reasons ≠ 0 then c
    else { c with reasons := tset 0 sem reason c.reasons }) s

/-- The cause of a recorded reason (R249, R265): a fabric error, or a deferred copy fault. -/
def reasonCause (reason : Nat) : Nat := if reason = 3 then 0x0A else 0x10

/-- A kind of command writes the scratchpad of its own or another core. -/
def writesScratch : CKind → Bool
  | .cpy | .cpg | .cpld | .amo | .vamo | .cpx | .cpmc => true
  | _ => false

/-- A kind of command accesses memory in packets. -/
def usesMemory : CKind → Bool
  | .cpx | .cpmc | .shpl | .invp => false
  | _ => true

/-- Every packet of a command has been issued. -/
def allIssued (c : Cmd) : Bool :=
  match c.total with
  | some n => decide (n ≤ c.next) || c.stage == .abandoned
  | none => c.stage == .abandoned

/-- The owner of memory that is not the agent's own partition's lies within an agent scope (R203, R204): another
partition's alias as its memory. -/
def withinScope (d : Dev) (agent : Nat) : Dest → Bool
  | .local _ => decide (5 ≤ agent)
  | .peer fa _ => if fa / 32 = d.group then decide (5 ≤ agent) else decide (6 ≤ agent)
  | .host => agent == 7
  | .window _ => decide (5 ≤ agent)

/-- Drops the peer-copy granules whose owner lies within an agent scope (R203, R206): the own group's
from GROUP up, every device's from FABRIC up. -/
def dropPeer (p agent : Nat) (s : State) : State :=
  updMem p (fun m => { m with peer := m.peer.filter fun l =>
    !(if l.fa / 32 = s.dev.group then agent ≥ 5 else agent ≥ 6) }) s

/-- An acquire takes effect (R206). -/
def acquire (p agent : Nat) (store : BitVec 3) (s : State) : State :=
  if store.getLsbD 2 then dropPeer p agent s else s

end Sys2Proof.Machine
end

