-- ==== Sys2Proof/Machine/Control.lean ====
section
/-! DEFINITION. Control flow of the S slot (R142, R283 to R285, R314 to R316, R333, R344), the tile
requests (R51, R52, R323), TRAP and RFT (R254, R256, R334, R345). -/

namespace Sys2Proof.Machine

/-- A bundle is a sill point: it carries SILL (R132), or a PEND (R40). -/
def sillBundle (b : BitVec 512) : Bool := b.getLsbD 505 || opField .sy (syllable b .sy) == 0x10

/-- The bundles after this one, and this one, hold the end bundle of the innermost loop (R316). -/
def nearEnd (c : Ctx) (n : Nat) : Bool :=
  match c.pos.loops with
  | e :: _ => c.pos.pc ≤ e.stop && e.stop < c.pos.pc + n
  | [] => false

/-- The target of BR and CALL: base + sext(IMM), a bundle number (R283). -/
def branchTarget (f : SSyl) (c : Ctx) : Nat :=
  ((if f.b = 0 then BitVec.ofNat 64 c.pos.pc else sget c f.b.toNat) + f.imm.signExtend 64).toNat

/-- The rule of delay bundles for a transfer, and of R316 for the innermost loop's end. -/
def transferRule (s : State) : List Raise := chk (inDelay (cur s) || nearEnd (cur s) 3) 0x01

/-- The delay or entry bundles of this one begin, with what follows them (R142, R315); those of a LOOP that stands in a
delay or entry bundle itself run beside the ones under way (log 9). -/
def startTransfer (t : Option Transfer) (c : Ctx) : Ctx :=
  if inDelay c then { c with pos := { c.pos with more := c.pos.more ++ [(3, t)] } }
  else { c with pos := { c.pos with xfer := t, left := 3 } }

/-- A transfer that is not taken is still followed by its delay bundles (R142). -/
def transferStep (e : Enc) (f : SSyl) (always checks : State → List Raise) (eff : Ctx → Ctx)
    (s : State) : Host.Outcome State Fault Refusal :=
  syllableStep .s (scalarRaises e f always checks s)
    (updCur (if guardOn f (cur s) then eff else startTransfer none)) s

/-- BR (R283). -/
def execBr (f : SSyl) (s : State) :=
  transferStep (enc (.br f)) f transferRule (fun s => chk (spois (cur s) f.b.toNat) 0x06)
    (fun c => startTransfer (some (.target (branchTarget f c))) c) s

/-- CALL (R284): pushes pc + 3. -/
def execCall (f : SSyl) (s : State) :=
  transferStep (enc (.call f)) f transferRule
    (fun s => chk (spois (cur s) f.b.toNat) 0x06 ++ chk (decide ((cur s).pos.calls.length ≥ 8)) 0x0D)
    (fun c =>
      let c' := startTransfer (some (.target (branchTarget f c))) c
      { c' with pos := { c'.pos with calls := (c.pos.pc + 3) :: c.pos.calls } }) s

/-- RET (R333). -/
def execRet (f : SSyl) (s : State) :=
  transferStep (enc (.ret f)) f transferRule
    (fun s => if (cur s).pos.calls.isEmpty then [⟨0x0D, 1, 0⟩] else [])
    (fun c =>
      let c' := startTransfer (some (.target (c.pos.calls.headD 0))) c
      { c' with pos := { c'.pos with calls := c.pos.calls.tail } }) s

/-- Enclosing entries end at the same bundle: each is counted down in turn, one that reaches 0 is popped
(R316); the start of the one that continues, if any. -/
def endSteps (stop : Nat) : List LoopEnt → List LoopEnt × Option Nat
  | [] => ([], none)
  | e :: es =>
    if e.stop = stop then
      if e.count > 1 then ({ e with count := e.count - 1 } :: es, some e.start) else endSteps stop es
    else (e :: es, none)

/-- The position after a bundle that no transfer follows: the loop-end step of the innermost entry at its end
bundle, else the next bundle (R316). -/
def afterBundle (p : Pos) : Pos :=
  if p.loops.head?.any (·.stop == p.pc) then
    let r := endSteps p.pc p.loops
    { p with loops := r.1, pc := r.2.getD (p.pc + 1) }
  else { p with pc := p.pc + 1 }

/-- The transfer that acts behind this bundle: that of the bundle two before it, if it had one (R142, R315). -/
def acting (p : Pos) : Option Transfer :=
  if p.left = 1 then p.xfer else ((p.more.find? (·.1 == 1)).map (·.2)).join

/-- THE POSITION AFTER A BUNDLE HAS ISSUED (R142, R285, R315, R316): behind the second delay bundle the transfer
acts, and after a BRK it decides the loop-end steps alone. -/
def nextPos (p : Pos) : Pos :=
  let q := { p with
    xfer := if p.left = 1 then none else p.xfer, left := p.left - 1
    more := (p.more.filter (·.1 != 1)).map fun x => (x.1 - 1, x.2) }
  match acting p with
  | some (.target t) => { q with pc := t }
  | some (.afterLoop stop) =>
    let r := endSteps stop q.loops
    { q with loops := r.1, pc := r.2.getD (stop + 1) }
  | none => afterBundle q

/-- BRK (R285): pops the innermost entry; after the delay bundles, issue goes on as after the loop's
final iteration. -/
def execBrk (f : SSyl) (s : State) :=
  transferStep (enc (.brk f)) f (fun s => chk (inDelay (cur s) || nearEnd (cur s) 2) 0x01)
    (fun s => if (cur s).pos.loops.isEmpty then [⟨0x0C, 1, 0⟩] else [])
    (fun c =>
      let stop := (c.pos.loops.head?.map (·.stop)).getD 0
      let c' := startTransfer (some (.afterLoop stop)) c
      { c' with pos := { c'.pos with loops := c.pos.loops.tail } }) s

/-- Opening a loop (R314, R315): `count` trips, END bundles on. The body's first bundle issues three bundles on, in a delay
or entry bundle too, whatever the transfer under way makes issue before it (log 9). -/
def openLoop (f : SSyl) (count : Nat) (c : Ctx) : Ctx :=
  let stop := c.pos.pc + bits f.imm 19 0
  if count = 0 then startTransfer (some (.target (stop + 1))) c
  else
    let c' := startTransfer (if inDelay c then some (.target (c.pos.pc + 3)) else none) c
    { c' with pos := { c'.pos with loops := ⟨c.pos.pc + 3, stop, count⟩ :: c.pos.loops } }

/-- The checks of an executing LOOP or LOOPI on the stack (R314, R315). -/
def loopChecks (f : SSyl) (s : State) : List Raise :=
  let c := cur s
  chk (c.pos.loops.any fun e => c.pos.pc + bits f.imm 19 0 > e.stop) 0x01 ++
    chk (decide (c.pos.loops.length ≥ 6)) 0x0C

/-- LOOP (R314). -/
def execLoop (f : SSyl) (s : State) :=
  scalarStep (enc (.loop f)) f (fun s => chk (nearEnd (cur s) 3) 0x01)
    (fun s =>
      let n := (sget (cur s) f.a.toNat).toNat
      let maxc := bits f.imm 31 20
      loopChecks f s ++ chk (decide (n ≥ 2 ^ 32)) 0x01 ++ chk (spois (cur s) f.a.toNat) 0x06 ++
        chk (maxc != 0 && decide (n > maxc)) 0x05)
    (fun s => updCur (openLoop f (sget (cur s) f.a.toNat).toNat) s) s

/-- LOOPI (R314). -/
def execLoopi (f : SSyl) (s : State) :=
  scalarStep (enc (.loopi f)) f (fun s => chk (nearEnd (cur s) 3) 0x01) (loopChecks f)
    (updCur (openLoop f (bits f.imm 31 20))) s

/-! ## Tile requests and the end of a task -/

/-- The value of sheaf index `n` of a task (R51, R52); NULL once the space is exhausted. -/
def tileValue (x : Task) (n : Nat) : W64 × Bool :=
  let tx := bits x.record 319 304
  let ty := bits x.record 303 288
  let tz := bits x.record 287 272
  if n < tx * ty * tz then
    (BitVec.ofNat 64 (n % tx + n / tx % ty * 2 ^ 16 + n / (tx * ty) * 2 ^ 32), true)
  else (BitVec.ofNat 64 (2 ^ 63), false)

/-- The sheaf answers one request (R51): a returned tile first (R40), else the next index. -/
def sheafDispense (id : Nat) (s : State) : (W64 × Option Nat) × State :=
  let p := partOfCore s.dev (id / 5)
  match (ctxOf s id).task with
  | none => ((BitVec.ofNat 64 (2 ^ 63), none), s)
  | some t =>
    match taskOf s p t with
    | none => ((BitVec.ofNat 64 (2 ^ 63), none), s)
    | some x =>
      match x.returned with
      | n :: rest => (((tileValue x n).1, some n), setTask p t (some { x with returned := rest }) s)
      | [] =>
        let (v, ok) := tileValue x x.sheaf
        if ok then ((v, some x.sheaf), setTask p t (some { x with sheaf := x.sheaf + 1 }) s)
        else ((v, none), s)

/-- Undelivered tiles return to their sheaf (R40, R323). -/
def returnTiles (id : Nat) (s : State) : State :=
  let p := partOfCore s.dev (id / 5)
  let back := (ctxOf s id).fly.tiles.filterMap (·.index)
  let s := match (ctxOf s id).task with
    | some t => updTask p t (fun x => { x with returned := x.returned ++ back }) s
    | none => s
  updCtx id (fun c => { c with fly := { c.fly with tiles := [] } }) s

/-- NTREQ (R323, R52): the answer lands 40 bundles on, in tl(k mod 4). -/
def execNtreq (f : SSyl) (s : State) :=
  scalarStep (enc (.ntreq f)) f (fun s => chk (isSuper s) 0x01)
    (fun s => chk (decide ((cur s).fly.tiles.length ≥ 16)) 0x04)
    (fun s =>
      let ((v, n), s) := sheafDispense (curId s) s
      updCur (fun c =>
        let r : TileReq :=
          { val := v, reg := c.ctl.tlNext.toNat, land := c.pos.clk + 39, index := n }
        { c with
          fly := { c.fly with tiles := c.fly.tiles ++ [r] }
          ctl := { c.ctl with tlNext := c.ctl.tlNext + 1 } }) s) s

/-- The schedule conditions of PEND and TEND: no timed command, no exposed result, no NTREQ (R40). -/
def endConditions (s : State) : Bool :=
  timedBusy s s.core s.slot || exposed s (curId s) || !(cur s).fly.tiles.isEmpty

/-- The other slots of the bundle hold a NOP or a hint (R327, R344). -/
def aloneIn (s : State) (sl : Slot) : Bool := s.bnd.busy &&& ~~~(BitVec.ofNat 8 (2 ^ sl.num)) == 0

/-- A PEND or TEND (R40, R323): with the schedule fault its undelivered tiles return. -/
def endingStep (sl : Slot) (raises : List Raise) (eff : State → State) (s : State) :
    Host.Outcome State Fault Refusal :=
  syllableStep sl raises eff
    (if (firstRaise raises).any (·.cause == 0x05) then returnTiles (curId s) s else s)

/-- TEND (R344): the member's part ends; its sign-off carries "end" once its stores have performed. -/
def execTend (f : SSyl) (s : State) : Host.Outcome State Fault Refusal :=
  endingStep .s
    (scalarRaises (enc (.tend f)) f
      (fun s => chk (isSuper s || inDelay (cur s) || !aloneIn s .s) 0x01)
      (fun s => chk (anyPoison (cur s)) 0x06 ++ chk (endConditions s) 0x05) s)
    (fun s =>
      if guardOn f (cur s) then
        invoke s.core 7 7 (updCur (fun c =>
          { c with
            status := .ended
            pos := { c.pos with loops := [], calls := [], inph := false, endSent := false } }) s)
      else s) s

/-- TRAP with IMM[31] clear (R345): its bundle takes full effect, and the trap follows at the boundary;
a function that does not exist is illegal (R255), and the supervisor's own TRAP fences its core (R257). -/
def execTrap (f : SSyl) (s : State) :=
  let fn := f.imm.getLsbD 31
  scalarStep (enc (.trap f)) f
    (fun s => chk (!fn && inDelay (cur s)) 0x01 ++ chk (fn && !isSuper s) 0x03) (fun _ => [])
    (fun s =>
      if isSuper s then fenceCore s.core s
      else noteBoundary (curId s)
        { cause := 0x0F, slot := s.slot, async := true, fetch := false, detail := 0, va := 0
          syl := 15, val := bits f.imm 30 0 } s) s

/-! ## Return from an event -/

/-- The resumed bundle number of an address (R254). -/
def resumePc (c : Ctx) (va : Nat) : Nat := (va + 2 ^ 57 - c.pos.codeBase % 2 ^ 57) % 2 ^ 57 / 64

/-- Where a frozen context was: in a transom, or held by a wait. -/
def frozenAt : Status → Option (Option Bool × Option Wait)
  | .trapped t w => some (t, w)
  | .husked t w => some (t, w)
  | _ => none

/-- A position moved to the bundle at an address, unless it stands there. -/
def movedTo (va : Nat) (c : Ctx) : Pos :=
  if va = bundleVa c then c.pos else { c.pos with pc := resumePc c va, xfer := none, left := 0, more := [] }

/-- A frozen context returns (R254, R256, R398): to its transom or the phase begun since, or to the bundle at TRAPA,
behind the wait that held it if there was one; a context that has ended stays ended. -/
def resumed (va : Nat) (c : Ctx) : Ctx :=
  match frozenAt c.status with
  | some (some sent, _) => { c with status := if c.pos.fresh then .ready else .transom sent, event := none }
  | some (none, hold) =>
    { c with status := hold.elim .ready fun w => .waiting w true, event := none, pos := movedTo va c }
  | none => { c with event := none }

/-- A context returns to the position at an address. -/
def resumeCtx (id va : Nat) (s : State) : State := updCtx id (resumed va) s

/-- A context has been husked for a pre-emption. -/
def isHusked (c : Ctx) : Bool :=
  match c.status with
  | .husked _ _ => true
  | _ => false

/-- The gang of a context is on its way out (R49). -/
def onWayOut (s : State) (id : Nat) : Bool :=
  ((ctxOf s id).task.bind (taskOf s (partOfCore s.dev (id / 5)))).any fun x => x.stage == .preempting

/-- The return from a context's own trap or from a request to husk it (R256): one husked for a pre-emption under way
stays for the unit (R49), one whose pre-emption has been abandoned goes on where it stood (R259). -/
def returnCtx (cause id va : Nat) (s : State) : State :=
  if isHusked (ctxOf s id) then
    if onWayOut s id then s else resumeCtx id (if cause = 0x21 then bundleVa (ctxOf s id) else va) s
  else if cause < 0x20 then resumeCtx id va s
  else s

/-- THE RETURN FROM AN EVENT (R256): the context of a trap, or the one hload restored, becomes ready; any
other event only frees the supervisor. The selector is invoked (R45). -/
def returnFromEvent (core : Nat) (s : State) : State :=
  let k := coreOf s core
  let cause := bits k.sup.trapc 7 0
  let id := ctxId core (eventSlot k.sup.trapc)
  let va := k.sup.trapa.toNat % 2 ^ 57
  if cause = 0 then s
  else
    let s :=
      if k.sup.fromHload then resumeCtx id va s else returnCtx cause id va s
    let s := updCore core (fun k =>
      { k with sup := { k.sup with trapc := 0, trapa := 0, trapv := Super.reset.trapv, fromHload := false } }) s
    let s := updCtx (ctxId core 4) (fun c => { c with status := .unbound }) s
    invoke core 7 7 s

/-- The supervisor has a result or timed transfer in flight, for which RFT waits (R256). -/
def rftBusy (s : State) : Bool := exposed s (curId s)

/-- RFT (R334, R256): while a result or timed transfer of the supervisor is in flight its issue stalls
for the cycle. -/
def execRft (f : SSyl) (s : State) :=
  scalarStep (enc (.rft f)) f (fun s => chk (!isSuper s) 0x03) (fun _ => [])
    (fun s =>
      if rftBusy s then updCur (fun c => { c with pos := { c.pos with clk := c.pos.clk + 1 } }) s
      else returnFromEvent s.core s) s

end Sys2Proof.Machine
end

