-- ==== Sys2Proof/Machine/Flags.lean ====
section
/-! DEFINITION. The sticky flags (R106): their bits, and the union in which several sources set them
(R107). -/

namespace Sys2Proof.Machine

/-- The bits of FLAGS (R106): INV 0, OVF 1, UNF 2, INX 3, BINOV 4, SUBST 5. -/
abbrev FlagSet := BitVec 6

/-- Invalid. -/
def flagInv : FlagSet := 1
/-- Overflow. -/
def flagOvf : FlagSet := 2
/-- Underflow. -/
def flagUnf : FlagSet := 4
/-- Inexact. -/
def flagInx : FlagSet := 8
/-- A bin triple overflowed or took an out-of-range contribution. -/
def flagBinov : FlagSet := 16
/-- A later-generation format was widened. -/
def flagSubst : FlagSet := 32

/-- A flag when a condition holds. -/
def flagIf (b : Bool) (f : FlagSet) : FlagSet := if b then f else 0

/-- The union of the flags of several sources (R107). -/
def flagsUnion : List FlagSet → FlagSet
  | [] => 0
  | f :: fs => f ||| flagsUnion fs

end Sys2Proof.Machine
end

