-- ==== Sys2Proof/Machine/Num.lean ====
section
/-! DEFINITION. Numbers (R81 to R104): formats, exact values, decoding, the one rounding of R98 with the
conversions of R99, exact sums and products, and comparison. -/

namespace Sys2Proof.Machine

/-! ## Formats -/

/-- A floating format (R83, R87): sign bit, exponent and mantissa widths, bias, SPEC and SUBN. A format
register with EXP = 0 is one too, of integers (R88). -/
structure Flt where
  sgn : Bool
  e : Nat
  m : Nat
  bias : Int
  spec : Nat
  subn : Bool
  deriving DecidableEq, Repr

/-- A number format (R82, R83, R84). -/
inductive Fmt where
  | int (signed : Bool) (w : Nat)
  | flt (f : Flt)
  | scale
  deriving DecidableEq, Repr

/-- f32 (R83). -/
def f32 : Flt := ⟨true, 8, 23, 127, 1, true⟩
/-- f16 (R83). -/
def f16 : Flt := ⟨true, 5, 10, 15, 1, true⟩
/-- bf16 (R83). -/
def bf16 : Flt := ⟨true, 8, 7, 127, 1, true⟩
/-- e4m3 (R83). -/
def e4m3 : Flt := ⟨true, 4, 3, 7, 2, true⟩
/-- e5m2 (R83). -/
def e5m2 : Flt := ⟨true, 5, 2, 15, 1, true⟩
/-- e2m1 (R83). -/
def e2m1 : Flt := ⟨true, 2, 1, 1, 0, true⟩
/-- e3m2 (R83). -/
def e3m2 : Flt := ⟨true, 3, 2, 3, 0, true⟩
/-- e2m3 (R83). -/
def e2m3 : Flt := ⟨true, 2, 3, 1, 0, true⟩

/-- The width of a floating format. -/
def Flt.width (f : Flt) : Nat := f.sgn.toNat + f.e + f.m

/-- The width of a format. -/
def Fmt.width : Fmt → Nat
  | .int _ w => w
  | .flt f => f.width
  | .scale => 8

/-- The container of a width (R81). -/
def containerOf (w : Nat) : Nat := if w ≤ 4 then 4 else if w ≤ 8 then 8 else if w ≤ 16 then 16 else 32

/-- The container of a format (R81). -/
def Fmt.container (f : Fmt) : Nat := containerOf f.width

/-- The formats R99 counts as integers: i and z types and registers with EXP = 0. -/
def Fmt.isInt : Fmt → Bool
  | .int _ _ => true
  | .flt f => f.e == 0
  | .scale => false

/-- The format a register defines, when it is valid for use (R87, R88). -/
def fmtOfReg (r : BitVec 32) : Option Flt :=
  let sgn := r.getLsbD 30
  let e := bits r 29 27
  let m := bits r 26 24
  let b := bits r 23 16
  let spec := bits r 15 14
  let subn := r.getLsbD 13
  let f : Flt := ⟨sgn, e, m, (if b < 128 then (b : Int) else (b : Int) - 256), spec, subn⟩
  if r.getLsbD 31 && 1 ≤ f.width && f.width ≤ 8 && spec != 3 &&
      (e != 0 || (1 ≤ m && spec == 0 && !subn)) && (spec != 1 || (2 ≤ e && 1 ≤ m)) then some f else none

/-- The later-generation formats by code less 32 (R89); code 46 has none. -/
def laterFmt : Nat → Option Flt
  | 0 => some ⟨true, 5, 3, 15, 1, true⟩
  | 1 => some ⟨true, 5, 4, 15, 1, true⟩
  | 2 => some ⟨true, 5, 5, 15, 1, true⟩
  | 3 => some ⟨true, 5, 6, 15, 1, true⟩
  | 4 => some ⟨true, 6, 2, 31, 1, true⟩
  | 5 => some ⟨true, 6, 3, 31, 1, true⟩
  | 6 => some ⟨true, 6, 4, 31, 1, true⟩
  | 7 => some ⟨true, 6, 5, 31, 1, true⟩
  | 8 => some ⟨true, 4, 4, 7, 2, true⟩
  | 9 => some ⟨true, 4, 5, 7, 2, true⟩
  | 10 => some ⟨true, 3, 6, 3, 0, true⟩
  | 11 => some ⟨true, 7, 2, 63, 1, true⟩
  | 12 => some ⟨true, 7, 4, 63, 1, true⟩
  | 13 => some ⟨true, 8, 3, 127, 1, true⟩
  | 15 => some ⟨true, 5, 3, 1, 1, true⟩
  | _ => none

/-- The format of a code (R86): `fm` the format registers, `fr` the register code 11 names. None for an
illegal code or a register that is not valid for use. -/
def fmtOfCode (fm : Sparse (BitVec 32)) (fr code : Nat) : Option Fmt :=
  if code ≤ 7 then some (.int (decide (code ≤ 3)) (4 * 2 ^ (code % 4)))
  else if code ≤ 15 then
    match code with
    | 8 => some (.flt f32)
    | 9 => some (.flt bf16)
    | 10 => some (.flt f16)
    | 11 => (fmtOfReg (tget 0 fr fm)).map .flt
    | _ => none
  else if code ≤ 31 then
    match code with
    | 16 => some (.flt e4m3)
    | 17 => some (.flt e5m2)
    | 18 => some (.flt e2m1)
    | 19 => some (.flt e3m2)
    | 20 => some (.flt e2m3)
    | 21 => some .scale
    | 22 => none
    | 23 => none
    | k => (fmtOfReg (tget 0 (k - 24) fm)).map .flt
  else (laterFmt (code - 32)).map .flt

/-- The SUBST bit of a source code (R90). -/
def substOf (code : Nat) : BitVec 16 := if 32 ≤ code ∧ code ≤ 47 then BitVec.ofNat 16 (2 ^ (code - 32)) else 0

/-! ## Exact values -/

/-- An exact value: a NaN (marked when consuming it is invalid), an infinity, or
(-1)^neg * (man + d) * 2^exp, where d is 0, or strictly between 0 and 1 when `more` is set. -/
inductive Val where
  | nan (neg sig : Bool)
  | inf (neg : Bool)
  | num (neg : Bool) (man : Nat) (exp : Int) (more : Bool)
  deriving DecidableEq, Repr

/-- An integer as a value. -/
def Val.ofInt (i : Int) : Val := .num (decide (i < 0)) i.natAbs 0 false

/-- A zero. -/
def Val.zero (neg : Bool) : Val := .num neg 0 0 false

/-- The sign. -/
def Val.neg : Val → Bool
  | .nan n _ => n
  | .inf n => n
  | .num n _ _ _ => n

/-- A NaN. -/
def Val.isNan : Val → Bool
  | .nan _ _ => true
  | _ => false

/-- A NaN whose consumption sets INV. -/
def Val.isSig : Val → Bool
  | .nan _ s => s
  | _ => false

/-- An infinity. -/
def Val.isInf : Val → Bool
  | .inf _ => true
  | _ => false

/-- A zero of either sign. -/
def Val.isZero : Val → Bool
  | .num _ m _ more => m == 0 && !more
  | _ => false

/-- The value with the other sign. -/
def Val.flip : Val → Val
  | .nan n s => .nan (!n) s
  | .inf n => .inf (!n)
  | .num n m e more => .num (!n) m e more

/-- floor(log2 |x|) of a non-zero number. -/
def Val.log2 : Val → Int
  | .num _ m e _ => (Nat.log2 m : Int) + e
  | _ => 0

/-- The exponent of a format's smallest normal (R83). -/
def Flt.emin (f : Flt) : Int := if f.e = 0 then f.m else 1 - f.bias

/-- The value of a floating encoding (R83, R85, R88). -/
def decodeFlt (f : Flt) (x : Nat) : Val :=
  let man := x % 2 ^ f.m
  let ef := x / 2 ^ f.m % 2 ^ f.e
  let neg := f.sgn && x / 2 ^ (f.m + f.e) % 2 == 1
  let top := 2 ^ f.e - 1
  if f.e = 0 then Val.ofInt ((man : Int) - if neg then (2 : Int) ^ f.m else 0)
  else if f.spec = 1 ∧ ef = top then
    if man = 0 then .inf neg else .nan neg (decide (man < 2 ^ (f.m - 1)))
  else if f.spec = 2 ∧ ef = top ∧ man = 2 ^ f.m - 1 then .nan neg false
  else if ef = 0 then if f.subn then .num neg man (1 - f.bias - f.m) false else .zero neg
  else .num neg (2 ^ f.m + man) (ef - f.bias - f.m) false

/-- The value of an encoding (R82 to R84, R88). -/
def decodeVal (f : Fmt) (x : Nat) : Val :=
  match f with
  | .int signed w =>
    let v := x % 2 ^ w
    Val.ofInt (if signed ∧ 2 ^ (w - 1) ≤ v then (v : Int) - (2 : Int) ^ w else v)
  | .flt f => decodeFlt f x
  | .scale => if x % 256 = 255 then .nan false false else .num false 1 ((x % 256 : Nat) - 127) false

/-- A source element: the value of its encoding, or the zero NARI makes of a subnormal encoding of a
floating format of 8 bits or fewer (R94, R95). -/
def sourceVal (flush : BitVec 3) (f : Fmt) (x : Nat) : Val :=
  match f with
  | .flt g =>
    if flush.getLsbD 0 && g.e != 0 && decide (g.width ≤ 8) && x / 2 ^ g.m % 2 ^ g.e == 0 then
      .zero (decodeFlt g x).neg
    else decodeFlt g x
  | f => decodeVal f x

/-- A value under a scale byte (R92); `inv` divides instead (R361). -/
def scaleVal (inv : Bool) (s : Nat) (v : Val) : Val :=
  if s = 255 then .nan false false
  else
    match v with
    | .num n m e more => .num n m (if inv then e + 127 - s else e + s - 127) more
    | v => v

/-! ## Rounding -/

/-- How an element is rounded (R96): a mode from 0 to 5, SAT, the draw of R101, and FLUSH. -/
structure Rnd where
  mode : Nat
  sat : Bool
  draw : Nat
  flush : BitVec 3
  deriving DecidableEq, Repr

/-- Round to nearest even without saturation. -/
def Rnd.rne (flush : BitVec 3) : Rnd := ⟨0, false, 0, flush⟩

/-- |x| / 2^u as an integer part, a fraction of `sh` bits and a mark for more below it. -/
def splitAt (man : Nat) (exp u : Int) (more : Bool) : Nat × Nat × Nat × Bool :=
  if u ≤ exp then (man * 2 ^ (exp - u).toNat, 0, 0, more)
  else
    let sh := (u - exp).toNat
    (man / 2 ^ sh, man % 2 ^ sh, sh, more)

/-- The magnitude is rounded up (R96, R102). -/
def roundsUp (r : Rnd) (neg : Bool) (q frac sh : Nat) (more : Bool) : Bool :=
  let inexact := frac != 0 || more
  let half := sh != 0 && frac ≥ 2 ^ (sh - 1)
  let tie := sh != 0 && frac == 2 ^ (sh - 1) && !more
  match r.mode with
  | 0 => half && (!tie || q % 2 == 1)
  | 1 => false
  | 2 => !neg && inexact
  | 3 => neg && inexact
  | 4 => half
  | _ => decide (frac * 2 ^ 32 / 2 ^ sh + r.draw ≥ 2 ^ 32)

/-- The largest finite magnitude as an encoding without its sign (R83, R88, R98). -/
def Flt.maxCode (f : Flt) (neg : Bool) : Nat :=
  if f.e = 0 then (if neg then 2 ^ f.m else 2 ^ f.m - 1)
  else match f.spec with
    | 1 => (2 ^ f.e - 1) * 2 ^ f.m - 1
    | 2 => 2 ^ (f.e + f.m) - 2
    | _ => 2 ^ (f.e + f.m) - 1

/-- The format has a NaN. -/
def Flt.hasNan (f : Flt) : Bool := f.spec != 0
/-- The canonical NaN's magnitude (R85). -/
def Flt.nanCode (f : Flt) : Nat :=
  if f.spec = 1 then (2 ^ f.e - 1) * 2 ^ f.m + 2 ^ (f.m - 1) else 2 ^ (f.e + f.m) - 1
/-- INF of R98: infinity, else the NaN, else MAX. -/
def Flt.infCode (f : Flt) (neg : Bool) : Nat :=
  match f.spec with
  | 1 => (2 ^ f.e - 1) * 2 ^ f.m
  | 2 => f.nanCode
  | _ => f.maxCode neg

/-- A magnitude encoding with its sign; integers are two's complement (R88). -/
def Flt.withSign (f : Flt) (neg : Bool) (code : Nat) : Nat :=
  if f.e = 0 then (if neg && f.sgn then (2 ^ (f.m + 1) - code) % 2 ^ (f.m + 1) else code)
  else if neg && f.sgn then 2 ^ (f.e + f.m) + code else code

/-- The canonical NaN of a sign, or +0 with INV where the format has none (R85, R99). -/
def Flt.nan (f : Flt) (neg sig : Bool) : Nat × FlagSet :=
  if f.hasNan then (f.withSign neg f.nanCode, flagIf sig flagInv) else (0, flagInv)

/-- The overflow table of R98. -/
def Flt.overflow (f : Flt) (r : Rnd) (neg : Bool) : Nat :=
  f.withSign neg
    (if r.sat then f.maxCode neg
     else match r.mode with
      | 1 => f.maxCode neg
      | 2 => if neg then f.maxCode neg else f.infCode neg
      | 3 => if neg then f.infCode neg else f.maxCode neg
      | _ => f.infCode neg)

/-- FLUSH makes a subnormal result of this format zero (R94, R95). -/
def flushesTo (flush : BitVec 3) (f : Flt) : Bool :=
  (f == f32 && flush.getLsbD 1) || ((f == f16 || f == bf16) && flush.getLsbD 2)

/-- ROUNDING INTO A FLOATING FORMAT (R88, R95, R98, R99, R103): the encoding and the flags. -/
def roundFlt (f : Flt) (r : Rnd) (v : Val) : Nat × FlagSet :=
  match v with
  | .nan neg sig => f.nan neg sig
  | .inf neg =>
    if neg && !f.sgn then (0, flagInv)
    else if f.spec = 1 then (f.withSign neg (f.infCode neg), 0)
    else (f.overflow r neg, flagInv)
  | .num neg man exp more =>
    if man = 0 ∧ !more then (if f.e = 0 then 0 else f.withSign neg 0, 0)
    else if neg && !f.sgn then (0, flagInv)
    else
      let low := f.emin
      let u := if f.e = 0 then 0 else max ((Nat.log2 man : Int) + exp) low - f.m
      let (q, frac, sh, more) := splitAt man exp u more
      let q' := if roundsUp r neg q frac sh more then q + 1 else q
      let inexact := frac != 0 || more
      let code := if f.e = 0 then q' else (u + f.m - low).toNat * 2 ^ f.m + q'
      let tiny := f.e != 0 && decide ((Nat.log2 man : Int) + exp < low)
      if code > f.maxCode neg then (f.overflow r neg, flagOvf ||| flagInx)
      else if code != 0 && decide (code < 2 ^ f.m) && f.e != 0 && (!f.subn || flushesTo r.flush f) then
        (f.withSign neg 0, flagUnf ||| flagInx)
      else
        (if f.e = 0 && code == 0 then 0 else f.withSign neg code,
         flagIf inexact flagInx ||| flagIf (inexact && tiny) flagUnf)

/-- The least and greatest value of an integer format (R82, R88). -/
def intRange : Fmt → Int × Int
  | .int true w => (-(2 : Int) ^ (w - 1), (2 : Int) ^ (w - 1) - 1)
  | .int false w => (0, (2 : Int) ^ w - 1)
  | .flt f => (if f.sgn then -(2 : Int) ^ f.m else 0, (2 : Int) ^ f.m - 1)
  | .scale => (0, 0)

/-- An integer as an encoding of `w` bits. -/
def wrapInt (w : Nat) (i : Int) : Nat := (i % (2 : Int) ^ w).toNat

/-- An integer into an integer format: wrapped, or clamped under SAT (R82, R99). -/
def fitInt (f : Fmt) (sat : Bool) (i : Int) : Nat :=
  let (lo, hi) := intRange f
  wrapInt f.width (if sat then max lo (min hi i) else i)

/-- A floating value into an integer type (R99, R102): rounded, then saturated. -/
def roundInt (f : Fmt) (r : Rnd) (v : Val) : Nat × FlagSet :=
  let (lo, hi) := intRange f
  match v with
  | .nan _ _ => (0, flagInv)
  | .inf neg => (wrapInt f.width (if neg then lo else hi), flagInv)
  | .num neg man exp more =>
    let (q, frac, sh, more) := splitAt man exp 0 more
    let q' := if roundsUp r neg q frac sh more then q + 1 else q
    let i : Int := if neg then -q' else q'
    if i < lo then (wrapInt f.width lo, flagInv)
    else if i > hi then (wrapInt f.width hi, flagInv)
    else (wrapInt f.width i, flagIf (frac != 0 || more) flagInx)

/-- A value into e8m0 (R84, R99): inexact unless the value's magnitude is the power of two encoded, which no zero,
infinity or NaN is (DEDUCED, log 48). -/
def roundScale (v : Val) : Nat × FlagSet :=
  match v with
  | .nan _ sig => (255, flagIf sig flagInv ||| flagInx)
  | .inf _ => (255, flagInx)
  | .num neg man exp more =>
    if man = 0 ∧ !more then (0, flagInx)
    else
      let s := max 0 (min 254 ((Val.num neg man exp more).log2 + 127))
      let exact := !more && (Val.num neg man exp more).log2 + 127 == s && man == 2 ^ Nat.log2 man
      (s.toNat, flagIf (!exact) flagInx)

/-- Rounds a floating value into any format (R98, R99). -/
def roundVal (f : Fmt) (r : Rnd) (v : Val) : Nat × FlagSet :=
  match f with
  | .int _ _ => roundInt f r v
  | .flt g => roundFlt g r v
  | .scale => roundScale v

/-- The integer a value of an integer format is. -/
def Val.toInt : Val → Int
  | .num neg man exp _ =>
    let i : Int := man * 2 ^ exp.toNat
    if neg then -i else i
  | _ => 0

/-- Converts a value from one format to another (R99): integer to integer wraps or clamps. -/
def convertVal (src dst : Fmt) (r : Rnd) (v : Val) : Nat × FlagSet :=
  if src.isInt && dst.isInt then (fitInt dst r.sat v.toInt, 0) else roundVal dst r v

/-! ## Exact arithmetic -/

/-- The canonical NaN of several inputs (R103): the sign of the first, invalid when any signals. -/
def nanOf : List Val → Option Val
  | [] => none
  | v :: vs =>
    match v with
    | .nan n s => some (.nan n (s || vs.any Val.isSig))
    | _ =>
      match nanOf vs with
      | some (.nan n s) => some (.nan n s)
      | x => x

/-- An exact product (R92, R103); zero times infinity is the positive NaN, invalid. -/
def mulVal (a b : Val) : Val :=
  match nanOf [a, b] with
  | some v => v
  | none =>
    match a, b with
    | .num n m e _, .num n' m' e' _ => .num (n != n') (m * m') (e + e') false
    | _, _ =>
      if a.isZero || b.isZero then .nan false true else .inf (a.neg != b.neg)

/-- A number as an integer multiple of 2^u, for u no greater than its exponent. -/
def Val.scaled (u : Int) : Val → Int
  | .num neg man exp _ =>
    let i : Int := man * 2 ^ (exp - u).toNat
    if neg then -i else i
  | _ => 0

/-- The exponent of a number's unit; a zero gives the other's. -/
def unitOf (a b : Val) : Int :=
  match a, b with
  | .num _ 0 _ _, .num _ _ e _ => e
  | .num _ _ e _, .num _ 0 _ _ => e
  | .num _ _ e _, .num _ _ e' _ => min e e'
  | _, _ => 0

/-- An exact sum (R103, R350); `rdn` is the sign of an exact zero sum of unlike addends. -/
def addVal (rdn : Bool) (a b : Val) : Val :=
  match nanOf [a, b] with
  | some v => v
  | none =>
    if a.isInf then (if b.isInf && a.neg != b.neg then .nan false true else a)
    else if b.isInf then b
    else if a.isZero && b.isZero then .zero (if a.neg == b.neg then a.neg else rdn)
    else
      let u := unitOf a b
      let t := a.scaled u + b.scaled u
      if t = 0 then .zero rdn else .num (decide (t < 0)) t.natAbs u false

/-- a * b + c (R103, R300, R350): the first NaN in operand order gives the sign; zero times infinity is
invalid even beside a quiet NaN. -/
def fmaVal (rdn : Bool) (a b c : Val) : Val :=
  let bad := (a.isZero && b.isInf) || (a.isInf && b.isZero)
  match nanOf [a, b, c] with
  | some (.nan n s) => .nan n (s || bad)
  | _ => addVal rdn (mulVal a b) c

/-! ## Comparison -/

/-- a < b for two values that are not NaN, with -0 equal to +0. -/
def ltVal (a b : Val) : Bool :=
  match a, b with
  | .inf n, .inf n' => n && !n'
  | .inf n, _ => n
  | _, .inf n => !n
  | a, b => a.scaled (unitOf a b) < b.scaled (unitOf a b)

/-- a < b with -0 below +0 (R104, R369). -/
def ltOrder (a b : Val) : Bool := ltVal a b || (a.isZero && b.isZero && a.neg && !b.neg)

/-- The conditions of R301 and R355, codes 0 to 7. -/
def condHolds (cc : Nat) (a b : Val) : Bool :=
  let un := a.isNan || b.isNan
  let lt := !un && ltVal a b
  let gt := !un && ltVal b a
  match cc with
  | 0 => !un && !lt && !gt
  | 1 => un || lt || gt
  | 2 => lt
  | 3 => !un && !gt
  | 4 => gt
  | 5 => !un && !lt
  | 6 => un
  | _ => !un

/-- Minimum and maximum (R104): `prop` for the forms that carry NaN; `canon` the positive canonical NaN;
the elements' own bits pass through. -/
def pickMinMax (wantMax prop : Bool) (canon : Nat) (a b : Val) (xa xb : Nat) : Nat × FlagSet :=
  let inv := flagIf (a.isSig || b.isSig) flagInv
  if a.isNan && b.isNan then (canon, inv)
  else if a.isNan then (if prop then canon else xb, inv)
  else if b.isNan then (if prop then canon else xa, inv)
  else if (if wantMax then ltOrder a b else ltOrder b a) then (xb, inv)
  else (xa, inv)

/-- The positive canonical NaN of a format, 0 where it has none. -/
def canonNan : Fmt → Nat
  | .flt f => if f.hasNan then f.nanCode else 0
  | .scale => 255
  | .int _ _ => 0

end Sys2Proof.Machine
end

