-- ==== Sys2Proof/Machine/Operands.lean ====
section
/-! DEFINITION. Operand forms: elements and their containers (R81), governing bits of predicates (R75),
source codes, bypass registers and register groups (R74, R105, R125), scale bytes (R91), the rounding
mode of a syllable (R96) and the generators (R100, R101). -/

namespace Sys2Proof.Machine

/-- Element `i` of a row in containers of `cw` bits (R81). -/
def elemAt (cw : Nat) (r : Row) (i : Nat) : Nat := (r >>> (cw * i)).toNat % 2 ^ cw

/-- Elements side by side, the first lowest. -/
def packElems (cw : Nat) : List Nat → Nat
  | [] => 0
  | x :: xs => x % 2 ^ cw + 2 ^ cw * packElems cw xs

/-- A row of elements (R81). -/
def rowOf (cw : Nat) (l : List Nat) : Row := BitVec.ofNat 4096 (packElems cw l)

/-- The elements of a row in order. -/
def elemsOf (cw : Nat) (r : Row) : List Nat := (List.range (4096 / cw)).map (elemAt cw r)

/-- Every k-th element, from the one `j` places on. -/
def stride {α : Type} (k : Nat) : Nat → List α → List α
  | _, [] => []
  | 0, x :: xs => x :: stride k (k - 1) xs
  | j + 1, _ :: xs => stride k j xs

/-- The number whose bits below `n` are given. -/
def natOfBits (f : Nat → Bool) : Nat → Nat
  | 0 => 0
  | n + 1 => natOfBits f n + if f n then 2 ^ n else 0

/-- The governing bit of element `i` of `n` (R75). -/
def govBit (n : Nat) (p : Pred) (i : Nat) : Bool :=
  if n ≤ 512 then p.getLsbD (i * 512 / n) else p.getLsbD (i / 2)

/-- A predicate written by `n` element results (R75), where an inactive element's bits keep the old ones,
or are cleared when `z` is set (R355). -/
def predWrite (n : Nat) (gov : Pred) (z : Bool) (old : Pred) (res : Nat → Bool) : Pred :=
  BitVec.ofNat 512 (natOfBits (fun j =>
    let i := if n ≤ 512 then j * n / 512 else 2 * j
    if govBit n gov i then (if n ≤ 512 then res i else res i && res (i + 1))
    else !z && old.getLsbD j) 512)

/-- The number of a cluster. -/
def clNum : Cluster → Nat
  | .a => 0
  | .b => 1
/-- The register file of a cluster's vectors. -/
def clFile : Cluster → RegFile
  | .a => .va
  | .b => .vb
/-- The register file of a cluster's predicates. -/
def clPred : Cluster → RegFile
  | .a => .pa
  | .b => .pb

/-- The key of a bypass register; b6 is the other cluster's b0 (R74). -/
def bypKey (cl : Cluster) (k : Nat) : Nat := if k = 6 then 8 * (1 - clNum cl) else 8 * clNum cl + k

/-- The row a source code names (R74, R125). -/
def srcRow (c : Ctx) (cl : Cluster) (code : Nat) : Row :=
  if code < 32 then vget c (32 * clNum cl + code) else tget 0 (bypKey cl (code - 32)) c.regs.byp
/-- The poison bit of a source code (R222). -/
def srcRowPois (c : Ctx) (cl : Cluster) (code : Nat) : Bool :=
  if code < 32 then c.regs.vPois.getLsbD (32 * clNum cl + code)
  else c.regs.bypPois.getLsbD (bypKey cl (code - 32))

/-- Element `i` of a group of `k` registers from `base` (R105); one register may be a bypass. -/
def groupElem (c : Ctx) (cl : Cluster) (base k cw i : Nat) : Nat :=
  elemAt cw (srcRow c cl (base + i % k)) (i / k)
/-- A register of a group is poisoned. -/
def groupPois (c : Ctx) (cl : Cluster) (base k : Nat) : Bool :=
  (List.range k).any fun j => srcRowPois c cl (base + j)

/-- The governing predicate of a V syllable. -/
def govPred (c : Ctx) (cl : Cluster) (p : Nat) : Pred := pget c (8 * clNum cl + p)
/-- Its poison bit. -/
def govPois (c : Ctx) (cl : Cluster) (p : Nat) : Bool := ppois c (8 * clNum cl + p)

/-- The scale byte of block `j` under selector `q` (R91). -/
def scaleByte (sv : Row) (q j : Nat) : Nat := elemAt 8 sv ((16 * q + j) % 512)

/-- The rounding mode a mode field resolves to (R96). -/
def modeOf (c : Ctx) (m : BitVec 4) : Nat :=
  if bits m 2 0 = 6 then c.ctl.rmode.toNat else bits m 2 0
/-- SAT of a mode field (R96). -/
def satOf (m : BitVec 4) : Bool := m.getLsbD 3
/-- A mode that only the vector clusters carry out as stochastic (R96). -/
def engineMode (rmode : Nat) : Nat := if rmode = 5 then 0 else rmode

/-- One step of a generator lane (R100). -/
def laneStep (x : BitVec 32) : BitVec 32 :=
  let x := x ^^^ (x <<< 13)
  let x := x ^^^ (x >>> 17)
  x ^^^ (x <<< 5)
/-- One step of every lane. -/
def genStep (g : Row) : Row := rowOf 32 ((elemsOf 32 g).map fun x => (laneStep (BitVec.ofNat 32 x)).toNat)
/-- The generator after each of `n` steps. -/
def genSteps : Nat → Row → List Row
  | 0, _ => []
  | n + 1, g => genStep g :: genSteps n (genStep g)
/-- A lane's seed (R100). -/
def laneSeed (seed i : Nat) : Nat :=
  let x := seed ^^^ (i * 0x9E3779B9 % 2 ^ 32)
  if x = 0 then 0x6D2B79F5 else x
/-- A seeded generator (R100). -/
def genSeed (seed : Nat) : Row := rowOf 32 ((List.range 128).map (laneSeed seed))
/-- The draw of element `i` (R101). -/
def drawAt (gs : List Row) (i : Nat) : Nat :=
  match gs[i / 128]? with
  | some g => elemAt 32 g (i % 128)
  | none => 0

/-- The format of a code in a context (R86). -/
def ctxFmt (c : Ctx) (fr code : Nat) : Option Fmt := fmtOfCode c.ctl.fm fr code
/-- The format a T code names in an instruction that does not allow 11 (R126). -/
def typeFmt (t : Nat) : Fmt := (fmtOfCode [] 0 t).getD (.int true 4)

end Sys2Proof.Machine
end

