-- ==== Sys2Proof/Machine/Sum.lean ====
section
/-! DEFINITION. The summing operations and the numeric behaviour versions (R109 to R114), block scales
(R93), and bin triples (R116, R117, R119). -/

namespace Sys2Proof.Machine

/-- One rounding into f32, RNE (R110). -/
def rndF32 (sat : Bool) (flush : BitVec 3) (v : Val) : Nat × FlagSet :=
  roundFlt f32 ⟨0, sat, 0, flush⟩ v

/-- Cuts a list into groups of `n + 1` (R111). -/
def groupsOf {α : Type} (n : Nat) : Nat → List α → List (List α)
  | 0, _ => []
  | fuel + 1, l => if l.isEmpty then [] else l.take (n + 1) :: groupsOf n fuel (l.drop (n + 1))

/-- A node of version 1's tree from its two children (R112): an absent value is none; a node over one
present child takes it, rounded. -/
def treeNode (flush : BitVec 3) (a b : Option Val × FlagSet) : Option Val × FlagSet :=
  let out (v : Val) : Option Val × FlagSet :=
    let r := rndF32 false flush v
    (some (decodeFlt f32 r.1), r.2 ||| a.2 ||| b.2)
  match a.1, b.1 with
  | some x, some y => out (addVal false x y)
  | some x, none => out x
  | none, some y => out y
  | none, none => (none, a.2 ||| b.2)

/-- One level of the tree. -/
def treeLevel (flush : BitVec 3) : List (Option Val × FlagSet) → List (Option Val × FlagSet)
  | a :: b :: r => treeNode flush a b :: treeLevel flush r
  | [a] => [treeNode flush a (none, 0)]
  | [] => []

/-- The group value of version 1 (R112): four levels over 16 positions. -/
def group1 (flush : BitVec 3) (ts : List (Option Val)) : Option Val × FlagSet :=
  let l := treeLevel flush (treeLevel flush (treeLevel flush (treeLevel flush (ts.map fun t => (t, 0)))))
  l.headD (none, 0)

/-- The largest floor(log2 |p|) over non-zero terms (R113). -/
def maxLog : List Val → Option Int
  | [] => none
  | v :: vs =>
    match maxLog vs with
    | none => if v.isZero then none else some v.log2
    | some e => if v.isZero then some e else some (max v.log2 e)

/-- The group value of versions 2 and 3 (R113) with alignment width `w`; no term is a NaN. -/
def group2 (w : Nat) (ts : List Val) : Option Val × FlagSet :=
  if ts.isEmpty then (none, 0)
  else
    let pos := ts.any fun t => t.isInf && !t.neg
    let neg := ts.any fun t => t.isInf && t.neg
    if pos && neg then (some (.nan false false), flagInv)
    else if pos || neg then (some (.inf neg), 0)
    else
      match maxLog ts with
      | none => (some (.zero (ts.all Val.neg)), 0)
      | some e =>
        let u := e - (w : Int) + 1
        let cut : List (Int × Bool) := ts.map fun t =>
          match t with
          | .num n m x more =>
            let (q, frac, _, more) := splitAt m x u more
            ((if n then -(q : Int) else q), frac != 0 || more)
          | _ => (0, false)
        let q : Int := cut.foldl (fun a c => a + c.1) 0
        (some (if q = 0 then .zero (ts.all fun t => t.isZero && t.neg) else .num (decide (q < 0)) q.natAbs u false),
         flagIf (cut.any (·.2)) flagInx)

/-- The linear accumulation of group values (R111). -/
def accumulate (sat : Bool) (flush : BitVec 3) : List (Option Val × FlagSet) → Option Nat × FlagSet →
    Option Nat × FlagSet
  | [], acc => acc
  | (none, fl) :: gs, acc => accumulate sat flush gs (acc.1, acc.2 ||| fl)
  | (some q, fl) :: gs, acc =>
    let r := match acc.1 with
      | none => rndF32 sat flush q
      | some a => rndF32 sat flush (addVal false (decodeFlt f32 a) q)
    accumulate sat flush gs (some r.1, acc.2 ||| fl ||| r.2)

/-- A SUM under a numeric behaviour version (R108 to R113): terms by K index (none for an absent term),
the initial accumulator as f32 bits, the result as f32 bits. A version that no rule names, the 0 of a context without a
binding, sums as version 3 (DESIGN CHOICE, log 77). -/
def sumF32 (nbv : Nat) (sat : Bool) (flush : BitVec 3) (ts : List (Option Val)) (acc : Option Nat) :
    Nat × FlagSet :=
  let accVal := (acc.map (decodeFlt f32)).getD (.zero false)
  let present := ts.filterMap id
  if nbv = 1 then
    let r := accumulate sat flush ((groupsOf 15 (ts.length + 1) ts).map (group1 flush)) (acc, 0)
    (r.1.getD 0, r.2)
  else
    match nanOf present with
    | some (.nan n s) => (f32.withSign n f32.nanCode, flagIf (s || accVal.isSig) flagInv)
    | _ =>
      let (g, w) := if nbv = 2 then (31, 40) else (63, 64)
      let r := accumulate sat flush
        ((groupsOf g (ts.length + 1) ts).map fun l => group2 w (l.filterMap id)) (acc, 0)
      (r.1.getD 0, r.2)

/-- An integer sum (R114): wrapped into the destination, or clamped under SAT (R348); OVF when the
unbounded sum lies outside it. -/
def sumInt (f : Fmt) (sat : Bool) (ts : List Int) : Nat × FlagSet :=
  let t := ts.foldl (· + ·) 0
  let (lo, hi) := intRange f
  (fitInt f sat t, flagIf (decide (t < lo ∨ hi < t)) flagOvf)

/-! ## Block scales -/

/-- The exponent of a destination's largest finite value (R93). -/
def emaxOf : Fmt → Int
  | .int true w => (w : Int) - 2
  | .int false w => (w : Int) - 1
  | .flt f => (decodeFlt f (f.maxCode false)).log2
  | .scale => 127

/-- The largest magnitude's exponent of a block, none when every element is zero. -/
def blockLog (vs : List Val) : Option Int := maxLog vs

/-- The scale byte of a block (R93): 0xFF when any element is a NaN or an infinity. -/
def blockScale (dst : Fmt) (vs : List Val) : Nat :=
  if vs.any fun v => v.isNan || v.isInf then 255
  else
    match blockLog vs with
    | none => 127
    | some l => (max 0 (min 254 (l - emaxOf dst + 127))).toNat

/-- The flags of R98 for a rounding into an integer type, which saturates where R99 sets INV: an overflow, inexact. -/
def overflowFlags (fl : FlagSet) : FlagSet := if fl &&& flagInv = 0 then fl else flagOvf ||| flagInx

/-- An element quantised under its block's scale (R93), SAT forced; the flags are those of R98 whatever the
destination. -/
def quantise (dst : Fmt) (r : Rnd) (s : Nat) (v : Val) : Nat × FlagSet :=
  if s = 255 then (0, 0)
  else
    let x := roundVal dst { r with sat := true } (scaleVal true s v)
    match dst with
    | .int _ _ => (x.1, overflowFlags x.2)
    | _ => x

/-! ## Bin triples -/

/-- A bin triple: three signed bins and STAT (R117). -/
structure Triple where
  b0 : BitVec 64
  b1 : BitVec 64
  b2 : BitVec 64
  stat : BitVec 64
  deriving DecidableEq, Repr

/-- A triple as the number its 32 little-endian bytes hold (R117). -/
def Triple.toNat (t : Triple) : Nat :=
  t.b0.toNat + t.b1.toNat * 2 ^ 64 + t.b2.toNat * 2 ^ 128 + t.stat.toNat * 2 ^ 192

/-- The triple of a 32-byte number (R117). -/
def Triple.ofNat (n : Nat) : Triple :=
  ⟨BitVec.ofNat 64 n, BitVec.ofNat 64 (n / 2 ^ 64), BitVec.ofNat 64 (n / 2 ^ 128),
   BitVec.ofNat 64 (n / 2 ^ 192)⟩

/-- A signed bin of a magnitude. -/
def binOf (neg : Bool) (n : Nat) : BitVec 64 := BitVec.ofInt 64 (if neg then -(n : Int) else n)

/-- The split of a value with maximum exponent `emax` (R116). -/
def splitBins (emax : Int) (v : Val) : Triple × FlagSet :=
  match v with
  | .nan _ _ => (⟨0, 0, 0, 2⟩, flagInv ||| flagBinov)
  | .inf _ => (⟨0, 0, 0, 2⟩, flagInv ||| flagBinov)
  | .num neg man exp more =>
    if man != 0 && decide (v.log2 ≥ emax + 1) then
      let b := binOf neg (2 ^ 40 - 1)
      (⟨b, b, b, 2⟩, flagBinov)
    else
      let (q, frac, _, more) := splitAt man exp (emax - 119) more
      (⟨binOf neg (q / 2 ^ 80), binOf neg (q / 2 ^ 40 % 2 ^ 40), binOf neg (q % 2 ^ 40), 0⟩,
       flagIf (frac != 0 || more) flagInx)

/-- A signed 64-bit addition overflows. -/
def addOverflows (a b : BitVec 64) : Bool :=
  let s := a.toInt + b.toInt
  decide (s < -(2 : Int) ^ 63 ∨ (2 : Int) ^ 63 - 1 < s)

/-- Adds triple y into triple z (R117), with the BINOV an adder sets. -/
def addTriple (z y : Triple) : Triple × FlagSet :=
  let ov := addOverflows z.b0 y.b0 || addOverflows z.b1 y.b1 || addOverflows z.b2 y.b2
  (⟨z.b0 + y.b0, z.b1 + y.b1, z.b2 + y.b2, (z.stat ||| y.stat) ||| (if ov then 1 else 0)⟩,
   flagIf (ov || y.stat.getLsbD 1) flagBinov)

/-- Recombines a triple (R119). -/
def joinBins (emax : Int) (sat : Bool) (flush : BitVec 3) (z : Triple) : Nat × FlagSet :=
  if z.stat != 0 then (f32.nanCode, flagBinov)
  else
    let v := z.b0.toInt * 2 ^ 80 + z.b1.toInt * 2 ^ 40 + z.b2.toInt
    if v = 0 then (0, 0)
    else rndF32 sat flush (.num (decide (v < 0)) v.natAbs (emax - 119) false)

end Sys2Proof.Machine
end

