-- ==== Sys2Proof/Machine/MatrixCmd.lean ====
section
/-! DEFINITION. Matrix commands as data: their operand words (R154 to R157, R160, R162, R163, R165, R167)
and their schedules (R158, R166). -/

namespace Sys2Proof.Machine

/-- The format a command's code names: the registers as read at its issue (R97, R154). -/
def MCmd.fmt (m : MCmd) (code : Nat) : Option Fmt := fmtOfCode m.num.fm m.o.fr.toNat code

/-- KV of the load word (R160). -/
def MCmd.kv (m : MCmd) : Nat := bits m.b 7 0
/-- NV of the load word (R160). -/
def MCmd.nv (m : MCmd) : Nat := bits m.b 15 8
/-- WFMT of the load word (R160). -/
def MCmd.wfmt (m : MCmd) : Nat := bits m.b 21 16
/-- WSC of the load word (R160). -/
def MCmd.wsc (m : MCmd) : Bool := m.b.getLsbD 24

/-- M of the feed word (R163). -/
def MCmd.mrows (m : MCmd) : Nat := bits m.b 7 0
/-- AFMT of the feed word (R163). -/
def MCmd.afmt (m : MCmd) : Nat := bits m.b 13 8
/-- ASC of the feed word (R163). -/
def MCmd.asc (m : MCmd) : Bool := m.b.getLsbD 23

/-- RC of the drain word (R165). -/
def MCmd.rc (m : MCmd) : Nat := bits m.b 7 0
/-- DFMT of the drain word (R165). -/
def MCmd.dfmt (m : MCmd) : Nat := bits m.b 13 8
/-- AROW of the feed and drain words (R163, R165). -/
def MCmd.arow (m : MCmd) : Nat := bits m.b 22 16
/-- QS of the drain word (R165). -/
def MCmd.qs (m : MCmd) : Bool := m.b.getLsbD 23
/-- MODE of the drain word (R165). -/
def MCmd.mode (m : MCmd) : BitVec 4 := m.b.extractLsb' 24 4
/-- PUB of the drain word (R165). -/
def MCmd.pub (m : MCmd) : Bool := m.b.getLsbD 47
/-- PTAG of the drain word (R165). -/
def MCmd.ptag (m : MCmd) : BitVec 16 := m.b.extractLsb' 48 16

/-- The container of a code. -/
def MCmd.cont (m : MCmd) (code : Nat) : Nat := ((m.fmt code).map Fmt.container).getD 32
/-- The width of a code. -/
def MCmd.wide (m : MCmd) (code : Nat) : Nat := ((m.fmt code).map Fmt.width).getD 32

/-- The code is an integer format (R157). -/
def MCmd.isInteger (m : MCmd) (code : Nat) : Bool := ((m.fmt code).map Fmt.isInt).getD false

/-- The scratchpad rows MLW reads (R155, R160). -/
def MCmd.nw (m : MCmd) : Nat :=
  if m.kv = 0 ∨ m.nv = 0 then 0 else ceilDiv (m.kv * m.cont m.wfmt) 32
/-- The scratchpad rows MMA reads (R156). -/
def MCmd.na (m : MCmd) : Nat := ceilDiv (m.mrows * m.wide m.afmt) 32
/-- The data rows MDRN writes (R166). -/
def MCmd.nd (m : MCmd) : Nat := ceilDiv (m.rc * m.cont m.dfmt) 32
/-- Tile rows in a scratchpad row of MDRN (R166). -/
def MCmd.perRow (m : MCmd) : Nat := 32 / m.cont m.dfmt

/-- The rows a command reads, one a cycle from t+S. -/
def MCmd.nread (m : MCmd) : Nat :=
  match m.kind with
  | .mlw => m.nw
  | .mma => m.na
  | _ => 0

/-- The first row a command reads or writes: s[A] as an unsigned row number (R318). -/
def MCmd.row0 (m : MCmd) : Nat := m.a.toNat

/-- C of R158. -/
def MCmd.feed (m : MCmd) : Nat :=
  let w := m.wide m.afmt
  if w ≥ 3 then m.mrows * ceilDiv w 4 else ceilDiv m.mrows 2

/-- Release, in cycles after t+S (R158); a drain of no rows holds the engine for its one cycle (R165; DEDUCED,
log 13). -/
def MCmd.release (m : MCmd) : Nat :=
  match m.kind with
  | .mma => if m.mrows = 0 then 1 else m.feed
  | .mdrn => max m.rc 1
  | .mdrc => max m.rc 1
  | _ => 1

/-- Completion, in cycles after t+S (R158, R164 to R166). -/
def MCmd.done (m : MCmd) : Nat :=
  match m.kind with
  | .mlw => m.nw + 8
  | .mma => if m.mrows = 0 then 1 else 24 + m.feed
  | .mclr => if m.rc = 0 then 1 else 2
  | .mdrn => if m.rc = 0 then 1 else m.rc + (if m.qs then 13 else 12)
  | .mdrc => max m.rc 1
  | _ => 1

/-- The cycle after t+S in which MDRN writes its data row `j` (R166). -/
def MCmd.writeAt (m : MCmd) (j : Nat) : Nat := 11 + min m.rc ((j + 1) * m.perRow)

/-- The cycles after t+S in which MDRN writes rows, with the row's place from s[A] (R166). -/
def MCmd.writes (m : MCmd) : List (Nat × Nat) :=
  if m.kind = .mdrn ∧ m.rc ≠ 0 then
    ((List.range m.nd).map fun j => (m.writeAt j, j)) ++ (if m.qs then [(12 + m.rc, m.nd)] else [])
  else []

/-- The tile rows a command names (R159). -/
def MCmd.tileRows (m : MCmd) : Nat × Nat :=
  match m.kind with
  | .mma => (m.arow, m.mrows)
  | _ => (m.arow, m.rc)

/-- Two commands name a common row of one tile. -/
def sharesRows (a b : MCmd) : Bool :=
  a.o.acc == b.o.acc && a.tileRows.2 != 0 && b.tileRows.2 != 0 && decide (a.tileRows.1 < b.tileRows.1 + b.tileRows.2) &&
    decide (b.tileRows.1 < a.tileRows.1 + a.tileRows.2)

end Sys2Proof.Machine
end

