-- ==== Sys2Proof/Machine/Claims.lean ====
section
/-! DEFINITION. The claims of R63 and R158: program-lane segments, block ports, landing slots and MX lanes in
the cycles ahead. A claim is not stored: it follows from what is in flight. -/

namespace Sys2Proof.Machine

/-- What is claimed for one cycle (R63, R158): a block's read or write port, a segment of a lane, the
landing slot of a register file (0 VA, 1 VB, 2 LS), or an MX lane. -/
inductive ClaimOf where
  | read (blk : Nat)
  | write (blk : Nat)
  | seg (lane k : Nat)
  | land (file : Nat)
  | mx (lane : Nat)
  deriving DecidableEq, Repr

/-- A claim: what, and how many cycles from now. -/
abbrev Claim := ClaimOf × Int

/-- The landing slot of a register file (R63, R309). -/
def landFile : RegFile → Nat
  | .va => 0
  | .pa => 0
  | .vb => 1
  | .pb => 1
  | _ => 2

/-- The station of a register file (R59). -/
def fileStation (f : RegFile) : Nat :=
  match landFile f with
  | 0 => 3
  | 1 => 5
  | _ => 7

/-- The segments a transfer crosses, hop by hop (R60, R62). -/
def segments (src lane hop : Nat) : List Nat :=
  (List.range hop).map fun j => if lane < 8 then (src + j) % 16 else (src + 31 - j) % 16

/-- The claims of a timed load whose phase clock reads `clk` now (R62, R63). -/
def loadClaims (clk : Nat) (l : LoadOp) : List Claim :=
  let t (n : Nat) : Int := (n : Int) - clk
  [(.read l.blk, t l.read), (.land (landFile l.file), t l.land)] ++
    (segments (2 * l.blk) l.lane l.hop).zipIdx.map fun p => (.seg l.lane p.1, t (l.read + 1 + p.2))

/-- The claims of a timed store (R62, R63). -/
def storeClaims (clk : Nat) (w : StoreOp) : List Claim :=
  let t (n : Nat) : Int := (n : Int) - clk
  (.write w.blk, t w.write) ::
    (segments (fileStation w.file) w.lane w.hop).zipIdx.map fun p =>
      (.seg w.lane p.1, t (w.write + p.2) - w.hop)

/-- The MX lane of a block's reads (R158). -/
def mxLane (blk : Nat) : Nat := if blk = 0 ∨ 5 ≤ blk then 4 else 12

/-- The claims of a matrix command that begins `base` cycles from now (R158, R166). -/
def matrixClaims (base : Int) (m : MCmd) : List Claim :=
  let blk := m.o.blk.toNat
  ((List.range m.nread).flatMap fun (j : Nat) =>
    [(ClaimOf.read blk, base + (j : Int)), (ClaimOf.mx (mxLane blk), base + (j : Int))]) ++
    m.writes.map fun w => (.write blk, base + (w.1 : Int))

/-- The claims of a timed copy command (R279): one row a cycle. -/
def copyClaims (base : Int) (rows : List (Nat × Nat)) : List Claim :=
  rows.zipIdx.map fun p => (.read p.1.1, base + (p.2 : Int))

/-- Every claim on a core that stands at the issue of a bundle of slot `sl` (R63): its own loads, stores
and timed commands, and begun commands. Other contexts' transfers stand still with their clocks. -/
def claims (s : State) (core sl : Nat) : List Claim :=
  let k := coreOf s core
  let c := ctxOf s (ctxId core sl)
  c.fly.loads.flatMap (loadClaims c.pos.clk) ++ c.fly.stores.flatMap (storeClaims c.pos.clk) ++
    (k.mrun.flatMap fun r => matrixClaims ((r.start : Int) - now s) r.cmd) ++
    ((k.mq.filter (·.slot == sl)).flatMap fun m =>
      matrixClaims ((m.h.start.toNat : Int) - c.pos.clk) m) ++
    (k.cq.filter fun q => timed q.h && q.kind != .mdrc).flatMap fun q =>
      if q.stage = .begun then copyClaims ((q.start : Int) + q.src.length - now s) q.srcLeft
      else if q.slot = sl then copyClaims ((q.h.start.toNat : Int) - c.pos.clk) q.srcLeft else []

/-- A new claim conflicts with a standing one. -/
def conflicts (new old : List Claim) : Bool := new.any fun c => decide (0 ≤ c.2) && old.contains c

end Sys2Proof.Machine
end

