-- ==== Sys2Proof/Machine/Scratch.lean ====
section
/-! DEFINITION. The scratchpad and the accumulator store (R64 to R69, R77 to R79): rows, owners, tags, and
the errors a read may meet. -/

namespace Sys2Proof.Machine

/-- The key of row `r` of block `b`. -/
def rowKey (b r : Nat) : Nat := 768 * b + r
/-- The key of row `r` of accumulator tile `t`, in the table of owners and errors. -/
def accKey (t r : Nat) : Nat := 6144 + 128 * t + r
/-- The tile of a row (R67). -/
def tileOf (b r : Nat) : Nat := 96 * b + r / 8

/-- A scratchpad row. -/
def rowAt (k : Core) (key : Nat) : Row := tget 0 key k.st.rows
/-- An accumulator row. -/
def accAt (k : Core) (t r : Nat) : Row := tget 0 (128 * t + r) k.st.acc
/-- A tile's sequence tag (R69). -/
def tagOf (k : Core) (tile : Nat) : BitVec 16 := tget 0 tile k.st.tags

/-- The owner tag of a row nothing owns (R77). -/
def noOwner : BitVec 8 := 0xE0
/-- The slot that owns a row: its tag's slot while the generation is that slot's own (R77). -/
def rowOwner (k : Core) (key : Nat) : Option Nat :=
  let t := tget noOwner key k.st.owners
  let sl := bits t 7 5
  if sl < 4 ∧ bits t 4 0 = (tget 0 sl k.st.gens).toNat then some sl else none

/-- A tile allocated to the task of a slot (R67, R68). -/
def tileMine (k : Core) (sl tile : Nat) : Bool := tget 0 tile k.st.tileOwn == sl + 1
/-- An accumulator tile allocated to the task of a slot (R73). -/
def accMine (k : Core) (sl t : Nat) : Bool := tget 0 t k.st.accOwn == sl + 1
/-- Rows `r` to `r + n - 1` of a block lie in tiles of a slot's task (R68). -/
def rowsMine (k : Core) (sl b r n : Nat) : Bool :=
  (List.range n).all fun i => decide (r + i < 768) && tileMine k sl (tileOf b (r + i))

/-- A row a command of a slot may name (R68, R174): within its block, and in a tile of the slot's task. The supervisor's
commands bypass the ownership alone (R257). -/
def rowStands (k : Core) (sl : Nat) (r : Nat × Nat) : Bool :=
  decide (r.2 < 768) && (sl == 4 || rowsMine k sl r.1 r.2 1)

/-- Changes a core's storage. -/
def updStore (core : Nat) (f : Store → Store) (s : State) : State :=
  updCore core (fun k => { k with st := f k.st }) s

/-- Two rows byte by byte: the second where the mask is set (R65). -/
def maskRow (old new : Row) (mask : Pred) : Row :=
  if mask = BitVec.allOnes 512 then new
  else rowOf 8 ((List.range 512).map fun j => elemAt 8 (if mask.getLsbD j then new else old) j)

/-- A byte mask of `n` bytes from byte `b`. -/
def byteMask (b n : Nat) : Pred := BitVec.ofNat 512 ((2 ^ n - 1) * 2 ^ b)

/-! ## Bit errors (R77 to R79) -/

/-- The bit error of a 64-bit word of a row: 0 none, 1 correctable, 2 not (R77). -/
def wordErr (st : Store) (key word : Nat) : Nat := tget 0 (64 * key + word) st.ecc

/-- The words of a row with an error, among `n` from one. -/
def badWords (st : Store) (key lo n : Nat) : List Nat :=
  if st.ecc.isEmpty then [] else ((List.range n).map (lo + ·)).filter fun w => wordErr st key w != 0

/-- A row is written through a byte mask: every correctable error of it is gone (R78), and an uncorrectable one where
all eight bytes of its word are written (DESIGN CHOICE, log 64). -/
def healRow (key : Nat) (mask : Pred) (st : Store) : Sparse Nat :=
  (badWords st key 0 64).foldl (fun m w =>
    if wordErr st key w = 1 || bits (mask >>> (8 * w)) 7 0 == 0xFF then tset 0 (64 * key + w) 0 m else m) st.ecc

/-- A row holds no error. -/
def clearRow (st : Store) (key : Nat) : Sparse Nat :=
  (badWords st key 0 64).foldl (fun m w => tset 0 (64 * key + w) 0 m) st.ecc

/-! ## Rows and ports -/

/-- A port of a block is used in this cycle (R66). -/
def notePort (b : Nat) (l : List Nat) : List Nat := if l.contains b then l else l ++ [b]

/-- Writes the masked bytes of a row through its block's write port (R65, R66, R78). -/
def writeRow (core key : Nat) (v : Row) (mask : Pred) (s : State) : State :=
  updStore core (fun st =>
    let old := tget 0 key st.rows
    { st with
      rows := tset 0 key (maskRow old v mask) st.rows
      ecc := healRow key mask st
      wrUsed := notePort (key / 768) st.wrUsed
      before := if st.before.any (·.1 == key) then st.before else st.before ++ [(key, old)] }) s

/-- Writes the masked bytes of an accumulator row (R78). -/
def writeAcc (core t r : Nat) (v : Row) (mask : Pred) (s : State) : State :=
  updStore core (fun st => { st with
    acc := tset 0 (128 * t + r) (maskRow (tget 0 (128 * t + r) st.acc) v mask) st.acc
    ecc := healRow (accKey t r) mask st }) s

/-- An error-log record of an SRAM error (R78, R79, R266): ADDR row and word, INFO the array. -/
def logSram (core key word kind : Nat) (s : State) : State :=
  let (array, row) := if key < 6144 then (0, key) else (1, key - 6144)
  let s := updMem (partOfCore s.dev core) (fun m =>
    { m with errCounts := tmod 0 (15 + kind) (· + 1) m.errCounts }) s
  logErr (partOfCore s.dev core) kind 0xFF (logCore s.dev core) 0 (64 * row + word) array s

/-- An uncorrectable error at a row (R79): its owner takes the trap, with which its task ends, as a boundary cause of
this cycle (R250, R253); a row without an owner is zeroed. -/
def sramUncorrectable (core key : Nat) (s : State) : State :=
  match rowOwner (coreOf s core) key with
  | some sl =>
    let id := ctxId core sl
    noteBoundary id
      { cause := 0x09, slot := sl, async := true, fetch := false, detail := 0
        va := bundleVa (ctxOf s id), syl := 15, val := key } s
  | none =>
    updStore core (fun st =>
      { st with
        rows := if key < 6144 then tset 0 key 0 st.rows else st.rows
        acc := if key < 6144 then st.acc else tset 0 (key - 6144) 0 st.acc
        owners := tset noOwner key noOwner st.owners
        ecc := clearRow st key }) s

/-- What a read of `n` words of a row from one does about the errors in them (R78, R79): each is counted and logged,
and an uncorrectable one is contained. -/
def readWords (core key lo n : Nat) (s : State) : State :=
  let st := (coreOf s core).st
  let bad := badWords st key lo n
  let s := bad.foldl (fun s w => logSram core key w (min 2 (wordErr st key w)) s) s
  if bad.any fun w => wordErr st key w != 1 then sramUncorrectable core key s else s

/-- What a read of a whole row does about errors. -/
def readCheck (core key : Nat) (s : State) : State := readWords core key 0 64 s

/-- A block's read port is used in this cycle (R66). -/
def useRead (core key : Nat) (s : State) : State :=
  updStore core (fun st => { st with rdUsed := notePort (key / 768) st.rdUsed }) s

/-- A block's write port is used in this cycle (R66). -/
def useWrite (core blk : Nat) (s : State) : State :=
  updStore core (fun st => { st with wrUsed := notePort blk st.wrUsed }) s

/-- What a read of whole rows does about errors. -/
def readChecks (core : Nat) (keys : List Nat) (s : State) : State := keys.foldl (fun s key => readCheck core key s) s

/-- A scratchpad row as it stood before the writes of this cycle (R66, R201). -/
def rowBefore (k : Core) (key : Nat) : Row :=
  match k.st.before.find? (·.1 == key) with
  | some x => x.2
  | none => rowAt k key

/-- Reads a scratchpad row through its block's read port, with its checks (R66, R78, R79). -/
def readRow (core key : Nat) (s : State) : Row × State :=
  (rowBefore (coreOf s core) key, useRead core key (readCheck core key s))

/-- Reads accumulator rows `r` to `r + n - 1` of a tile with their checks. -/
def readAccRows (core t r n : Nat) (s : State) : List Row × State :=
  ((List.range n).map fun i => accAt (coreOf s core) t (r + i),
   readChecks core ((List.range n).map fun i => accKey t (r + i)) s)

/-- The pair of a phase's expectations that lists a tile (R70, R71). -/
def expectTag (c : Ctx) (tile : Nat) : Option (BitVec 16) :=
  let e := tget 0 (64 * c.pos.buf.toNat + c.pos.entry.toNat) c.phtab
  let off := bits e 79 68
  let pairs := (List.range (bits e 86 80)).map fun i => tget 0 (off + i) c.expect
  if c.pos.inph then (pairs.find? fun p => bits p 31 22 == tile).map (·.extractLsb' 0 16) else none

/-- The first tile among those read that is listed, not yet compared, and carries another tag (R71). -/
def tagMismatch (k : Core) (c : Ctx) (tiles : List Nat) : Option Nat :=
  tiles.find? fun t =>
    match expectTag c t with
    | some tag => !c.compared.contains t && tagOf k t != tag
    | none => false

/-- The listed tiles among those read now count as compared (R71). -/
def noteCompared (tiles : List Nat) (c : Ctx) : Ctx :=
  let new := (tiles.filter fun t => (expectTag c t).isSome && !c.compared.contains t).eraseDups
  { c with compared := c.compared ++ new }

/-- A publication goes on its way (R69, R297): performed at the end of its cycle. -/
def publish (core at_ ord tile : Nat) (tag : BitVec 16) (s : State) : State :=
  updStore core (fun st => { st with pubs := st.pubs ++ [⟨at_, ord, tile, tag⟩] }) s

/-- A freed tile: rows zero, no owner, tag 0, whatever publication was under way (R68). -/
def freeTile (tile : Nat) (st : Store) : Store :=
  let rows := (List.range 8).map fun i => rowKey (tile / 96) (8 * (tile % 96) + i)
  { st with
    rows := rows.foldl (fun m r => tset 0 r 0 m) st.rows
    owners := rows.foldl (fun m r => tset noOwner r noOwner m) st.owners
    ecc := rows.foldl (fun m r => clearRow { st with ecc := m } r) st.ecc
    tags := tset 0 tile 0 st.tags
    pubs := st.pubs.filter (·.tile != tile)
    tileOwn := tset 0 tile 0 st.tileOwn }

end Sys2Proof.Machine
end

