-- ==== Sys2Proof/Machine/System.lean ====
section
/-! DEFINITION. The system registers (R16, R22, R24, R48, R70, R87, R90, R94, R96, R106 to R108, R140,
R254, R262, R343). -/

namespace Sys2Proof.Machine

/-- The context a system register number acts on (R254): in the supervisor, numbers 0x002 to 0x027 act
on the slot of TRAPC. -/
def sysCtx (s : State) (n : Nat) : Nat :=
  if isSuper s && 2 ≤ n && n ≤ 0x27 then ctxId s.core (eventSlot (curCore s).sup.trapc) else curId s

/-- LSTK (R262). -/
def lstkWord (c : Ctx) : W64 := BitVec.ofNat 64 (c.pos.calls.length * 2 ^ 8 + c.pos.loops.length)

/-- PHTSEL (R262). -/
def phtselWord (c : Ctx) : W64 :=
  BitVec.ofNat 64 (c.pos.clk % 2 ^ 32 * 2 ^ 32 + c.pos.sb.toNat * 2 ^ 15 + c.pos.snext.toNat * 2 ^ 8 +
    c.pos.buf.toNat * 2 ^ 7 + (if c.pos.inph then 2 ^ 6 else 0) + c.pos.entry.toNat)

/-- The value of a system register (R140). -/
def sysRead (s : State) (n : Nat) : W64 :=
  let c := ctxOf s (sysCtx s n)
  let u := (curCore s).sup
  if 0x10 ≤ n ∧ n ≤ 0x17 then (tget 0 (n - 0x10) c.ctl.fm).setWidth 64
  else if 0x24 ≤ n ∧ n ≤ 0x27 then c.ctl.sam.extractLsb' (64 * (n - 0x24)) 64
  else match n with
    | 0x000 => devid s.dev (curPart s)
    | 0x001 => BitVec.ofNat 64 s.slot
    | 0x002 => c.ctl.prio.setWidth 64
    | 0x008 => c.ctl.nbv.setWidth 64
    | 0x009 => c.ctl.flush.setWidth 64
    | 0x00A => c.ctl.rmode.setWidth 64
    | 0x00B => c.ctl.flags.setWidth 64
    | 0x00C => c.ctl.subst.setWidth 64
    | 0x020 => lstkWord c
    | 0x021 => phtselWord c
    | 0x022 => c.ctl.teb
    | 0x030 => u.trapc
    | 0x031 => u.trapa
    | 0x032 => u.trapv
    | _ => (partAt s (curPart s)).launch.lcb

/-- The register numbers only the supervisor reads (R140). -/
def sysReadPriv (n : Nat) : Bool := (0x30 ≤ n && n ≤ 0x32) || n == 0x40
/-- The register numbers only the supervisor writes (R140). -/
def sysWritePriv (n : Nat) : Bool :=
  n == 2 || n == 8 || (0x20 ≤ n && n ≤ 0x22) || (0x24 ≤ n && n ≤ 0x27) || (0x30 ≤ n && n ≤ 0x32) || n == 0x40

/-- SYSR (R343): sampled at issue, visible at t+n+2. -/
def execSysr (f : SSyl) (s : State) :=
  scalarStep (enc (.sysr f)) f (fun s => chk (!isSuper s && sysReadPriv f.sysNum) 0x03) (fun _ => [])
    (fun s => launchS f.d.toNat (sysRead s f.sysNum) false 2 s) s

/-- A write of a context's numeric or format register with the fields it accepts (R87, R90, R94, R96,
R106); a value 6 or 7 of RMODE stores 0. A write of NBV is taken where its whole 64 bits are 1 to 3 (R108: any other value
is ignored; R4 would have bits 63:8 ignored: DESIGN CHOICE, log 76). -/
def ctlWrite (n : Nat) (v : W64) (c : Ctl) : Ctl :=
  if 0x10 ≤ n ∧ n ≤ 0x17 then { c with fm := tset 0 (n - 0x10) (fmKept (v.setWidth 32)) c.fm }
  else if 0x24 ≤ n ∧ n ≤ 0x27 then
    let sh := 64 * (n - 0x24)
    let keep := c.sam &&& ~~~((BitVec.allOnes 64).setWidth 256 <<< sh)
    { c with sam := keep ||| (v.setWidth 256 <<< sh) }
  else match n with
    | 0x002 => { c with prio := v.setWidth 2 }
    | 0x008 => if 1 ≤ v.toNat ∧ v.toNat ≤ 3 then { c with nbv := v.setWidth 8 } else c
    | 0x009 => { c with flush := v.setWidth 3 }
    | 0x00A => { c with rmode := rmodeKept (v.setWidth 3) }
    | 0x00B => { c with flags := v.setWidth 6 }
    | 0x00C => { c with subst := v.setWidth 16 }
    | _ => c

/-- A SYSW (R343): the privilege check, a poisoned source, and the write. -/
def syswStep (e : Enc) (f : SSyl) (write : W64 → State → State) (s : State) :=
  scalarStep e f (fun s => chk (!isSuper s && sysWritePriv f.sysNum) 0x03)
    (fun s => chk (spois (cur s) f.a.toNat) 0x06) (fun s => write (sget (cur s) f.a.toNat) s) s

/-- A write of a control register: to another context at once, to the own context at the end of this
cycle, so that it affects the bundles of later cycles (R97, R107, R343). -/
def sysCtlWrite (n : Nat) (v : W64) (s : State) : State :=
  if sysCtx s n = curId s then updCur (launch .sys n (v.setWidth 4096) false 0 0 none 1) s
  else updCtx (sysCtx s n) (fun c => { c with ctl := ctlWrite n v c.ctl }) s

/-- SYSW of a register whose write is no step of its own (R140, R343): DEVID and CTXID ignore it, TRAPC
and TRAPV keep their zero fields (R254). -/
def execSysw (f : SSyl) (s : State) :=
  syswStep (enc (.sysw f)) f (fun v s =>
    match f.sysNum with
    | 0x000 => s
    | 0x001 => s
    | 0x030 => updCurCore (fun k =>
        { k with sup := { k.sup with trapc := trapcKept v } }) s
    | 0x032 => updCurCore (fun k =>
        { k with sup := { k.sup with trapv := trapvKept v } }) s
    | n => sysCtlWrite n v s) s

/-- SYSW of FLAGS (R107): lands in its own cycle, ORed with the flags of that cycle. -/
def execFlagsWrite (f : SSyl) (s : State) := syswStep (enc (.flagsWrite f)) f (sysCtlWrite 0x00B) s
/-- SYSW of NBV (R108): from 1 to NBVMAX, any other value is ignored. -/
def execNbvWrite (f : SSyl) (s : State) := syswStep (enc (.nbvWrite f)) f (sysCtlWrite 0x008) s
/-- SYSW of PRIO (R48): LVL of the slot of TRAPC; the aging count stands. -/
def execPrioWrite (f : SSyl) (s : State) := syswStep (enc (.prioWrite f)) f (sysCtlWrite 0x002) s

/-- A context is trapped; it still is when it has been husked so (R263). -/
def isTrapped (c : Ctx) : Bool :=
  match c.status with
  | .trapped _ _ => true
  | .husked _ _ => c.event.isSome
  | _ => false

/-- The clock of a context stands still until the supervisor lets it go on: it is trapped, or husked (R49, R251). -/
def isFrozen (c : Ctx) : Bool :=
  match c.status with
  | .trapped _ _ => true
  | .husked _ _ => true
  | _ => false

/-- SYSW of PHTSEL (R262, R332): only while the slot is trapped; SB and SNEXT, and PSV becomes 0. -/
def execPhtselWrite (f : SSyl) (s : State) :=
  syswStep (enc (.phtselWrite f)) f (fun v s =>
    updCtx (sysCtx s 0x021) (fun c =>
      if isTrapped c then
        { c with
          pos := { c.pos with sb := v.extractLsb' 15 1, snext := v.extractLsb' 8 6 }
          ctl := { c.ctl with psv := false } }
      else c) s) s

/-- SYSW of LSTK (R262): only while the slot is trapped; the depths may only be lowered. -/
def execLstkWrite (f : SSyl) (s : State) :=
  syswStep (enc (.lstkWrite f)) f (fun v s =>
    updCtx (sysCtx s 0x020) (fun c =>
      if isTrapped c then
        { c with pos := { c.pos with
            calls := c.pos.calls.drop (c.pos.calls.length - bits v 11 8)
            loops := c.pos.loops.drop (c.pos.loops.length - bits v 2 0) } }
      else c) s) s

/-- SYSW of TRAPA (R254): the bundle at which the context resumes. -/
def execTrapaWrite (f : SSyl) (s : State) :=
  syswStep (enc (.trapaWrite f)) f (fun v s =>
    updCurCore (fun k => { k with sup := { k.sup with trapa := trapaKept v } }) s) s

/-- The expectation pairs at an address as 32-bit words (R70). -/
def wordsOf : List Byte → List (BitVec 32)
  | a :: b :: c :: d :: r => BitVec.ofNat 32 (leNat [a, b, c, d]) :: wordsOf r
  | _ => []

/-- Fills an expectation store with the pairs at an address, the rest zero (R70): none on a fault. -/
def loadExpect (p id va nexp : Nat) (s : State) : Option State × State :=
  if nexp = 0 then (some (updCtx id (fun c => { c with expect := [] }) s), s)
  else
    match unitRead p va (4 * nexp) s with
    | (none, s) => (none, s)
    | (some bs, s) => (some (updCtx id (fun c => { c with expect := tsetAll 0 0 (wordsOf bs) [] }) s), s)

/-- NEXP of a slot's task header (R269). -/
def taskNexp (s : State) (id : Nat) : Nat :=
  match (ctxOf s id).task with
  | some t => ((taskOf s (partOfCore s.dev (id / 5)) t).map fun x => bits x.header 1311 1280).getD 0
  | none => 0

/-- SYSW of TEB (R70): reloads the slot's expectation store; on a fault TEB and the store stand and a
record of KIND 11 is logged. -/
def execTebWrite (f : SSyl) (s : State) :=
  syswStep (enc (.tebWrite f)) f (fun v s =>
    let id := sysCtx s 0x022
    let p := curPart s
    match loadExpect p id v.toNat (taskNexp s id) s with
    | (some s, _) => updCtx id (fun c => { c with ctl := { c.ctl with teb := v } }) s
    | (none, s) => logErr p 11 (id % 5) (logCore s.dev s.core) 0 v.toNat 0 s) s

end Sys2Proof.Machine
end

