-- ==== Sys2Proof/Machine/LoadStore.lean ====
section
/-! DEFINITION. Timed loads and stores (R62 to R66, R71, R223, R307 to R312, R340, R341), their row reads and
writes, and the landing of results (R52, R74, R107). -/

namespace Sys2Proof.Machine

/-- The address of an LD or SD syllable (R64): s[SB] + OFF without wrapping. -/
def lsAddr (f : LSyl) (c : Ctx) : Nat := (sget c f.sb.toNat).toNat + f.off.toNat

/-- Where an address lies (R64, R308, R340): in range, first row, rows touched, column, place in the row. -/
structure Place where
  ok : Bool
  row : Nat
  rows : Nat
  col : Nat
  sub : Nat
  deriving DecidableEq, Repr

/-- The address decoding of each kind (R64, R308, R340). -/
def placeOf (kind : LsKind) (am : Bool) (a : Nat) : Place :=
  match kind with
  | .pred => ⟨decide (a < 6144), a / 8, 1, 0, a % 8⟩
  | .word => ⟨decide (a < 49152), a / 64, 1, 0, a % 64⟩
  | .tag => ⟨decide (a ≤ 767), a, 1, 0, 0⟩
  | _ =>
    if am then ⟨decide (a < 16384) && decide (a % 1024 ≤ 752), a % 1024, 16, a / 1024, 0⟩
    else ⟨decide (a ≤ 767), a, 1, 0, 0⟩

/-- The tiles of a place in a block (R67). -/
def placeTiles (blk : Nat) (p : Place) : List Nat :=
  ((List.range p.rows).map fun i => tileOf blk (p.row + i)).eraseDups

/-- The place lies in the task's tiles (R68). -/
def placeMine (s : State) (blk : Nat) (p : Place) : Bool := rowsMine (curCore s) s.slot blk p.row p.rows

/-- The register file and number of a load or store (R128, R308, R340). -/
def lsReg (kind : LsKind) (f : LSyl) : RegFile × Nat :=
  match kind with
  | .word => (.scalar, 32 * f.cl.toNat + f.d.toNat)
  | .tag => (.scalar, 32 * f.cl.toNat + f.d.toNat)
  | .pred => (if f.cl = 0 then .pa else .pb, f.d.toNat % 8)
  | _ => (if f.cl = 0 then .va else .vb, f.d.toNat)

/-- The load a syllable issues (R62). -/
def mkLoad (kind : LsKind) (spec : Bool) (f : LSyl) (p : Place) (c : Ctx) : LoadOp :=
  let (file, reg) := lsReg kind f
  let h := hops true f.blk.toNat f.lane.toNat (fileStation file)
  { kind := kind, file := file, reg := reg, blk := f.blk.toNat, row := p.row, col := p.col, am := f.am == 1
    sub := p.sub, lane := f.lane.toNat, hop := h, spec := spec, read := c.pos.clk + 2
    land := c.pos.clk + 3 + h, data := none, seq := c.fly.seq }

/-- A timed load in flight. -/
def startLoad (l : LoadOp) (c : Ctx) : Ctx :=
  { c with fly := { c.fly with loads := c.fly.loads ++ [l], seq := c.fly.seq + 1 } }

/-- A raise that names an address or number (R254). -/
def chkVal (b : Bool) (cause val : Nat) : List Raise := if b then [⟨cause, 0, val⟩] else []

/-- An LD-slot instruction (R307 to R312): `sp` for the speculative forms, `timed` for those R71 compares. -/
def loadStep (e : Enc) (kind : LsKind) (sp cmp : Bool) (f : LSyl) (s : State) :
    Host.Outcome State Fault Refusal :=
  let c := cur s
  let a := lsAddr f c
  let p := placeOf kind (f.am == 1) a
  let pois := spois c f.sb.toNat
  let bad := !p.ok || !placeMine s f.blk.toNat p
  let spec := sp && (pois || bad)
  let l := mkLoad kind spec f p c
  let tiles := if cmp && !spec && !bad then placeTiles f.blk.toNat p else []
  let miss := tagMismatch (curCore s) c tiles
  syllableStep .ld
    (encRaises e ++ chk (!sp && pois) 0x06 ++ chkVal (!sp && bad) 0x08 a ++
      (match miss with | some t => [⟨0x05, 0, t⟩] | none => []) ++
      chk (conflicts (loadClaims c.pos.clk l) (claims s s.core s.slot)) 0x0E)
    (updCur fun c => startLoad l (noteCompared tiles c)) s

/-- LD (R308). -/
def execLd (f : LSyl) (s : State) := loadStep (enc (.ld f)) .vec false true f s
/-- LD.sp (R312). -/
def execLdSp (f : LSyl) (s : State) := loadStep (enc (.ldSp f)) .vec true true f s
/-- LDC (R309). -/
def execLdc (f : LSyl) (s : State) := loadStep (enc (.ldc f)) .pred false true f s
/-- LDS (R310). -/
def execLds (f : LSyl) (s : State) := loadStep (enc (.lds f)) .word false true f s
/-- LDS.sp (R312). -/
def execLdsSp (f : LSyl) (s : State) := loadStep (enc (.ldsSp f)) .word true true f s
/-- LDT (R311). -/
def execLdt (f : LSyl) (s : State) := loadStep (enc (.ldt f)) .tag false false f s

/-! ## Stores -/

/-- The poison bit a register will hold in the next cycle (R340): that of the last result landing in this
one, else its own. -/
def poisNext (file : RegFile) (reg : Nat) (now : Bool) (c : Ctx) : Bool :=
  let fl := (c.fly.flights.filter fun f => f.file == file && f.reg == reg && f.land == c.pos.clk).map
    fun f => (f.seq, f.pois)
  let ld := (c.fly.loads.filter fun l => l.file == file && l.reg == reg && l.land == c.pos.clk).map
    fun l => (l.seq, l.spec)
  match (fl ++ ld).foldl (fun (b : Option (Nat × Bool)) x =>
      match b with
      | some y => if y.1 ≤ x.1 then some x else some y
      | none => some x) none with
  | some x => x.2
  | none => now

/-- The poison of a store's source register (R225, R340). -/
def dataPois (kind : LsKind) (f : LSyl) (c : Ctx) : Bool :=
  let (file, reg) := lsReg kind f
  match kind with
  | .zero => false
  | .vec => poisNext file reg (c.regs.vPois.getLsbD (32 * f.cl.toNat + reg)) c
  | .pred => reg != 0 && poisNext file reg (ppois c (8 * f.cl.toNat + reg)) c
  | _ => reg != 0 && poisNext file reg (spois c reg) c

/-- The kind uses a store mask (R340). -/
def masked : LsKind → Bool
  | .word => false
  | .tag => false
  | _ => true

/-- The poison of a store's mask (R225, R340). -/
def maskPois (kind : LsKind) (f : LSyl) (c : Ctx) : Bool :=
  masked kind && f.p != 0 &&
    poisNext (if f.cl = 0 then .pa else .pb) f.p.toNat (ppois c (8 * f.cl.toNat + f.p.toNat)) c

/-- The store a syllable issues (R62); its data and mask are read in the next cycle. -/
def mkStore (kind : LsKind) (f : LSyl) (p : Place) (c : Ctx) : StoreOp :=
  let (file, reg) := lsReg kind f
  let h := hops false f.blk.toNat f.lane.toNat (fileStation file)
  { kind := kind, file := file, reg := reg, mask := f.p.toNat, blk := f.blk.toNat, row := p.row
    col := p.col, am := f.am == 1, sub := p.sub, lane := f.lane.toNat, hop := h
    write := c.pos.clk + 2 + h, data := none, seq := c.fly.seq }

/-- A timed store in flight. -/
def startStore (w : StoreOp) (c : Ctx) : Ctx :=
  { c with fly := { c.fly with stores := c.fly.stores ++ [w], seq := c.fly.seq + 1 } }

/-- An SD-slot instruction (R340, R341). -/
def storeStep (e : Enc) (kind : LsKind) (f : LSyl) (s : State) : Host.Outcome State Fault Refusal :=
  let c := cur s
  let a := lsAddr f c
  let p := placeOf kind (f.am == 1) a
  let w := mkStore kind f p c
  syllableStep .sd
    (encRaises e ++
      chk (spois c f.sb.toNat || dataPois kind f c || maskPois kind f c) 0x06 ++
      chkVal (!p.ok || !placeMine s f.blk.toNat p) 0x08 a ++
      chk (conflicts (storeClaims c.pos.clk w) (claims s s.core s.slot)) 0x0E)
    (updCur (startStore w)) s

/-- ST (R340). -/
def execSt (f : LSyl) (s : State) := storeStep (enc (.st f)) .vec f s
/-- STC (R340). -/
def execStc (f : LSyl) (s : State) := storeStep (enc (.stc f)) .pred f s
/-- STS (R340). -/
def execSts (f : LSyl) (s : State) := storeStep (enc (.sts f)) .word f s
/-- STT (R341). -/
def execStt (f : LSyl) (s : State) := storeStep (enc (.stt f)) .tag f s
/-- STZ (R340). -/
def execStz (f : LSyl) (s : State) := storeStep (enc (.stz f)) .zero f s

/-- The data and byte mask of a store as the registers stand (R340): for a vector in register order, for
the others in row order. -/
def storeData (w : StoreOp) (c : Ctx) : Row × Pred :=
  let cl := if landFile w.file = 1 then 1 else 0
  let m := pget c (8 * cl + w.mask)
  match w.kind with
  | .vec => (vget c (32 * cl + w.reg), m)
  | .zero => (0, m)
  | .pred => ((pget c (8 * cl + w.reg)).setWidth 4096 <<< (512 * w.sub), byteMask (64 * w.sub) 64 &&& m)
  | .word => ((sget c w.reg).setWidth 4096 <<< (64 * w.sub), byteMask (8 * w.sub) 8)
  | .tag => ((sget c w.reg).setWidth 4096, 0)

/-- Stores that have not read their registers read them now (t+n+1). -/
def captureStores (c : Ctx) : Ctx :=
  { c with fly := { c.fly with stores := c.fly.stores.map fun w =>
      match w.data with
      | some _ => w
      | none => { w with data := some (storeData w c) } } }

/-! ## Row reads and writes -/

/-- A context's bundle has issued in this cycle. -/
def issuedNow (s : State) (id : Nat) : Bool :=
  let k := coreOf s (id / 5)
  k.issuedAt == now s + 1 && k.issuedBy == id % 5

/-- The element of a list with the least key. -/
def leastBy {α : Type} (key : α → Nat) : List α → Option α
  | [] => none
  | x :: xs =>
    match leastBy key xs with
    | none => some x
    | some y => if key x ≤ key y then some x else some y

/-- The data a load takes from its rows (R65, R308, R309): in column mode the four words of each row's bank word. -/
def loadData (s : State) (core : Nat) (l : LoadOp) : Row × State :=
  match l.kind with
  | .tag => ((tagOf (coreOf s core) (tileOf l.blk l.row)).setWidth 4096, useRead core (rowKey l.blk 0) s)
  | _ =>
    if l.am then
      let keys := (List.range 16).map fun i => rowKey l.blk (l.row + i)
      let k := coreOf s core
      (rowOf 256 (keys.map fun q => elemAt 256 (rowBefore k q) l.col),
       useRead core (rowKey l.blk l.row) (keys.foldl (fun s q => readWords core q (4 * l.col) 4 s) s))
    else
      let (r, s) := readRow core (rowKey l.blk l.row) s
      match l.kind with
      | .pred => (BitVec.ofNat 4096 (elemAt 512 r l.sub), s)
      | .word => (BitVec.ofNat 4096 (elemAt 64 r l.sub), s)
      | _ => (r, s)

/-- The next load whose row read is due (R62). -/
def dueRead (c : Ctx) : Option LoadOp :=
  leastBy (·.seq) (c.fly.loads.filter fun l => l.data.isNone && decide (l.read < c.pos.clk))

/-- TIMED_LOAD_ROW_READ (R62): a load due reads its row; a speculative one that reads none takes zero, and its block's
port all the same (R66). -/
def execTimedLoadRowRead (cid : Nat) (s : State) : Host.Outcome State Fault Refusal :=
  match dueRead (ctxOf s cid) with
  | none => .next s
  | some l =>
    let (d, s') := if l.spec then ((0 : Row), useRead (cid / 5) (rowKey l.blk 0) s) else loadData s (cid / 5) l
    .next (updCtx cid (fun c => { c with fly := { c.fly with
      loads := c.fly.loads.map fun x => if x.seq = l.seq then { x with data := some d } else x } }) s')

/-- The next store whose row write is due (R62). -/
def dueWrite (s : State) (cid : Nat) : Option StoreOp :=
  leastBy (·.seq) ((ctxOf s cid).fly.stores.filter fun w => decide (w.write < (ctxOf s cid).pos.clk))

/-- A store's write (R65, R340, R341): a row, sixteen column words, or a tag. -/
def performStore (core : Nat) (w : StoreOp) (d : Row × Pred) (s : State) : State :=
  match w.kind with
  | .tag => publish core (now s) 3 (tileOf w.blk w.row) (d.1.setWidth 16) (useWrite core w.blk s)
  | _ =>
    if w.am then
      (List.range 16).foldl (fun s i =>
        writeRow core (rowKey w.blk (w.row + i))
          (BitVec.ofNat 4096 (elemAt 256 d.1 i) <<< (256 * w.col))
          (BitVec.ofNat 512 (bits d.2 (32 * i + 31) (32 * i)) <<< (32 * w.col)) s) s
    else writeRow core (rowKey w.blk w.row) d.1 d.2 s

/-- The updates that wait for a timed store (R212): none is applied before the next cycle. -/
def noteStoreDone (cid seq : Nat) (s : State) : State :=
  updCore (cid / 5) (fun k => { k with semq := k.semq.map fun u =>
    if u.slot = cid % 5 ∧ u.stores.contains seq then
      { u with stores := u.stores.filter (· != seq), due := max u.due (now s + 1) }
    else u }) s

/-- TIMED_STORE_ROW_WRITE (R62). -/
def execTimedStoreRowWrite (cid : Nat) (s : State) : Host.Outcome State Fault Refusal :=
  match dueWrite s cid with
  | none => .next s
  | some w =>
    let d := match w.data with
      | some d => d
      | none => storeData w (ctxOf s cid)
    let s := updCtx cid (fun c => { c with fly := { c.fly with
      stores := c.fly.stores.filter fun x => x.seq != w.seq } }) s
    .next (performStore (cid / 5) w d (noteStoreDone cid w.seq s))

/-! ## Landings -/

/-- The bypass register of a load (R74): b4 for a vector. -/
def loadByp (l : LoadOp) : Option Nat :=
  match l.kind with
  | .vec => some (8 * landFile l.file + 4)
  | _ => none

/-- The landing of a load. -/
def loadFlight (l : LoadOp) : Flight :=
  { file := l.file, reg := l.reg, val := l.data.getD 0, pois := l.spec, flags := 0, subst := 0
    byp := loadByp l, land := l.land, slow := false, seq := l.seq }

/-- A result lands (R74, R107, R222): its register with its poison, its bypass, its flags. -/
def applyFlight (f : Flight) (c : Ctx) : Ctx :=
  let r := c.regs
  let r := match f.file with
    | .scalar => sput f.reg (f.val.setWidth 64) f.pois r
    | .va => vput f.reg f.val f.pois r
    | .vb => vput (32 + f.reg) f.val f.pois r
    | .pa => pput f.reg (f.val.setWidth 512) f.pois r
    | .pb => pput (8 + f.reg) (f.val.setWidth 512) f.pois r
    | .guard => gput f.reg (f.val.getLsbD 0) r
    | .sys => r
  let r := match f.byp with
    | some k => { r with byp := tset 0 k f.val r.byp, bypPois := setBit r.bypPois k f.pois }
    | none => r
  let ctl := if f.file = .sys then ctlWrite f.reg (f.val.setWidth 64) c.ctl else c.ctl
  { c with
    regs := r
    ctl := { ctl with flags := ctl.flags ||| f.flags, subst := ctl.subst ||| f.subst } }

/-- The next landing due (R74): the earliest, a SYSW's own write before the flags it is ORed with (R107),
then in issue order. -/
def dueLanding (c : Ctx) : Option Flight :=
  let due := (c.fly.flights.filter fun f => decide (f.land < c.pos.clk)) ++
    ((c.fly.loads.filter fun l => l.data.isSome && decide (l.land < c.pos.clk)).map loadFlight)
  leastBy (fun f => (f.land * 2 + (if f.file = .sys then 0 else 1)) * 2 ^ 64 + f.seq) due

/-- A landed result leaves the pipelines. -/
def removeFlight (q : Nat) (c : Ctx) : Ctx :=
  { c with fly := { c.fly with
      flights := c.fly.flights.filter fun f => f.seq != q
      loads := c.fly.loads.filter fun l => l.seq != q } }

/-- RESULT_LANDING (R74). -/
def execResultLanding (cid : Nat) (s : State) : Host.Outcome State Fault Refusal :=
  match dueLanding (ctxOf s cid) with
  | none => .next s
  | some f => .next (updCtx cid (fun c => applyFlight f (removeFlight f.seq c)) s)

/-- The next tile answer due (R52). -/
def dueTile (c : Ctx) : Option TileReq := c.fly.tiles.find? fun t => decide (t.land < c.pos.clk)

/-- TILE_LANDING (R52). -/
def execTileLanding (cid : Nat) (s : State) : Host.Outcome State Fault Refusal :=
  match dueTile (ctxOf s cid) with
  | none => .next s
  | some t =>
    .next (updCtx cid (fun c =>
      { c with
        regs := { c.regs with tl := tset 0 t.reg t.val c.regs.tl }
        fly := { c.fly with tiles := c.fly.tiles.erase t } }) s)

end Sys2Proof.Machine
end

