-- ==== Sys2Proof/Machine/Semaphore.lean ====
section
/-! DEFINITION. Semaphores (R73, R210 to R214, R336 to R338): the waits and updates of the SY slot, and the
application of updates. -/

namespace Sys2Proof.Machine

/-- The raise of a reason recorded against a semaphore (R214, R265). -/
def reasonRaise (c : Ctx) (idx : Nat) : List Raise :=
  let r := tget 0 idx c.reasons
  if r = 0 then [] else [⟨reasonCause r, r, idx⟩]

/-- The context waits at its sill point: the bundle does not issue and the selector is invoked; the
context keeps the issue slot if it is ready in the next cycle (R45, R47). -/
def stall (w : Wait) (s : State) : State :=
  invoke s.core s.slot 7 (updCur (fun c => { c with status := .waiting w false }) s)

/-- An SY instruction that may have to wait (R45, R337, R331): the timing fault outside a sill point. -/
def waitStep (e : Enc) (f : YSyl) (raises : List Raise) (ok : Bool) (w : Wait) (eff : State → State)
    (s : State) : Host.Outcome State Fault Refusal :=
  syllableStep .sy (encRaises e ++ raises ++ chk (!ok && f.sill == 0) 0x04)
    (fun s => if ok then eff s else stall w s) s

/-- SWAIT (R337): with STORE ≠ 0 the bundle's issue is the acquire (R207). -/
def execSwait (f : YSyl) (s : State) : Host.Outcome State Fault Refusal :=
  let c := cur s
  let i := f.idx.toNat
  waitStep (enc (.swait f)) f (chk (!semMine c i) 0x08 ++ reasonRaise c i)
    (semOk (curCore s) i f.val.toNat || tget 0 i c.reasons != 0) (.sem i f.val.toNat)
    (fun s => acquire (curPart s) f.agent.toNat f.store s) s

/-- An update of the SY slot (R336): its checks, and the update on its way. -/
def updateStep (e : Enc) (f : YSyl) (raises : List Raise) (op : SemOp) (s : State) :
    Host.Outcome State Fault Refusal :=
  syllableStep .sy (encRaises e ++ chk (!semMine (cur s) f.idx.toNat) 0x08 ++ raises)
    (sendUpdate f.idx.toNat op f.agent.toNat f.store) s

/-- The SFAA and SCAS results a context has outstanding, from issue to landing (R252, R338). -/
def semResults (s : State) (id : Nat) : Nat :=
  ((coreOf s (id / 5)).semq.filter fun u => u.slot == id % 5 &&
    (match u.op with | .fetchAdd _ _ => true | .cas _ _ _ => true | _ => false)).length +
  ((ctxOf s id).fly.flights.filter fun f => f.slow).length

/-- SSIG (R336). -/
def execSsig (f : YSyl) (s : State) := updateStep (enc (.ssig f)) f [] (.add f.val.toNat) s
/-- SSET (R336). -/
def execSset (f : YSyl) (s : State) :=
  updateStep (enc (.sset f)) f (chk (spois (cur s) f.sc.toNat) 0x06)
    (.set ((sget (cur s) f.sc.toNat).setWidth 16)) s
/-- SFAA (R336, R338): it does not read s[C]. -/
def execSfaa (f : YSyl) (s : State) :=
  updateStep (enc (.sfaa f)) f (chk (decide (semResults s (curId s) ≥ 2)) 0x04)
    (.fetchAdd f.val.toNat f.sc.toNat) s
/-- SCAS (R338). -/
def execScas (f : YSyl) (s : State) :=
  let v := sget (cur s) f.sc.toNat
  updateStep (enc (.scas f)) f
    (chk (spois (cur s) f.sc.toNat) 0x06 ++ chk (decide (semResults s (curId s) ≥ 2)) 0x04)
    (.cas (v.extractLsb' 0 16) (v.extractLsb' 16 16) f.sc.toNat) s

/-- The order of R212 among the updates of one cycle. -/
def semOrder (s : State) (u : SemUpd) : Nat :=
  match u.src with
  | .sy => 0
  | .mEngine => 1
  | .cpEngine sl => 2 + sl
  | .gateway c => 10 + logCore s.dev c
  | .doorbell k => 1000 + k

/-- A doorbell's update, which comes after every other of its cycle (R212). -/
def SemUpd.isBridge (u : SemUpd) : Bool :=
  match u.src with
  | .doorbell _ => true
  | _ => false

/-- The first in order of a core's updates that are due: of those of bridges, or of the others (R212). -/
def firstDue (s : State) (core : Nat) (bridge : Bool) : Option SemUpd :=
  leastBy (semOrder s) ((coreOf s core).semq.filter fun u =>
    u.isBridge == bridge && decide (u.due ≤ now s) && u.rel.isEmpty && u.stores.isEmpty)

/-- The next update of a core that is due (R212). -/
def dueUpdate (s : State) (core : Nat) : Option SemUpd := firstDue s core false

/-- The syllable an update came from (R254; DEDUCED, log 14). -/
def srcSyl : SemSrc → Nat
  | .sy => 7
  | .mEngine => 5
  | .cpEngine _ => 6
  | _ => 15

/-- The reason recorded against the wait of a PEND whose member waits in its transom (R214, R398). -/
def pendCause (id : Nat) (c : Ctx) : List Event :=
  if c.status == .transom false then
    (reasonRaise c c.pos.pend.1).map fun r =>
      { cause := r.cause, slot := id % 5, async := true, fetch := false, detail := r.detail, va := bundleVa c, syl := 7
        val := r.val }
  else []

/-- The boundary cause a context takes (R250): the first in order; the task-graph unit ends the task of one that takes an
uncorrectable memory error (R79). -/
def boundaryTrap (id : Nat) (s : State) : State :=
  let c := ctxOf s id
  if isFrozen c || c.status == .unbound then s
  else
    match leastBy (fun e => boundaryRank e.cause) (c.boundary ++ pendCause id c) with
    | none => s
    | some e =>
      let s := if e.cause = 0x09 then killByTrap id (bundleVa c) 0x09 s else s
      takeTrap id { e with va := bundleVa c } s

/-- The result of an SFAA whose add overflows lands before the trap (R213), unless the clock stands still. -/
def landBeforeTrap (u : SemUpd) (c : Ctx) : Ctx :=
  match u.op, c.fly.flights.find? (fun f => f.slow && f.seq == u.seq) with
  | .fetchAdd _ _, some f => if isFrozen c then c else applyFlight f (removeFlight f.seq c)
  | _, _ => c

/-- An update past 0xFFFF is not applied (R213): its context takes the semaphore-overflow trap before the bundle it
would issue in this cycle, or a record of KIND 8 is logged. -/
def semOverflow (core : Nat) (u : SemUpd) (s : State) : State :=
  let p := partOfCore s.dev core
  match u.src with
  | .gateway _ => logErr p 8 0xFF (logCore s.dev core) 0 0 u.idx (countErr p 8 s)
  | .doorbell k => logErr p 8 0xFF (logCore s.dev core) k 0 u.idx (countErr p 8 s)
  | _ =>
    let id := ctxId core u.slot
    boundaryTrap id (noteBoundary id
      { cause := 0x0B, slot := u.slot, async := true, fetch := false, detail := 0
        va := bundleVa (ctxOf s id), syl := srcSyl u.src, val := u.idx } (updCtx id (landBeforeTrap u) s))

/-- An increment of a semaphore with its overflow check (R213); one of 0 applies and checks nothing, and
sm0 discards every update (R211). -/
def semAdd (core : Nat) (u : SemUpd) (n : Nat) (s : State) : State :=
  let v := (semGet (coreOf s core) u.idx).toNat
  if u.idx = 0 ∨ n = 0 then s
  else if v + n > 0xFFFF then semOverflow core u s
  else updCore core (semPut u.idx (BitVec.ofNat 16 (v + n))) s

/-- The result of an SFAA or SCAS lands in the cycle of application, whose bundle has still to issue, or for a context
whose clock stands still in the first resumed cycle from its scheduled one (R212, R251). -/
def landSem (core : Nat) (u : SemUpd) (reg : Nat) (v : BitVec 16) (s : State) : State :=
  let id := ctxId core u.slot
  updCtx id (fun c =>
    let f : Flight :=
      { file := .scalar, reg := reg, val := v.setWidth 4096, pois := false, flags := 0, subst := 0
        byp := none, land := max c.pos.clk u.sched, slow := true, seq := u.seq }
    { c with fly := { c.fly with flights := c.fly.flights ++ [f] } }) s

/-- An update applied (R212, R336, R338): SFAA and SCAS read the value just before. -/
def applyUpdate (core : Nat) (u : SemUpd) (s : State) : State :=
  let v := semGet (coreOf s core) u.idx
  match u.op with
  | .add n => semAdd core u n s
  | .set x => updCore core (semPut u.idx x) s
  | .fetchAdd n reg => semAdd core u n (landSem core u reg v s)
  | .cas e w reg =>
    landSem core u reg v (if v = e then updCore core (semPut u.idx w) s else s)

/-- An update leaves the queue and is applied. -/
def takeUpdate (core : Nat) (u : SemUpd) (s : State) : State :=
  applyUpdate core u (updCore core (fun k => { k with semq := k.semq.filter fun x => x.id != u.id }) s)

/-- SEMAPHORE_UPDATE_APPLY (R212). -/
def execSemaphoreUpdateApply (core : Nat) (s : State) : Host.Outcome State Fault Refusal :=
  match dueUpdate s core with
  | none => .next s
  | some u => .next (takeUpdate core u s)

/-- The updates of bridges that are due, at most `n`, in ascending doorbell number (R212, R239). -/
def takeBridges (core : Nat) : Nat → State → State
  | 0, s => s
  | n + 1, s =>
    match firstDue s core true with
    | none => s
    | some u => takeBridges core n (takeUpdate core u s)

end Sys2Proof.Machine
end

