-- ==== Sys2Proof/Machine/Phaser.lean ====
section
/-! DEFINITION. Phasers (R217 to R220, R330, R331): the sync engine's operations and the instructions. -/

namespace Sys2Proof.Machine

/-- The advance of R219: when every counted signaller has arrived. -/
def tryAdvance (x : Phaser) : Phaser :=
  if x.arr ≥ 1 ∧ x.arr = x.nsig then
    { x with cnt := x.cnt + 1, nsig := x.nsig - x.drops, arr := 0, drops := 0 }
  else x

/-- A member record changed. -/
def updMember (id : Nat) (f : BitVec 2 × BitVec 32 × BitVec 32 → BitVec 2 × BitVec 32 × BitVec 32)
    (x : Phaser) : Phaser :=
  { x with members := x.members.map fun m => if m.1 = id then (m.1, f m.2) else m }

/-- The sync engine applies one operation (R219). -/
def phApply (o : PhOp) (s : State) : State :=
  let x := phaserOf s o.ph
  match o.op with
  | .reg m =>
    let others := x.members.filter fun y => y.1 != o.id
    setPhaser o.ph
      { x with
        nsig := if m = 2 then x.nsig else x.nsig + 1
        members := others ++ [(o.id, m, x.cnt, x.cnt)] } s
  | .arrive =>
    setPhaser o.ph
      (tryAdvance (updMember o.id (fun m => (m.1, m.2.1 + 1, m.2.2)) { x with arr := x.arr + 1 })) s
  | .drop =>
    match memberOf s o.id o.ph with
    | none => s
    | some m =>
      let x' := { x with members := x.members.filter fun y => y.1 != o.id }
      let x' :=
        if m.1 = 2 then x'
        else if m.2.1 = x.cnt then tryAdvance { x' with nsig := x'.nsig - 1 }
        else { x' with drops := x'.drops + 1 }
      setPhaser o.ph x' s

/-- An operation leaves its context: applied at once, or behind the context's earlier ones and the releases it waits for,
which the end of the cycle looks at (R207, R218). -/
def phSend (o : PhOp) (s : State) : State :=
  if ((coreOf s (o.id / 5)).phq.any (·.id == o.id)) || !o.rel.isEmpty then
    updCore (o.id / 5) (fun k => { k with phq := k.phq ++ [o] }) s
  else phApply o s

/-- A satisfied wait counts (R219): WPH := WPH + 1. -/
def phWaited (id ph : Nat) (s : State) : State :=
  setPhaser ph (updMember id (fun m => (m.1, m.2.1, m.2.2 + 1)) (phaserOf s ph)) s

/-- The phaser a handle names (R217). -/
def phNum (v : W64) : Nat := bits v 9 0

/-- The mode under which a context is a member, by its own table (R217). -/
def modeIn (c : Ctx) (ph : Nat) : Option (BitVec 2) := (c.phasers.find? fun m => m.1 == ph).map (·.2)

/-- The checks every phaser instruction makes on its handle (R218, R330). -/
def handleRaises (f : YSyl) (s : State) : List Raise :=
  let c := cur s
  let v := sget c f.sc.toNat
  chk (spois c f.sc.toNat) 0x06 ++
    chk (nzBits v 63 10 || (phaserOf s (phNum v)).owner != some (curPart s)) 0x08

/-- The handle in s[C]. -/
def handle (f : YSyl) (s : State) : Nat := phNum (sget (cur s) f.sc.toNat)

/-- The release of an arrival and the fences in force (R207, R209). -/
def arrivalRel (f : YSyl) (s : State) : List Release :=
  (if f.store = 0 then [] else [releaseNow s (curId s) f.agent.toNat f.store]) ++ (cur s).fences

/-- PHREG (R218, R219). -/
def execPhreg (f : YSyl) (s : State) : Host.Outcome State Fault Refusal :=
  let ph := handle f s
  let mode := f.imm.extractLsb' 0 2
  syllableStep .sy
    (encRaises (enc (.phreg f)) ++ handleRaises f s ++
      chk ((modeIn (cur s) ph).isSome || decide ((cur s).phasers.length ≥ 8)) 0x01)
    (fun s => phSend { id := curId s, ph := ph, op := .reg mode, rel := [] }
      (updCur (fun c => { c with phasers := c.phasers ++ [(ph, mode)] }) s)) s

/-- PHDRP (R218, R219). -/
def execPhdrp (f : YSyl) (s : State) : Host.Outcome State Fault Refusal :=
  let ph := handle f s
  syllableStep .sy
    (encRaises (enc (.phdrp f)) ++ handleRaises f s ++ chk (modeIn (cur s) ph).isNone 0x01)
    (fun s => phSend { id := curId s, ph := ph, op := .drop, rel := [] }
      (updCur (fun c => { c with phasers := c.phasers.filter fun m => m.1 != ph }) s)) s

/-- PHARV (R219, R331): held while the member has already arrived for the open phase. -/
def execPharv (f : YSyl) (s : State) : Host.Outcome State Fault Refusal :=
  let ph := handle f s
  let m := modeIn (cur s) ph
  waitStep (enc (.pharv f)) f (handleRaises f s ++ chk (m.isNone || m == some 2) 0x01)
    (arriveOk s (curId s) ph) (.arrive ph)
    (fun s => phSend { id := curId s, ph := ph, op := .arrive, rel := arrivalRel f s } s) s

/-- The wait of PHWT and PHAW, with what its satisfaction acquires. -/
def phWait (f : YSyl) (s : State) : Wait := .phase (handle f s) f.agent.toNat f.store (cur s).pos.pc

/-- PHWT (R219, R331): with STORE ≠ 0 the bundle's issue is the acquire (R207). -/
def execPhwt (f : YSyl) (s : State) : Host.Outcome State Fault Refusal :=
  let ph := handle f s
  let m := modeIn (cur s) ph
  waitStep (enc (.phwt f)) f (handleRaises f s ++ chk (m.isNone || m == some 1) 0x01)
    (phaseOk s (curId s) ph) (phWait f s)
    (fun s => phWaited (curId s) ph (acquire (curPart s) f.agent.toNat f.store s)) s

/-- PHAW (R219, R331): it issues once its arrival can proceed; its wait then holds the context at that sill
point, and acquires once more when it is satisfied (R208; DEDUCED, log 75). Outside a sill point, an unsatisfied wait is the timing
fault (R45). -/
def execPhaw (f : YSyl) (s : State) : Host.Outcome State Fault Refusal :=
  let ph := handle f s
  let m := modeIn (cur s) ph
  let id := curId s
  let ok := phaseOk s id ph
  waitStep (enc (.phaw f)) f
    (handleRaises f s ++ chk (m != some 3) 0x01 ++ chk (!ok && f.sill == 0) 0x04)
    (arriveOk s id ph) (.arrive ph)
    (fun s =>
      let s := phSend { id := id, ph := ph, op := .arrive, rel := arrivalRel f s } s
      let s := acquire (curPart s) f.agent.toNat f.store s
      if ok then phWaited id ph s
      else invoke s.core 7 7 (updCur (fun c => { c with status := .waiting (phWait f s) true }) s)) s

/-- PHASER_VIEW_UPDATE (R219): an advance reaches a member core's view. -/
def execPhaserViewUpdate (core ph : Nat) (s : State) : Host.Outcome State Fault Refusal :=
  .next (updCore core (fun k => { k with phView := tset 0 ph (phaserOf s ph).cnt k.phView }) s)

end Sys2Proof.Machine
end

