-- ==== Sys2Proof/Machine/Phase.lean ====
section
/-! DEFINITION. Phases, the latch tree and the selector's choice (R37 to R47, R221, R327, R328, R332, R344,
R374), FENCE (R209, R303), the hints (R121, R133, R305), and the syllables that do nothing. -/

namespace Sys2Proof.Machine

/-- NOP (R121). -/
def execNop (sl : Slot) (w : BitVec 96) (s : State) : Host.Outcome State Fault Refusal :=
  syllableStep sl (encRaises (enc (.nop sl w))) id s

/-- A hint region opcode (R133) acts as a NOP, and no field of it is checked. -/
def execHintRegion (_ : Slot) (_ : BitVec 96) (s : State) : Host.Outcome State Fault Refusal := .next s

/-- An opcode that is not assigned (R133). -/
def execIllegalOpcode (sl : Slot) (w : BitVec 96) (s : State) : Host.Outcome State Fault Refusal :=
  syllableStep sl (encRaises (enc (.illegalOpcode sl w))) id s

/-- HINT (R305): recorded with its CCN while tracing is enabled. -/
def execHint (f : YSyl) (s : State) : Host.Outcome State Fault Refusal :=
  syllableStep .sy (encRaises (enc (.hint f)))
    (fun s => updHost (curPart s) (fun h =>
      if h.traceOn then { h with trace := h.trace ++ [(bits f.imm 3 0, f.val.toNat, (ccnWord s).toNat)] } else h) s) s

/-- A FENCE holds the CP command of its own bundle too, and every later one (R209, R303): what the bundle's MDRC hands to
the CP queue as well (R202). -/
def fenceCmds (r : Release) (s : State) : State :=
  updCurCore (fun k => { k with
    mq := k.mq.map fun m => if m.slot = s.slot ∧ m.issued = now s then { m with fences := m.fences ++ [r] } else m
    cq := k.cq.map fun q =>
    if q.slot = s.slot ∧ q.stage = .queued ∧ q.wake = now s then { q with fences := q.fences ++ [r] } else q }) s

/-- FENCE (R209, R303). -/
def execFence (f : YSyl) (s : State) : Host.Outcome State Fault Refusal :=
  syllableStep .sy (encRaises (enc (.fence f)))
    (fun s =>
      let r := releaseNow s (curId s) f.agent.toNat f.store
      let s := updCur (fun c => { c with fences := c.fences ++ [r] }) s
      acquire (curPart s) f.agent.toNat f.store (fenceCmds r s)) s

/-- YIELD (R374): the selector chooses this context again only if no other task context is ready. -/
def execYield (f : YSyl) (s : State) : Host.Outcome State Fault Refusal :=
  syllableStep .sy (encRaises (enc (.yield f)) ++ chk (isSuper s) 0x01)
    (fun s => invoke s.core 7 s.slot (updCur (fun c => { c with status := .waiting .sill true }) s)) s

/-- PSEL (R332): recorded; the guard is read at the PEND. -/
def execPsel (f : YSyl) (s : State) : Host.Outcome State Fault Refusal :=
  syllableStep .sy (encRaises (enc (.psel f)) ++ chk (isSuper s) 0x01)
    (updCur fun c => { c with ctl := { c.ctl with
      psv := true, psg := f.sc, pst := f.imm.extractLsb' 0 7, psf := f.val.extractLsb' 0 7 } }) s

/-- PEND (R327, R328, R40): the phase clock stops and the transom begins; the selector is invoked, since the
member waits there in any case (R45). -/
def execPend (f : YSyl) (s : State) : Host.Outcome State Fault Refusal :=
  let c := cur s
  endingStep .sy
    (encRaises (enc (.pend f)) ++ chk (isSuper s || inDelay c || !aloneIn s .sy) 0x01 ++
      chk (anyPoison c) 0x06 ++ chk (!semMine c f.idx.toNat) 0x08 ++ reasonRaise c f.idx.toNat ++
      chk (endConditions s || c.pos.loops.length != c.pos.depth0) 0x05)
    (fun s =>
      invoke s.core 7 7 (updCur (fun c => { c with
        status := .transom false
        pos := { c.pos with pend := (f.idx.toNat, f.val.toNat), inph := false } }) s)) s

/-! ## The latch tree -/

/-- The chosen successor (R38, R328): the PSEL candidate the guard picks, else (SB, SNEXT). -/
def successor (c : Ctx) : BitVec 7 :=
  if c.ctl.psv then
    if gget c (bits c.ctl.psg 4 0) != c.ctl.psg.getLsbD 5 then c.ctl.pst else c.ctl.psf
  else c.pos.sb ++ c.pos.snext

/-- The phase-table entry a context runs (R37). -/
def phaseEntry (c : Ctx) : BitVec 128 := tget 0 (64 * c.pos.buf.toNat + c.pos.entry.toNat) c.phtab

/-- L (R41): 4 for a root inside the core, otherwise fixed for the placement, from 4 to 40. -/
def latchDelay (inside : Bool) (root member : Nat) : Nat :=
  if inside then 4 else 4 + Config.latchDelay root member % 37

/-- The core of a task's root: that of rank 0 (R35). -/
def rootCore (x : Task) : Nat := (x.members.headD (0, 0)).1

/-- A member's wait and guard let its sign-off go (R42, R221, R328). -/
def signOffReady (s : State) (cid : Nat) : Bool :=
  let c := ctxOf s cid
  match c.status with
  | .transom false =>
    semOk (coreOf s (cid / 5)) c.pos.pend.1 c.pos.pend.2 && tget 0 c.pos.pend.1 c.reasons == 0 &&
      (!c.ctl.psv || gresolved c (bits c.ctl.psg 4 0)) && c.fly.stores.isEmpty
  | .ended => !c.pos.endSent && c.fly.stores.isEmpty
  | _ => false

/-- SIGN_OFF_SEND (R41, R42): the sign-off leaves with the chosen successor, or with "end". A gang of one has its root
in its core, in a phase that is not SOLO too: L = 4 (DEDUCED, log 83). -/
def execSignOffSend (cid : Nat) (s : State) : Host.Outcome State Fault Refusal :=
  let c := ctxOf s cid
  let p := partOfCore s.dev (cid / 5)
  if signOffReady s cid then
    match c.task with
    | none => .next s
    | some t =>
      let ended := c.status == .ended
      let solo := (phaseEntry c).getLsbD 87
      let s := updTask p t (fun x =>
        let one := solo || x.members.length ≤ 1
        let off : SignOff :=
          { rank := c.rank, succ := if ended then none else some (successor c)
            arrive := now s + latchDelay one (rootCore x) (cid / 5), arrived := false, solo := solo
            start := none }
        { x with signoffs := x.signoffs ++ [off] }) s
      .next (updCtx cid (fun c =>
        if ended then { c with pos := { c.pos with endSent := true } }
        else { c with status := .transom true }) s)
  else .next s

/-- The sign-offs of the gang's common phase (R41). -/
def gangOffs (x : Task) : List SignOff := x.signoffs.filter fun o => !o.solo

/-- SIGN_OFF_ARRIVAL (R41): a sign-off that has travelled L cycles reaches its root; with the last of the
group the next phase is set for 96 cycles on. -/
def execSignOffArrival (part task : Nat) (s : State) : Host.Outcome State Fault Refusal :=
  .next (updTask part task (fun x =>
    let due (o : SignOff) : Bool := !o.arrived && decide (o.arrive ≤ now s)
    let offs := x.signoffs.map fun o =>
      if due o then { o with arrived := true, start := if o.solo then some (now s + 96) else none } else o
    let x' := { x with signoffs := offs }
    let gang := gangOffs x'
    if (x.signoffs.any fun o => due o && !o.solo) && gang.length == x.members.length &&
        gang.all (·.arrived) then
      { x' with startAt := some (now s + 96) }
    else x') s)

/-- A member's next phase begins (R41, R42, R332): it is ready at the entry's first bundle, with the clock
at 0; a trapped member stays trapped until its return (R398). -/
def beginPhase (succ : BitVec 7) (c : Ctx) : Ctx :=
  let buf := succ.extractLsb' 6 1
  let entry := succ.extractLsb' 0 6
  let e := tget 0 (64 * buf.toNat + entry.toNat) c.phtab
  { c with
    status := match c.status with
      | .transom _ => .ready
      | x => x
    compared := []
    ctl := { c.ctl with psv := false }
    pos := { c.pos with
      pc := bits e 127 108, clk := 0, xfer := none, left := 0, more := [], depth0 := c.pos.loops.length
      buf := buf, entry := entry, inph := false, fresh := true
      sb := e.extractLsb' 58 1, snext := e.extractLsb' 52 6 } }

/-- The successor a group of sign-offs agrees on, if it names a defined entry of the member (R37, R41). -/
def agreed (c : Ctx) (offs : List SignOff) : Option (BitVec 7) :=
  match offs.head?.bind (·.succ) with
  | some e =>
    if offs.all (fun o => o.succ == some e) &&
        tget 0 (64 * bits e 6 6 + bits e 5 0) c.phtab != 0 then some e else none
  | none => none

/-- One member at the start of its group's next phase: it begins, or raises the schedule fault (R37, R41,
R344). -/
def startMember (offs : List SignOff) (id : Nat) (s : State) : State :=
  let c := ctxOf s id
  if c.status = .ended then s
  else
    match agreed c offs with
    | some e => updCtx id (beginPhase e) s
    | none => noteBoundary id
        { cause := 0x05, slot := id % 5, async := true, fetch := false, detail := 0
          va := bundleVa c, syl := 15, val := 0 } s

/-- PHASE_START (R41, R50): the next phase of the gang, or of a member in a SOLO phase, begins; that of a gang on its
way out waits until it is bound again. -/
def execPhaseStart (part task : Nat) (s : State) : Host.Outcome State Fault Refusal :=
  match (taskOf s part task).filter (·.stage == .bound) with
  | none => .next s
  | some x =>
    if x.startAt.any (· ≤ now s) then
      let offs := gangOffs x
      let s := setTask part task (some { x with
        startAt := none, signoffs := x.signoffs.filter (·.solo) }) s
      .next (x.members.foldl (fun s m => startMember offs (ctxId m.1 m.2) s) s)
    else
      match x.signoffs.find? fun o => o.start.any (· ≤ now s) with
      | none => .next s
      | some o =>
        let s := setTask part task (some { x with signoffs := x.signoffs.erase o }) s
        match x.members[o.rank]? with
        | none => .next s
        | some m => .next (startMember [o] (ctxId m.1 m.2) s)

/-! ## The selected context -/

/-- A selected context can issue: it is ready, or its bundle's wait is evaluated again as it issues. -/
def canTake (s : State) (id : Nat) : Bool :=
  match (ctxOf s id).status with
  | .waiting _ false => true
  | _ => isReady s id

/-- The context that takes the issue slot now (R46, R47): the one that keeps it, ready again in the cycle
after its stall, else the one selected, from its cycle on. -/
def issuer (s : State) (core : Nat) : Option Nat :=
  let k := (coreOf s core).sel
  if k.cur != 7 then none
  else if k.keep < 5 && now s == k.invAt + 1 && isReady s (ctxId core k.keep) then some k.keep
  else if k.sel < 5 && k.from_ ≤ now s && canTake s (ctxId core k.sel) then some k.sel
  else none

/-- A context takes the issue slot: a hold that ends counts as waited (R219) and acquires (R208); one chosen behind a
context that could have kept the slot now counts as selected (R47). -/
def takeSlot (core sl : Nat) (s : State) : State :=
  let id := ctxId core sl
  let s := match (ctxOf s id).status with
    | .waiting (.phase ph agent store _) true => acquire (partOfCore s.dev core) agent store (phWaited id ph s)
    | _ => s
  let s := updCtx id (fun c => { c with status := .ready }) s
  updCore core (fun k => { k with sel := { k.sel with cur := sl, sel := sl, keep := 7 } }) s

/-- SELECTED_CONTEXT_ISSUE (R46, R47): the selected context takes the issue slot; on an idle core the first
context to become ready is selected, which counts at once unless another may still keep the issue slot. -/
def execSelectedContextIssue (core : Nat) (s : State) : Host.Outcome State Fault Refusal :=
  match issuer s core with
  | some sl => .next (takeSlot core sl s)
  | none =>
    let k := coreOf s core
    if k.sel.cur = 7 ∧ k.sel.sel = 7 then
      let choice := selectSlot s core 7
      let open_ := decide (k.sel.keep < 5) && decide (now s ≤ k.sel.invAt)
      let s := updCore core (fun k =>
        { k with sel := if open_ then { k.sel with sel := choice }
          else { k.sel with sel := choice, keep := 7 }.chosen choice 0 }) s
      match issuer s core with
      | some sl => .next (takeSlot core sl s)
      | none => .next s
    else .next s

end Sys2Proof.Machine
end

