-- ==== Sys2Proof/Machine/Matrix.lean ====
section
/-! DEFINITION. The matrix commands at issue (R37, R53, R63, R73, R153 to R157, R160 to R167, R318 to R320): their
operand words, their checks, and the M queue. -/

namespace Sys2Proof.Machine

/-- The numeric controls as a command reads them at issue (R97). -/
def numCtl (c : Ctx) : NumCtl :=
  { nbv := c.ctl.nbv, flush := c.ctl.flush, rmode := c.ctl.rmode, fm := c.ctl.fm }

/-- The command a syllable queues (R153). -/
def mkMCmd (kind : MKind) (h : EHdr) (o : MOp) (id : Nat) (s : State) : MCmd :=
  let c := cur s
  let a := sget c o.a.toNat
  { id := id, slot := s.slot, kind := kind, h := h, o := o, a := a, b := sget c o.b.toNat
    sv := vget c o.sv.toNat, shape := tget 0 (bits a 4 0) c.regs.sh, num := numCtl c
    bundle := bundleVa c, issued := now s, fences := c.fences
    rel := if kind = .mdrc ∧ a.getLsbD 16 then
        some (releaseNow s (curId s) (bits a 19 17) (a.extractLsb' 20 3))
      else none }

/-- A weight or activation format code (R157), valid where it names a register. -/
def operandFmtOk (m : MCmd) (k : Nat) : Bool :=
  (k ≤ 2 || (4 ≤ k && k ≤ 6) || (9 ≤ k && k ≤ 11) || (16 ≤ k && k ≤ 20) || (24 ≤ k && k ≤ 45) || k == 47) &&
    (m.fmt k).isSome

/-- A drain's destination format code (R166). -/
def drainFmtOk (m : MCmd) (k : Nat) : Bool :=
  (k ≤ 11 || (16 ≤ k && k ≤ 20) || (24 ≤ k && k ≤ 31)) && (m.fmt k).isSome

/-- The limits of rows from AROW (R163, R165). -/
def rowsOk (arow n : Nat) : Bool := n ≤ 128 && arow + n ≤ 128

/-- The drain word's own limits (R165). -/
def drainWordOk (m : MCmd) : Bool :=
  !nzBits m.b 46 28 && !nzBits m.b 15 14 && bits m.mode 2 0 != 7 && rowsOk m.arow m.rc && drainFmtOk m m.dfmt

/-- The scope rules of R131 for an MDRC's control word (R167). -/
def controlWordOk (m : MCmd) : Bool :=
  !nzBits m.a 63 23 && !m.a.getLsbD 7 && bits m.a 6 5 != 3 &&
    (if m.a.getLsbD 16 then nzBits m.a 22 20 else !nzBits m.a 22 17)

/-- The operand words lie within their limits (R153, R160, R162, R163, R165 to R167). -/
def operandsOk (m : MCmd) (shapeOk : Bool) : Bool :=
  match m.kind with
  | .mlw =>
    !nzBits m.b 63 25 && !nzBits m.b 23 22 && m.kv ≤ 128 && m.nv ≤ 128 && operandFmtOk m m.wfmt
  | .mma => !nzBits m.b 63 24 && !nzBits m.b 15 14 && rowsOk m.arow m.mrows && operandFmtOk m m.afmt
  | .mdrn => drainWordOk m && !(m.qs && 8 ≤ m.dfmt && m.dfmt ≤ 10)
  | .mdrc =>
    drainWordOk m && !m.pub && m.ptag == 0 && !m.qs && controlWordOk m && shapeOk &&
      (match bits m.a 6 5 with
       | 1 => m.o.int == 1 && m.dfmt == 3
       | 2 => m.o.int == 0 && m.dfmt == 0
       | _ => true)
  | .mclr => !nzBits m.b 63 23 && !nzBits m.b 15 8 && rowsOk m.arow m.rc
  | .mwsw => true
  | .mmsk => !nzBits m.b 63 16 && nzBits m.b 15 8

/-- The format code a command's FR serves (R154). -/
def MCmd.frCode (m : MCmd) : Nat :=
  match m.kind with
  | .mlw => m.wfmt
  | .mma => m.afmt
  | _ => m.dfmt

/-- The command uses a scale vector (R154). -/
def MCmd.scaled (m : MCmd) : Bool :=
  match m.kind with
  | .mlw => m.wsc
  | .mma => m.asc
  | _ => false

/-- The fields an operand word leaves unused are zero (R154). -/
def unusedFields (m : MCmd) : Bool :=
  match m.kind with
  | .mlw | .mma =>
    (!m.scaled && (nz m.o.sv || nz m.o.ssel)) || (m.frCode != 11 && nz m.o.fr)
  | .mdrn | .mdrc => m.frCode != 11 && nz m.o.fr
  | _ => false

/-- The scratchpad rows a command names, from s[A] (R155, R156, R166). -/
def MCmd.rowsNamed (m : MCmd) : Nat :=
  match m.kind with
  | .mdrn => if m.rc = 0 then 0 else m.nd + (if m.qs then 1 else 0)
  | _ => m.nread

/-- The command works the matrix array (R37). -/
def MKind.array : MKind → Bool
  | .mlw | .mma | .mwsw | .mmsk => true
  | _ => false

/-- The command names an accumulator tile (R37, R73). -/
def MKind.tile : MKind → Bool
  | .mma | .mdrn | .mdrc | .mclr => true
  | _ => false

/-- The poison a command consumes (R225): its scalar operands and its scale vector. -/
def mPois (c : Ctx) (m : MCmd) : Bool :=
  spois c m.o.a.toNat || spois c m.o.b.toNat || (m.scaled && c.regs.vPois.getLsbD m.o.sv.toNat)

/-- Everything a matrix command raises at issue (R320). -/
def matrixRaises (e : Enc) (m : MCmd) (shapeOk : Bool) (s : State) : List Raise :=
  let c := cur s
  let k := curCore s
  let n := m.rowsNamed
  let entry := phaseEntry c
  encRaises e ++ chk (unusedFields m) 0x02 ++ chk (!operandsOk m shapeOk) 0x01 ++
    chk (isSuper s) 0x03 ++ chk (mPois c m) 0x06 ++
    (match (List.range n).find? fun i => !rowsMine k s.slot m.o.blk.toNat (m.row0 + i) 1 with
     | some i => [⟨0x08, 0, m.row0 + i⟩]
     | none => []) ++
    chk ((m.kind.tile && !accMine k s.slot m.o.acc.toNat) || !semMine c m.h.wsem.toNat ||
      !semMine c m.h.ssem.toNat) 0x08 ++
    chk ((m.kind.array && !entry.getLsbD 67) || (m.kind.tile && !entry.getLsbD (59 + m.o.acc.toNat)))
      0x05 ++
    chk (decide (m.h.start.toNat ≤ c.pos.clk) || decide (k.mq.length ≥ 16) ||
      conflicts (matrixClaims ((m.h.start.toNat : Int) - c.pos.clk) m) (claims s s.core s.slot)) 0x04

/-- A matrix command at issue (R320). -/
def matrixStep (e : Enc) (kind : MKind) (h : EHdr) (o : MOp) (shapeOk : MCmd → State → Bool) (s : State) :
    Host.Outcome State Fault Refusal :=
  let (n, s') := fresh s
  let m := mkMCmd kind h o n s
  syllableStep .m (matrixRaises e m (shapeOk m s) s)
    (fun _ => updCurCore (fun k => { k with mq := k.mq ++ [m] }) s') s

/-- No shape record is named. -/
def noShape (_ : MCmd) (_ : State) : Bool := true

/-- MLW (R160). -/
def execMlw (h : EHdr) (o : MOp) (s : State) := matrixStep (enc (.mlw h o)) .mlw h o noShape s
/-- MMA (R163). -/
def execMma (h : EHdr) (o : MOp) (s : State) := matrixStep (enc (.mma h o)) .mma h o noShape s
/-- MDRN (R166). -/
def execMdrn (h : EHdr) (o : MOp) (s : State) := matrixStep (enc (.mdrn h o)) .mdrn h o noShape s
/-- MCLR (R165). -/
def execMclr (h : EHdr) (o : MOp) (s : State) := matrixStep (enc (.mclr h o)) .mclr h o noShape s
/-- MWSW (R161). -/
def execMwsw (h : EHdr) (o : MOp) (s : State) := matrixStep (enc (.mwsw h o)) .mwsw h o noShape s
/-- MMSK (R162). -/
def execMmsk (h : EHdr) (o : MOp) (s : State) := matrixStep (enc (.mmsk h o)) .mmsk h o noShape s

end Sys2Proof.Machine
end

