-- ==== Sys2Proof/Machine/Shape.lean ====
section
/-! DEFINITION. Shape records, box walks, locators and packets (R171 to R175, R278, R289, R291): what a copy
command names, as plain data. -/

namespace Sys2Proof.Machine

/-- A shape record (R171). -/
abbrev Shape := BitVec 512

/-- BASE. -/
def Shape.base (x : Shape) : Nat := bits (n := 512) x 511 455
/-- SIDE. -/
def Shape.side (x : Shape) : Nat := bits (n := 512) x 454 398
/-- FMT. -/
def Shape.fmt (x : Shape) : Nat := bits (n := 512) x 397 392
/-- NDIM. -/
def Shape.ndim (x : Shape) : Nat := bits (n := 512) x 391 389
/-- PLANE. -/
def Shape.plane (x : Shape) : Bool := BitVec.getLsbD (w := 512) x 388
/-- FILL. -/
def Shape.fill (x : Shape) : Bool := BitVec.getLsbD (w := 512) x 387
/-- TILED. -/
def Shape.tiled (x : Shape) : Bool := BitVec.getLsbD (w := 512) x 386
/-- GRAPH. -/
def Shape.graph (x : Shape) : Nat := bits (n := 512) x 385 382
/-- PTAG. -/
def Shape.ptag (x : Shape) : BitVec 16 := BitVec.extractLsb' (n := 512) 366 16 x
/-- PUB. -/
def Shape.pub (x : Shape) : Bool := BitVec.getLsbD (w := 512) x 365
/-- BOXM1 + 1 of a dimension. -/
def Shape.box (x : Shape) (d : Nat) : Nat := bits (n := 512) x (72 * d + 71) (72 * d + 56) + 1
/-- STRIDE of a dimension. -/
def Shape.stride (x : Shape) (d : Nat) : Int := (BitVec.extractLsb' (n := 512) (72 * d + 24) 32 x).toInt
/-- CLIP of a dimension. -/
def Shape.clip (x : Shape) (d : Nat) : Nat := bits (n := 512) x (72 * d + 23) (72 * d)

/-- A record's own rules (R172): the zero field, NDIM, unused dimensions, FMT, and PLANE's box. -/
def shapeValid (fm : Sparse (BitVec 32)) (x : Shape) : Bool :=
  bits (n := 512) x 364 360 == 0 && 1 ≤ x.ndim && x.ndim ≤ 5 &&
    ((List.range 5).all fun d => decide (d < x.ndim) || bits (n := 512) x (72 * d + 71) (72 * d) == 0) &&
    x.fmt != 11 && (fmtOfCode fm 0 x.fmt).isSome && (!x.plane || x.box 0 == 128)

/-- The container of a format code (R81). -/
def codeCont (fm : Sparse (BitVec 32)) (code : Nat) : Nat := ((fmtOfCode fm 0 code).map Fmt.container).getD 32
/-- The width of a format code. -/
def codeWidth (fm : Sparse (BitVec 32)) (code : Nat) : Nat := ((fmtOfCode fm 0 code).map Fmt.width).getD 32

/-- Q, the positions of a box (R173). -/
def Shape.positions (x : Shape) : Nat := (List.range x.ndim).foldl (fun n d => n * x.box d) 1

/-- The origin word's coordinates (R173); o4 is 0. -/
def originAt (w : W64) (d : Nat) : Nat := if d = 3 then bits w 62 48 else if d > 3 then 0 else bits w (16 * d + 15) (16 * d)
/-- NULL of an origin word. -/
def originNull (w : W64) : Bool := w.getLsbD 63

/-- Coordinate `d` of position `q` (R173). -/
def coordAt (x : Shape) (w : W64) (q d : Nat) : Nat :=
  let i := q / ((List.range d).foldl (fun n j => n * x.box j) 1) % x.box d
  if x.tiled then originAt w d * x.box d + i else originAt w d + i

/-- A position of a walk: its number, and the bit address of its element, none when clipped (R173). -/
structure Pos0 where
  q : Nat
  addr : Option Int
  deriving DecidableEq, Repr

/-- The bit address of element `e` (R173): `c` bits an element; the low nibble first. -/
def elemAddr (base : Nat) (c : Nat) (e : Int) : Int := 8 * (base : Int) + e * c

/-- The walk of a box (R173), with elements `c` bits apart in memory. -/
def boxWalk (x : Shape) (w : W64) (c : Nat) : List Pos0 :=
  (List.range x.positions).map fun q =>
    let xs := (List.range x.ndim).map (coordAt x w q)
    let ok := xs.zipIdx.all fun p => decide (p.1 < x.clip p.2)
    let e := xs.zipIdx.foldl (fun (s : Int) p => s + (p.1 : Int) * x.stride p.2) 0
    ⟨q, if ok then some (elemAddr x.base c e) else none⟩

/-- The walk of a gather or scatter (R289). -/
def indexWalk (x : Shape) (index : List Nat) (c : Nat) : List Pos0 :=
  (index.zipIdx.flatMap fun p => (List.range (x.box 0)).map fun i =>
    let ok := decide (i < x.clip 0) && decide (p.1 < x.clip 1)
    ⟨i + x.box 0 * p.2, if ok then some (elemAddr x.base c ((i : Int) * x.stride 0 + (p.1 : Int) * x.stride 1))
      else none⟩)

/-- A piece of an element within one granule (R175): position, bit offset in the element, bits, and bit
offset in the granule. -/
structure Piece where
  q : Nat
  eoff : Nat
  nb : Nat
  goff : Nat
  deriving DecidableEq, Repr

/-- A packet of a command (R175): its granule's number and its pieces in walk order. A granule outside the
address space takes a translation fault (R173). -/
structure Plan where
  granule : Int
  pieces : List Piece
  deriving DecidableEq, Repr

/-- The pieces of one element of `nb` bits (R175). -/
def elemPieces (q : Nat) (a : Int) (nb : Nat) : List (Int × Piece) :=
  let g := a / 2048
  let o := (a % 2048).toNat
  if o + nb ≤ 2048 then [(g, ⟨q, 0, nb, o⟩)]
  else [(g, ⟨q, 0, 2048 - o, o⟩), (g + 1, ⟨q, 2048 - o, nb - (2048 - o), 0⟩)]

/-- Adds a piece to packets in reverse order: to the open one of its granule, else a new one. -/
def addPiece (opened : Bool) (acc : List Plan) (p : Int × Piece) : List Plan :=
  match acc with
  | x :: xs => if opened && x.granule == p.1 then ⟨x.granule, p.2 :: x.pieces⟩ :: xs else ⟨p.1, [p.2]⟩ :: x :: xs
  | [] => [⟨p.1, [p.2]⟩]

/-- The packets of a walk with elements of `nb` bits (R175). -/
def planWalk (nb : Nat) (w : List Pos0) : List Plan :=
  let r := w.foldl (fun (st : List Plan × Bool) p =>
    match p.addr with
    | none => (st.1, false)
    | some a =>
      match elemPieces p.q a nb with
      | [x] => (addPiece st.2 st.1 x, true)
      | [x, y] => (addPiece true (addPiece st.2 st.1 x) y, true)
      | _ => st) ([], false)
  r.1.reverse.map fun x => ⟨x.granule, x.pieces.reverse⟩

/-- The packets of `n` bytes from an address: piece `q` is byte `q`. -/
def planBytes (a n : Nat) : List Plan :=
  planWalk 8 ((List.range n).map fun q => ⟨q, some (8 * ((a + q : Nat) : Int))⟩)

/-! ## Locators -/

/-- A row locator (R278): its block and first row, none when it breaks its limits. -/
def rowLoc (w : W64) : Option (Nat × Nat) :=
  if nzBits w 63 13 || bits w 9 0 > 767 then none else some (bits w 12 10, bits w 9 0)

/-- A word locator (R278): block, row, byte and size in bytes, none when it breaks its limits; `align` is
the alignment its entry asks. -/
structure WordLoc where
  blk : Nat
  row : Nat
  byte : Nat
  size : Nat
  deriving DecidableEq, Repr

/-- The fields of a word locator. -/
def wordLoc (w : W64) : WordLoc := ⟨bits w 21 19, bits w 18 9, bits w 8 0, 2 ^ bits w 23 22⟩

/-- A word locator's own limits (R278). -/
def wordLocOk (w : W64) (align : Nat) : Bool :=
  !nzBits w 63 24 && bits w 18 9 ≤ 767 && bits w 8 0 % (2 ^ bits w 23 22) == 0 && bits w 8 0 % align == 0

/-- The container position's bit offset from the first row of position `q` (R174): dense, or in bit planes
where the element's bits lie apart (R156). -/
def rowsOfBox (plane : Bool) (q c width : Nat) : Nat :=
  if plane then ceilDiv (ceilDiv q 128 * width) 32 else ceilDiv (q * c) 4096

/-- Where bit `b` of the element at position `q` lies, in bits from the first row (R156, R174). -/
def bitPlace (plane : Bool) (c width q b : Nat) : Nat :=
  if plane then ((q / 128 * width + b) * 16 + q % 128 / 8) * 8 + q % 8 else q * c + b

/-- A bit of a run of rows. -/
def rowsBit (rows : List Row) (i : Nat) : Bool := (rows.getD (i / 4096) 0).getLsbD (i % 4096)

/-- `n` bits of a run of rows from bit `i`; the bits of one element lie in one row. -/
def rowsBits (rows : List Row) (i n : Nat) : Nat := (rows.getD (i / 4096) 0 >>> (i % 4096)).toNat % 2 ^ n

/-- The element at position `q` of a box in rows (R156, R174). -/
def boxElem (plane : Bool) (c width : Nat) (rows : List Row) (q : Nat) : Nat :=
  if plane then natOfBits (fun b => rowsBit rows (bitPlace true c width q b)) width
  else rowsBits rows (q * c) c

/-! ## Bytes and bits of a granule -/

/-- The bit masks and values that `v`, of `nb` bits, puts at bit `goff` of a granule: one entry a byte. -/
def bitsToBytes (goff nb v : Nat) : List (Nat × Byte × Byte) :=
  let b0 := goff / 8
  let n := ceilDiv (goff % 8 + nb) 8
  let word := v % 2 ^ nb * 2 ^ (goff % 8)
  let mask := (2 ^ nb - 1) * 2 ^ (goff % 8)
  (List.range n).map fun i =>
    (b0 + i, BitVec.ofNat 8 (word / 2 ^ (8 * i)), BitVec.ofNat 8 (mask / 2 ^ (8 * i)))

/-- Merges an entry into the bytes of a packet. -/
def mergeByte (e : Nat × Byte × Byte) : List (Nat × Byte × Byte) → List (Nat × Byte × Byte)
  | [] => [e]
  | x :: xs =>
    if x.1 = e.1 then (x.1, (x.2.1 &&& ~~~e.2.2) ||| (e.2.1 &&& e.2.2), x.2.2 ||| e.2.2) :: xs
    else x :: mergeByte e xs

/-- The bytes a packet touches. -/
def touched (p : Plan) : List Nat :=
  (p.pieces.flatMap fun x => (bitsToBytes x.goff x.nb 0).map (·.1)).eraseDups

/-- The bits a piece finds among the bytes read. -/
def pieceBits (rd : List (Nat × Byte)) (x : Piece) : Nat :=
  let n := ceilDiv (x.goff % 8 + x.nb) 8
  let v := (List.range n).foldl (fun s i =>
    s + ((rd.find? fun e => e.1 == x.goff / 8 + i).map (·.2.toNat)).getD 0 * 2 ^ (8 * i)) 0
  v / 2 ^ (x.goff % 8) % 2 ^ x.nb

end Sys2Proof.Machine
end

