-- ==== Sys2Proof/Machine/Graph.lean ====
section
/-! DEFINITION. Louvre graphs (R180 to R187): the record, its well-formedness, and the values of its nodes
over a stream's positions. -/

namespace Sys2Proof.Machine

/-- A node of a graph record (R182). -/
structure GNode where
  op : Nat
  in0 : Nat
  in1 : Nat
  in2 : Nat
  ty : Nat
  mode : BitVec 4
  param : BitVec 32
  deriving DecidableEq, Repr

/-- A word of a graph record. -/
def gWord (g : List W64) (k : Nat) : W64 := g.getD k 0
/-- NNODE. -/
def gCount (g : List W64) : Nat := bits (gWord g 0) 63 58
/-- OUT. -/
def gOut (g : List W64) : Nat := bits (gWord g 0) 57 52
/-- DIR. -/
def gDir (g : List W64) : Nat := bits (gWord g 0) 51 50
/-- MFMT. -/
def gMfmt (g : List W64) : Nat := bits (gWord g 0) 49 44
/-- SFMT. -/
def gSfmt (g : List W64) : Nat := bits (gWord g 0) 43 38
/-- The format code of the stream input (R182). -/
def gIn (g : List W64) : Nat := if gDir g = 1 then gMfmt g else gSfmt g
/-- The format code of the output side. -/
def gOutFmt (g : List W64) : Nat := if gDir g = 1 then gSfmt g else gMfmt g

/-- The fields of a node word (R182). -/
def gNode (w : W64) : GNode :=
  ⟨bits w 63 58, bits w 57 52, bits w 51 46, bits w 45 40, bits w 39 36, w.extractLsb' 32 4, w.extractLsb' 0 32⟩

/-- The nodes of a graph. -/
def gNodes (g : List W64) : List GNode := (List.range (gCount g)).map fun i => gNode (gWord g (i + 2))

/-- The table of a graph (R182). -/
def gTable (g : List W64) (j : Nat) : Nat := bits (gWord g (38 + j / 2)) (32 * (j % 2) + 31) (32 * (j % 2))

/-- How many inputs an operator uses; none for an opcode that is not assigned (R183). -/
def gArity (n : GNode) : Option Nat :=
  match n.op with
  | 0x01 => some 1 | 0x02 => some 0 | 0x03 => some 1 | 0x04 => some 2 | 0x05 => some 1
  | 0x08 => some 2 | 0x09 => some 2 | 0x0A => some 3 | 0x0B => some 2 | 0x0C => some 2
  | 0x10 => some 2 | 0x11 => some 2 | 0x12 => some 2
  | 0x13 => some (if n.param.getLsbD 7 then 2 else 1)
  | 0x18 => some 3 | 0x19 => some 1 | 0x20 => some 1 | 0x21 => some 1 | 0x22 => some 1
  | 0x28 => some 1 | 0x29 => some 1 | 0x2A => some 1
  | _ => none

/-- An integer node type (R183). -/
def tyInt (t : Nat) : Bool := t == 3 || t == 7
/-- A numeric node type (R183). -/
def tyNum (t : Nat) : Bool := tyInt t || t == 8
/-- A narrow code of SCALE (R183). -/
def narrowCode (c : Nat) : Bool := (16 ≤ c && c ≤ 20) || (24 ≤ c && c ≤ 31)
/-- A source code that stands without a format-register field (R86, R187). -/
def streamSrc (c : Nat) : Bool := c ≤ 10 || (16 ≤ c && c ≤ 21) || (24 ≤ c && c ≤ 45) || c == 47
/-- A destination code (R187). -/
def streamDst (c : Nat) : Bool := c ≤ 10 || (16 ≤ c && c ≤ 21) || (24 ≤ c && c ≤ 31)

/-- A node rounds under its MODE (R98, R183): floating sums and products, conversions to or from a floating format,
and scalings. -/
def gRounds (n : GNode) : Bool :=
  match n.op with
  | 0x08 | 0x09 => !tyInt n.ty
  | 0x0A | 0x21 | 0x22 => true
  | 0x20 => 7 < n.param.toNat / 64 || 7 < n.param.toNat % 64
  | _ => false

/-- A node's result format code when its TY, PARAM and input formats are those R183 asks; `dir` is the
graph's DIR. A node that rounds has no MODE 7 (R96; DEDUCED, log 62). -/
def gFmt (dir : Nat) (n : GNode) (fi : List Nat) : Option Nat :=
  let p := n.param.toNat
  let a := fi.getD 0 63
  let ok (b : Bool) (f : Nat) : Option Nat :=
    if b && n.ty ≤ 10 && (bits n.mode 2 0 != 7 || !gRounds n) then some f else none
  let same := fi.all (· == n.ty)
  match n.op with
  | 0x01 => ok (p == 0) a
  | 0x02 => ok true n.ty
  | 0x03 => ok (tyInt n.ty && p < 2 ^ 12 && p % 32 + p / 32 % 64 + 1 ≤ 32) n.ty
  | 0x04 => ok (tyInt n.ty && 1 ≤ p && p ≤ 31) n.ty
  | 0x05 => ok (1 ≤ p && p ≤ 63) a
  | 0x0A => ok (n.ty == 8 && p == 0 && same) 8
  | 0x08 | 0x09 | 0x0B | 0x0C => ok (tyNum n.ty && p == 0 && same) n.ty
  | 0x10 | 0x11 | 0x12 => ok (tyInt n.ty && p == 0 && same) n.ty
  | 0x13 => ok (tyInt n.ty && p < 2 ^ 8 && same) n.ty
  | 0x18 => ok (p < 2 ^ 5 && p % 16 ≤ 6 && a == n.ty && fi.getD 1 63 == n.ty) (fi.getD 2 63)
  | 0x19 => ok (tyInt n.ty && p == 0) n.ty
  | 0x20 => ok (p < 2 ^ 12 && streamSrc (p / 64) && streamDst (p % 64) && a == p / 64) (p % 64)
  | 0x21 => ok (dir == 1 && 8 ≤ n.ty && p < 2 ^ 12 && p % 64 == 0 && narrowCode (p / 64) && a == p / 64) n.ty
  | 0x22 => ok (dir == 2 && p < 2 ^ 6 && streamDst p && a == 8) p
  | 0x28 => ok (tyNum n.ty && p ≤ 4 && (p ≤ 2 || tyInt n.ty) && a == n.ty) a
  | 0x29 => ok (p < 2 ^ 8 && a == 8) a
  | 0x2A => ok (p == 0) a
  | _ => none

/-- The result formats of the nodes in order, none when some node is ill-formed (R187). -/
def gFmts (dir inFmt : Nat) : List GNode → List Nat → Option (List Nat)
  | [], fs => some fs
  | n :: ns, fs =>
    match gArity n with
    | none => none
    | some k =>
      let ins := [n.in0, n.in1, n.in2]
      let used := (ins.take k).map fun i => if i = 36 then some inFmt else fs[i]?
      if used.all (·.isSome) && (ins.drop k).all (· == 63) then
        match gFmt dir n (used.filterMap id) with
        | some f => gFmts dir inFmt ns (fs ++ [f])
        | none => none
      else none

/-- A stateful node (R185). -/
def gStateful (n : GNode) : Bool := n.op == 0x28 || n.op == 0x29 || n.op == 0x2A
/-- An ordered node (R185). -/
def gOrderedNode (n : GNode) : Bool := gStateful n || n.op == 0x05 || n.op == 0x21 || n.op == 0x22
/-- A graph with an ordered node (R185). -/
def gOrdered (g : List W64) : Bool := (gNodes g).any gOrderedNode
/-- The stateful node of a graph. -/
def gState (g : List W64) : Option GNode := (gNodes g).find? gStateful

/-- A graph record is well-formed (R187). -/
def graphOk (g : List W64) : Bool :=
  gWord g 0 &&& 0x3FFFFFFFFF#64 == 0 && gWord g 1 == 0 && gWord g 46 == 0 && gWord g 47 == 0 &&
    1 ≤ gCount g && gCount g ≤ 36 && gOut g < gCount g && (gDir g == 1 || gDir g == 2) &&
    streamSrc (gIn g) && streamDst (gOutFmt g) && ((gNodes g).filter gStateful).length ≤ 1 &&
    (match gFmts (gDir g) (gIn g) (gNodes g) [] with
     | some fs => fs[gOut g]? == some (gOutFmt g)
     | none => false)

/-! ## Values -/

/-- The words a node gives over the present positions of a stream, in ascending position. -/
abbrev Col := List (Nat × Nat)

/-- What a graph needs of its command: controls read at issue (R181), and the side stream's bytes. -/
structure GEnv where
  num : NumCtl
  side : Nat → Nat

/-- The rounding of a node (R96, R183). -/
def gRnd (e : GEnv) (n : GNode) : Rnd :=
  let m := if bits n.mode 2 0 = 6 then e.num.rmode.toNat else bits n.mode 2 0
  { mode := engineMode m, sat := n.mode.getLsbD 3, draw := 0, flush := e.num.flush }

/-- The format of a code in a graph. R181 traps a format register that is not valid for use only as MFMT or SFMT; a
node that names one reads i32 (DESIGN CHOICE, log 62). -/
def gFormat (e : GEnv) (code : Nat) : Fmt := (fmtOfCode e.num.fm 0 code).getD (.int true 32)

/-- A word's value as a node of type `t` reads it. -/
def gVal (e : GEnv) (t w : Nat) : Val := sourceVal e.num.flush (gFormat e t) w

/-- A shift of SHF (R183). -/
def gShift (kind amt x : Nat) : Nat :=
  let b := BitVec.ofNat 32 x
  (match kind with
   | 0 => b <<< amt
   | 1 => b >>> amt
   | 2 => b.sshiftRight amt
   | _ => b.rotateRight amt).toNat

/-- A node without memory at one position: its word and its flags (R183). -/
def gElem (e : GEnv) (tbl : Nat → Nat) (n : GNode) (p : Nat) (xs : List Nat) : Nat × FlagSet :=
  let a := xs.getD 0 0
  let b := xs.getD 1 0
  let c := xs.getD 2 0
  let k := n.param.toNat
  let f := gFormat e n.ty
  let r := gRnd e n
  let v := gVal e n.ty
  let arith (iop : Int → Int → Int → Int) (vop : Bool → Val) : Nat × FlagSet :=
    if f.isInt then (fitInt f r.sat (iop (v a).toInt (v b).toInt (v c).toInt), 0)
    else roundVal f r (vop (r.mode == 3))
  match n.op with
  | 0x02 => (k % 2 ^ f.width, 0)
  | 0x03 =>
    let w := k / 32 % 64 + 1
    let x := a / 2 ^ (k % 32) % 2 ^ w
    (if k / 2 ^ 11 % 2 = 1 ∧ 2 ^ (w - 1) ≤ x then x + 2 ^ 32 - 2 ^ w else x, 0)
  | 0x04 => ((a % 2 ^ k + b * 2 ^ k) % 2 ^ 32, 0)
  | 0x08 => arith (fun x y _ => x + y) fun rdn => addVal rdn (v a) (v b)
  | 0x09 => arith (fun x y _ => x * y) fun _ => mulVal (v a) (v b)
  | 0x0A => arith (fun x y z => x * y + z) fun rdn => fmaVal rdn (v a) (v b) (v c)
  | 0x0B => pickMinMax false false (canonNan f) (v a) (v b) a b
  | 0x0C => pickMinMax true false (canonNan f) (v a) (v b) a b
  | 0x10 => (a &&& b, 0)
  | 0x11 => (a ||| b, 0)
  | 0x12 => (a ^^^ b, 0)
  | 0x13 => (gShift (k / 32 % 4) (if k / 128 % 2 = 1 then b % 32 else k % 32) a, 0)
  | 0x18 =>
    (if condHolds (k % 16) (v a) (v b) then c else if k / 16 % 2 = 1 then 0 else a,
     flagIf ((v a).isSig || (v b).isSig) flagInv)
  | 0x19 => (tbl (a % 16), 0)
  | 0x20 =>
    let src := gFormat e (k / 64)
    let q := convertVal src (gFormat e (k % 64)) r (sourceVal e.num.flush src a)
    (q.1, q.2 ||| flagIf (substOf (k / 64) != 0) flagSubst)
  | 0x21 => roundVal f r (scaleVal false (e.side p) (gVal e (k / 64) a))
  | _ => (a, 0)

/-- The word of a column at a position, if present. -/
def colAt (c : Col) (p : Nat) : Option Nat := (c.find? fun x => x.1 == p).map (·.2)

/-- A QSCALE node over a column (R93, R184): the quantised words, their flags, and the scale bytes by block. -/
def gQuantise (e : GEnv) (n : GNode) (c : Col) : Col × FlagSet × List (Nat × Nat) :=
  let dst := gFormat e (n.param.toNat % 64)
  let blocks := (c.map fun x => x.1 / 32).eraseDups
  let scales := blocks.map fun j => (j, blockScale dst ((c.filter fun x => x.1 / 32 == j).map fun x => gVal e 8 x.2))
  let out := c.map fun x =>
    let s := ((scales.find? fun y => y.1 == x.1 / 32).map (·.2)).getD 127
    (x.1, quantise dst (gRnd e n) s (gVal e 8 x.2))
  (out.map fun x => (x.1, x.2.1), flagsUnion (out.map fun x => x.2.2), scales)

/-- What a graph makes of a stream: the columns of its nodes, their flags, and QSCALE's scale bytes. -/
structure GRun where
  cols : List Col
  flags : FlagSet
  scales : List (Nat × Nat)

/-- One node over the whole stream (R183, R184). -/
def gStep (e : GEnv) (tbl : Nat → Nat) (stream : Col) (r : GRun) (n : GNode) : GRun :=
  let col (i : Nat) : Col := if i = 36 then stream else r.cols.getD i []
  match n.op with
  | 0x05 =>
    let c := col n.in0
    let d := n.param.toNat % 64
    { r with cols := r.cols ++ [c.map fun x => (x.1, if x.1 < d then 0 else (colAt c (x.1 - d)).getD 0)] }
  | 0x22 =>
    let q := gQuantise e n (col n.in0)
    { cols := r.cols ++ [q.1], flags := r.flags ||| q.2.1, scales := r.scales ++ q.2.2 }
  | _ =>
    let ins := ([n.in0, n.in1, n.in2].filter (· != 63)).map col
    let out := stream.map fun x => (x.1, gElem e tbl n x.1 (ins.map fun c => (colAt c x.1).getD 0))
    { r with
      cols := r.cols ++ [out.map fun x => (x.1, x.2.1)]
      flags := r.flags ||| flagsUnion (out.map fun x => x.2.2) }

/-- A graph over the present positions of a stream. -/
def gEval (e : GEnv) (g : List W64) (stream : Col) : GRun :=
  (gNodes g).foldl (gStep e (gTable g) stream) ⟨[], 0, []⟩

/-- The words that leave the graph. -/
def GRun.out (r : GRun) (g : List W64) : Col := r.cols.getD (gOut g) []

/-- One bit of a CRC-32C in reflected form (R184). -/
def crcBit (c : BitVec 32) : BitVec 32 := if c.getLsbD 0 then (c >>> 1) ^^^ 0x82F63B78#32 else c >>> 1
/-- One byte of a CRC-32C. -/
def crcByte (c : BitVec 32) (b : Nat) : BitVec 32 :=
  (List.range 8).foldl (fun c _ => crcBit c) (c ^^^ BitVec.ofNat 32 (b % 256))
/-- CRC-32C of bytes (R184): initial value and final XOR of all ones. -/
def crc32c (l : List Nat) : BitVec 32 := ~~~(l.foldl crcByte (BitVec.allOnes 32))

/-- The container bytes of words in ascending position (R184); 4-bit elements pack two to a byte. -/
def crcBytes (c : Nat) : List Nat → List Nat
  | [] => []
  | [x] => if c = 4 then [x % 16] else (leBytes (c / 8) x).map (·.toNat)
  | x :: y :: r =>
    if c = 4 then (x % 16 + 16 * (y % 16)) :: crcBytes c r
    else (leBytes (c / 8) x).map (·.toNat) ++ (leBytes (c / 8) y).map (·.toNat) ++ crcBytes c r

/-- The result of an ACC node (R111 to R114, R184, R186): its word and its flags. The minimum or maximum of one element
is that element, a NaN too (DESIGN CHOICE, log 62). -/
def accResult (e : GEnv) (n : GNode) (c : Col) : Nat × FlagSet :=
  let f := gFormat e n.ty
  let ws := c.map (·.2)
  let v := gVal e n.ty
  match n.param.toNat with
  | 0 =>
    if f.isInt then sumInt f false (ws.map fun w => (v w).toInt)
    else
      let last := ((c.getLast?).map (·.1 + 1)).getD 0
      sumF32 e.num.nbv.toNat false e.num.flush ((List.range last).map fun p => (colAt c p).map v) none
  | 3 => (ws.foldl (· &&& ·) (2 ^ 32 - 1), 0)
  | 4 => (ws.foldl (· ||| ·) 0, 0)
  | k =>
    match ws with
    | [] => (0, 0)
    | w :: r => r.foldl (fun s x =>
        let q := pickMinMax (k == 2) false (canonNan f) (v s.1) (v x) s.1 x
        (q.1, s.2 ||| q.2)) (w, 0)

/-- The result of a BIN node (R116, R117, R184). -/
def binResult (e : GEnv) (n : GNode) (c : Col) : Nat × FlagSet :=
  let emax := (n.param.setWidth 8).toInt
  let r := c.foldl (fun (s : Triple × FlagSet) x =>
    let y := splitBins emax (gVal e 8 x.2)
    let z := addTriple s.1 y.1
    (z.1, s.2 ||| y.2 ||| z.2)) (Triple.ofNat 0, 0)
  (r.1.toNat, r.2)

/-- VALUE and the flags of the stateful node (R186): zero without one. -/
def gValue (e : GEnv) (g : List W64) (stream : Col) (r : GRun) : Nat × FlagSet :=
  match gState g with
  | none => (0, 0)
  | some n =>
    let c := if n.in0 = 36 then stream else r.cols.getD n.in0 []
    match n.op with
    | 0x28 => accResult e n c
    | 0x29 => binResult e n c
    | _ =>
      let fs := (gFmts (gDir g) (gIn g) (gNodes g) []).getD []
      let code := if n.in0 = 36 then gIn g else fs.getD n.in0 7
      ((crc32c (crcBytes (codeCont e.num.fm code) (c.map (·.2)))).toNat, 0)

/-- The result record of a stream (R186). A later-generation source sets SUBST here and no bit of the context's SUBST
register (DESIGN CHOICE, log 62: R90 speaks of instructions and engine commands). -/
def resultRecord (e : GEnv) (g : List W64) (stream : Col) : List Byte :=
  let r := gEval e g stream
  let v := gValue e g stream r
  leBytes 32 v.1 ++ leBytes 8 (r.flags ||| v.2).toNat ++ leBytes 8 stream.length ++ leBytes 16 0

end Sys2Proof.Machine
end

