-- ==== Sys2Proof/Machine/MatrixRun.lean ====
section
/-! DEFINITION. The matrix engine at work (R54, R152, R155 to R166, R320): a command's begin at t+S, its reads and
writes cycle by cycle, and its completion. -/

namespace Sys2Proof.Machine

/-! ## Weights and activations -/

/-- The native format a later-generation format widens to (R89). -/
def laterTarget (code : Nat) : Flt := if code ≤ 35 ∨ (40 ≤ code ∧ code ≤ 42) then f16 else bf16

/-- An element as the engine decodes it under the controls its command read (R88, R89, R95). -/
def MCmd.decode (m : MCmd) (code x : Nat) : Val :=
  sourceVal m.num.flush ((m.fmt code).getD (.int true 4)) x

/-- A weight encoding as it is latched: after NARI and any widening (R89, R95, R261). -/
def MCmd.latched (m : MCmd) (x : Nat) : Nat :=
  match m.fmt m.wfmt with
  | some (.flt f) =>
    let v := sourceVal m.num.flush (.flt f) x
    if 32 ≤ m.wfmt then (roundFlt (laterTarget m.wfmt) (Rnd.rne 0) v).1
    else if m.num.flush.getLsbD 0 && v.isZero && decide (f.width ≤ 8) && f.e != 0 then f.withSign v.neg 0
    else x % 2 ^ f.width
  | _ => x % 2 ^ m.wide m.wfmt

/-- The scale byte of a weight under WSC (R155). -/
def MCmd.weightScale (m : MCmd) (k n : Nat) : Nat := elemAt 8 m.sv (4 * n + k / 32)

/-- The latch word of one weight: its encoding and its scale byte (R155, R261). -/
def MCmd.latchWord (m : MCmd) (reads : List Row) (k n : Nat) : BitVec 32 :=
  let c := m.cont m.wfmt
  let scale := if m.wsc then m.weightScale k n else 127
  BitVec.ofNat 32 (scale * 2 ^ 16 + m.latched (rowsBits reads ((128 * k + n) * c) c))

/-- The latch word of a weight of +0. -/
def latchZero : BitVec 32 := 0x7F0000

/-- The bank MLW leaves (R160). -/
def MCmd.bank (m : MCmd) (reads : List Row) : Bank :=
  let w := (List.range (if m.nv = 0 then 0 else m.kv)).foldl (fun t k =>
    (List.range m.nv).foldl (fun t n => tset latchZero (128 * k + n) (m.latchWord reads k n) t) t)
    ([] : Sparse (BitVec 32))
  let reg := if m.wfmt = 11 then m.o.fr.toNat else m.wfmt - 24
  { w := w, kv := m.kv, nv := m.nv, fmt := BitVec.ofNat 6 m.wfmt
    fm := if m.wfmt = 11 ∨ (24 ≤ m.wfmt ∧ m.wfmt ≤ 31) then tget 0 reg m.num.fm else 0
    intw := m.isInteger m.wfmt, wsc := m.wsc }

/-- INV of a signalling NaN weight (R160); under the scale byte 0xFF it is the quiet NaN (R92). -/
def MCmd.loadFlags (m : MCmd) (reads : List Row) : FlagSet :=
  let c := m.cont m.wfmt
  flagIf ((List.range m.kv).any fun k => (List.range m.nv).any fun n =>
    (m.decode m.wfmt (rowsBits reads ((128 * k + n) * c) c)).isSig && !(m.wsc && m.weightScale k n == 255)) flagInv

/-- The format of a bank's latched encodings (R152). -/
def Bank.format (b : Bank) : Fmt :=
  let code := b.fmt.toNat
  if 32 ≤ code then .flt (laterTarget code)
  else if code = 11 ∨ 24 ≤ code then ((fmtOfReg b.fm).map Fmt.flt).getD (.int true 4)
  else (fmtOfCode [] 0 code).getD (.int true 4)

/-- The value of a latched weight, scale applied (R92, R155). -/
def Bank.weight (b : Bank) (k n : Nat) : Val :=
  let x := (tget latchZero (128 * k + n) b.w).toNat
  let v := decodeVal b.format (x % 2 ^ 16)
  if b.wsc then scaleVal false (x / 2 ^ 16 % 256) v else v

/-- The value of an activation, scale applied (R92, R156). -/
def MCmd.activation (m : MCmd) (reads : List Row) (r k : Nat) : Val :=
  let v := m.decode m.afmt (boxElem true (m.cont m.afmt) (m.wide m.afmt) reads (128 * r + k))
  if m.asc then scaleVal false (elemAt 8 m.sv ((16 * m.o.ssel.toNat + 4 * r + k / 32) % 512)) v else v

/-- A term that the mask leaves in (R163). -/
def maskPresent (m : MCmd) (doff bw : BitVec 8) (k n : Nat) : Bool :=
  let d : Int := (n : Int) + doff.toInt
  if m.o.tri = 1 then decide ((k : Int) ≤ d)
  else if m.o.band = 1 then decide (d - bw.toNat < k ∧ (k : Int) ≤ d)
  else true

/-- One element of MMA (R111 to R114, R163): its new word and its flags. -/
def mmaElem (r : MRun) (row n old : Nat) : Nat × FlagSet :=
  let m := r.cmd
  let ks := List.range r.bank.kv
  if m.o.int = 1 then
    let ts := (ks.filter fun k => maskPresent m r.doff r.bw k n).map fun k =>
      (m.activation r.reads row k).toInt * (r.bank.weight k n).toInt
    let init := if m.o.clr = 1 then [] else [(decodeVal (.int true 32) old).toInt]
    sumInt (.int true 32) false (init ++ ts)
  else
    let ts := ks.map fun k =>
      if maskPresent m r.doff r.bw k n then some (mulVal (m.activation r.reads row k) (r.bank.weight k n))
      else none
    sumF32 m.num.nbv.toNat false m.num.flush ts (if m.o.clr = 1 then none else some old)

/-- Some product is formed: only then is a later-generation activation format recorded as widened (R90, R164;
DEDUCED, log 15). -/
def mmaWidens (r : MRun) : Bool :=
  (List.range r.bank.nv).any fun n => (List.range r.bank.kv).any fun k => maskPresent r.cmd r.doff r.bw k n

/-- The bytes of a row that an MMA writes: those of a column in which it forms a product, or starts from nothing (R163,
R164). -/
def mmaBytes (r : MRun) : Pred :=
  (List.range (min r.bank.nv 128)).foldl (fun b n =>
    if r.cmd.o.clr = 1 ∨ (List.range r.bank.kv).any fun k => maskPresent r.cmd r.doff r.bw k n then b ||| byteMask (4 * n) 4
    else b) 0

/-- MMA reads its rows, unless it starts from nothing, and writes them (R78, R163); a row of which no column is written
is left alone (R164). -/
def mmaWrite (core : Nat) (r : MRun) (s : State) : State :=
  let m := r.cmd
  let t := m.o.acc.toNat
  let mask := mmaBytes r
  let (s, fl) := (List.range m.mrows).foldl (fun (x : State × FlagSet) row =>
    let old := accAt (coreOf x.1 core) t (m.arow + row)
    let new := (List.range 128).map fun n =>
      let e := elemAt 32 old n
      if n < r.bank.nv then mmaElem r row n e else (e, 0)
    let s := if mask = 0 ∨ m.o.clr = 1 then x.1 else readCheck core (accKey t (m.arow + row)) x.1
    (if mask = 0 then s else writeAcc core t (m.arow + row) (rowOf 32 (new.map (·.1))) mask s,
     x.2 ||| flagsUnion (new.map (·.2)))) (s, 0)
  let sub := if mmaWidens r then substOf m.afmt else 0
  updCore core (fun k => { k with mrun := k.mrun.map fun x =>
    if x.cmd.id = m.id then { x with flags := fl ||| flagIf (sub != 0) flagSubst, subst := sub } else x }) s

/-! ## Drains -/

/-- The rounding of a drain (R96, R97, R166). -/
def MCmd.rounding (m : MCmd) : Rnd :=
  let k := bits m.mode 2 0
  { mode := engineMode (if k = 6 then m.num.rmode.toNat else k), sat := m.mode.getLsbD 3, draw := 0, flush := m.num.flush }

/-- The format a drain reads its tile in (R166). -/
def MCmd.tileFmt (m : MCmd) : Fmt := if m.o.int = 1 then .int true 32 else .flt f32

/-- The format a drain writes. -/
def MCmd.drainFmt (m : MCmd) : Fmt := (m.fmt m.dfmt).getD (.int true 32)

/-- Tile row `i` converted (R93, R98, R99, R166): its elements, their flags, and its scale bytes. -/
def MCmd.drainRow (m : MCmd) (row : Row) : List Nat × FlagSet × List Nat :=
  let vs := (elemsOf 32 row).map (decodeVal m.tileFmt)
  if m.qs then
    let scales := (List.range 4).map fun j => blockScale m.drainFmt ((vs.drop (32 * j)).take 32)
    let out := vs.zipIdx.map fun p => quantise m.drainFmt m.rounding (scales.getD (p.2 / 32) 127) p.1
    (out.map (·.1), flagsUnion (out.map (·.2)), scales)
  else
    let out := vs.map (convertVal m.tileFmt m.drainFmt m.rounding)
    (out.map (·.1), flagsUnion (out.map (·.2)), [])

/-- Data row `j` of MDRN: its bytes, and the mask of the tile rows it carries (R166). -/
def drainData (r : MRun) (j : Nat) : Row × Pred :=
  let m := r.cmd
  let g := m.perRow
  let rows := (r.rows.drop (j * g)).take g
  let c := m.cont m.dfmt
  (rowOf c (rows.flatMap fun x => (m.drainRow x).1), byteMask 0 (rows.length * 16 * c))

/-- The row of scale bytes of MDRN (R166). -/
def drainScales (r : MRun) : Row × Pred :=
  (rowOf 8 (r.rows.flatMap fun x => (r.cmd.drainRow x).2.2), BitVec.allOnes 512)

/-- The flags of MDRN. -/
def drainFlags (r : MRun) : FlagSet := flagsUnion (r.rows.map fun x => (r.cmd.drainRow x).2.1)

/-- The tiles MDRN publishes (R166). -/
def MCmd.tilesNamed (m : MCmd) : List Nat :=
  ((List.range m.rowsNamed).map fun i => tileOf m.o.blk.toNat (m.row0 + i)).eraseDups

/-! ## Cycle by cycle -/

/-- A row the command reads in this cycle (R158): scratchpad rows from s[A], or the accumulator rows of a drain. -/
def runRead (core : Nat) (r : MRun) (s : State) : State :=
  let m := r.cmd
  let put (f : MRun → MRun) (s : State) : State :=
    updCore core (fun k => { k with mrun := k.mrun.map fun x => if x.cmd.id = m.id then f x else x }) s
  if r.reads.length < m.nread ∧ r.start + r.reads.length ≤ now s then
    let (v, s) := readRow core (rowKey m.o.blk.toNat (m.row0 + r.reads.length)) s
    put (fun x => { x with reads := x.reads ++ [v] }) s
  else if (m.kind = .mdrn ∨ m.kind = .mdrc) ∧ r.rows.length < m.rc ∧ r.start + r.rows.length ≤ now s then
    let (v, s) := readAccRows core m.o.acc.toNat (m.arow + r.rows.length) 1 s
    let s := put (fun x => { x with rows := x.rows ++ v }) s
    if m.kind = .mdrc then
      updCore core (fun k => { k with cq := k.cq.map fun c =>
        if c.id = m.id then { c with src := c.src ++ v, srcLeft := c.srcLeft.tail } else c }) s
    else s
  else s

/-- The reads of a core's running commands in this cycle. -/
def matrixReads (core : Nat) (s : State) : State :=
  (coreOf s core).mrun.foldl (fun s r => runRead core r s) s

/-- The row MDRN presents on ba5 and bb5 to the bundle of the next cycle, whichever context of the core issues it (R74,
R166; DEDUCED, log 75). -/
def presentDrain (core : Nat) (v : Row) (s : State) : State :=
  (List.range 5).foldl (fun s sl => updCtx (ctxId core sl) (fun c => { c with regs := { c.regs with
    byp := tset 0 13 v (tset 0 5 v c.regs.byp)
    bypPois := setBit (setBit c.regs.bypPois 5 false) 13 false } }) s) s

/-- A row write of MDRN (R166). -/
def drainWrite (core : Nat) (r : MRun) (j : Nat) (s : State) : State :=
  let m := r.cmd
  let d := if j < m.nd then drainData r j else drainScales r
  let key := rowKey m.o.blk.toNat (m.row0 + j)
  let s := writeRow core key d.1 d.2 s
  presentDrain core (rowAt (coreOf s core) key) s

/-- What a running command writes at the end of this cycle (R158, R161, R162, R165, R166). -/
def runWrite (core : Nat) (r : MRun) (s : State) : State :=
  let m := r.cmd
  let at_ := now s - r.start
  match m.kind with
  | .mma => if m.mrows ≠ 0 ∧ at_ = 23 + m.feed then mmaWrite core r s else s
  | .mdrn => (m.writes.filter (·.1 == at_)).foldl (fun s w => drainWrite core r w.2 s) s
  | .mclr =>
    if m.rc ≠ 0 ∧ at_ = 1 then
      (List.range m.rc).foldl (fun s i => writeAcc core m.o.acc.toNat (m.arow + i) 0 (BitVec.allOnes 512) s) s
    else s
  | .mwsw => if at_ = 0 then updCore core (fun k => { k with mx := { k.mx with act := k.mx.act ^^^ 1 } }) s else s
  | .mmsk =>
    if at_ = 0 then
      updCore core (fun k => { k with mx := { k.mx with
        doff := m.b.extractLsb' 0 8, bw := m.b.extractLsb' 8 8 } }) s
    else s
  | _ => s

/-- The blocks that running commands write at the end of this cycle (R66, R166). -/
def drainBlocks (s : State) (core : Nat) : List Nat :=
  ((coreOf s core).mrun.filter fun r => r.cmd.writes.any (·.1 == now s - r.start)).map (·.cmd.o.blk.toNat)

/-- A drain's row is presented for one bundle alone (R74). -/
def clearDrain (core : Nat) (s : State) : State :=
  (List.range 5).foldl (fun s sl => updCtx (ctxId core sl) (fun c =>
    { c with regs := { c.regs with byp := tdel 13 (tdel 5 c.regs.byp) } }) s) s

/-- The writes of a core's running commands at the end of this cycle, in queue order. -/
def matrixWrites (core : Nat) (s : State) : State :=
  (coreOf s core).mrun.foldl (fun s r =>
    match (coreOf s core).mrun.find? (·.cmd.id == r.cmd.id) with
    | some r => runWrite core r s
    | none => s) (clearDrain core s)

/-! ## The begin -/

/-- A command leaves the M queue. -/
def dropMCmd (core id : Nat) (s : State) : State :=
  updCore core (fun k => { k with mq := k.mq.filter (·.id != id) }) s

/-- An earlier command's release lies ahead (R54, R158). -/
def unreleased (s : State) (r : MRun) : Bool := decide (now s < r.start + r.cmd.release)
/-- A command's completion lies ahead. -/
def incomplete (s : State) (r : MRun) : Bool := decide (now s < r.start + r.cmd.done)

/-- The engine is ready for a command at t+S (R54, R159). The rows an MMA names are in flight until its completion, one of
an active bank with NV = 0 that writes none of them too (R164; DEDUCED, log 84). -/
def engineReady (s : State) (core : Nat) (m : MCmd) : Bool :=
  let k := coreOf s core
  let loading := k.mrun.any fun r => r.cmd.kind == .mlw && incomplete s r
  let inFlight := k.mrun.any fun r => r.cmd.kind == .mma && incomplete s r && sharesRows r.cmd m
  match m.kind with
  | .mlw => !loading && !(k.mrun.any fun r => r.cmd.kind == .mwsw && unreleased s r)
  | kind =>
    !(k.mrun.any (unreleased s)) && (kind != .mwsw || !loading) &&
      ((kind != .mdrn && kind != .mdrc && kind != .mclr) || !inFlight) &&
      (kind != .mdrc || decide ((k.cq.filter (·.kind == .mdrc)).length < 8))

/-- The active latch bank. -/
def activeBank (x : Mx) : Bank := if x.act = 0 then x.bank0 else x.bank1

/-- The operand kinds disagree (R159). -/
def kindMismatch (x : Mx) (m : MCmd) : Bool :=
  let b := activeBank x
  m.kind == .mma &&
    (b.intw != (m.o.int == 1) || (m.o.int == 1 && (!m.isInteger m.afmt || b.wsc || m.asc)))

/-- The tiles a matrix command reads (R71). -/
def MCmd.tilesRead (m : MCmd) : List Nat :=
  ((List.range m.nread).map fun i => tileOf m.o.blk.toNat (m.row0 + i)).eraseDups

/-- What stops a command at t+S (R54, R159, R214): its cause, its detail, and TRAPV.VAL (R254). -/
def beginFault (s : State) (core : Nat) (m : MCmd) : Option Raise :=
  let c := ctxOf s (ctxId core m.slot)
  let k := coreOf s core
  let w := m.h.wsem.toNat
  let r := tget 0 w c.reasons
  if w ≠ 0 ∧ r ≠ 0 then some ⟨reasonCause r, r, w⟩
  else if !semOk k w m.h.wthr.toNat || !engineReady s core m then some ⟨0x04, 0, m.bundle⟩
  else
    match tagMismatch k c m.tilesRead with
    | some t => some ⟨0x04, 0, t⟩
    | none => if kindMismatch k.mx m then some ⟨0x05, 0, m.bundle⟩ else none

/-- A boundary cause of a command at t+S, from the syllable of its slot (R254). -/
def commandFault (id syl : Nat) (r : Raise) (s : State) : State :=
  noteBoundary id
    { cause := r.cause, slot := id % 5, async := true, fetch := false, detail := r.detail
      va := bundleVa (ctxOf s id), syl := syl, val := r.val } s

/-- The reason a wait raises is cleared with it (R214, R265). -/
def clearReason (id : Nat) (r : Raise) (s : State) : State :=
  if r.cause = 0x10 ∨ r.cause = 0x0A then
    updCtx id (fun c => { c with reasons := tset 0 r.val 0 c.reasons }) s
  else s

/-- The copy-engine command a drain to memory becomes (R167): its signal and its wait are the matrix command's, already
served; the fences in force at its own issue still hold it (R202, R209); FR and INT stand in fields an untimed write
leaves unused. -/
def MCmd.copy (m : MCmd) : Cmd :=
  { id := m.id, slot := m.slot, kind := .mdrc
    h := { m.h with wsem := 0, wthr := 0, start := 0x3FFF, g := 0, gn := 0 }
    o := { sh := m.a.extractLsb' 0 5, zero := 0, a := m.o.a, b := m.o.b, c := m.o.fr.setWidth 6, acq := 0
           rel := m.a.extractLsb' 16 1, agent := m.a.extractLsb' 17 3, store := m.a.extractLsb' 20 3
           gsub := m.o.int.setWidth 4 }
    a := m.a, b := m.b, c := 0, shape := m.shape, num := m.num, bundle := m.bundle, fences := m.fences
    rel := m.rel
    stage := .queued, start := 0, srcLeft := (List.range m.rc).map fun i => (m.o.acc.toNat, m.arow + i)
    src := [], graph := [], held := [], total := none, next := 0, got := [], wq := [], pubs := [], sent := false
    filled := false, reason := 0, flags := 0, subst := 0, failed := 0, wake := m.issued }

/-- A drain to memory enters its context's CP queue in a hand-off buffer (R167). -/
def handOff (core : Nat) (m : MCmd) (s : State) : State := updCore core (fun k => { k with cq := k.cq ++ [m.copy] }) s

/-- A matrix command begins (R158): it takes the bank and the mask as they stand, and reads its first row. -/
def startMatrix (core : Nat) (m : MCmd) (s : State) : State :=
  let k := coreOf s core
  let run : MRun :=
    { cmd := m, start := now s, reads := [], bank := if m.kind = .mma then activeBank k.mx else Bank.reset
      rows := [], doff := k.mx.doff, bw := k.mx.bw, flags := 0, subst := 0 }
  let s := updCtx (ctxId core m.slot) (noteCompared m.tilesRead) s
  let s := if m.kind = .mdrc ∧ m.rc ≠ 0 then handOff core m s else s
  runRead core run (updCore core (fun k => { k with mrun := k.mrun ++ [run] }) s)

/-- A matrix command at its t+S (R54, R159, R320). -/
def beginMatrix (core : Nat) (m : MCmd) (s : State) : State :=
  let id := ctxId core m.slot
  let c := ctxOf s id
  let head := ((coreOf s core).mq.head?.map (·.id)) == some m.id
  let s' := dropMCmd core m.id s
  let g := m.h.g.toNat
  if !head || !gresolved c g then commandFault id 5 ⟨0x04, 0, m.bundle⟩ s'
  else if gget c g == (m.h.gn == 1) then
    sendSignal core m.slot m.h.ssem.toNat m.h.inc.toNat (now s) .mEngine s'
  else
    match beginFault s core m with
    | some r => clearReason id r (commandFault id 5 r s')
    | none => startMatrix core m s'

/-! ## The completion -/

/-- An engine command's flags land at the end of the cycle in which it completes (R107). -/
def landFlags (id : Nat) (fl : FlagSet) (sub : BitVec 16) (s : State) : State :=
  if fl = 0 ∧ sub = 0 then s
  else updCtx id (fun c => { c with late := { c.late with
    flags := c.late.flags ||| fl, subst := c.late.subst ||| sub } }) s

/-- What engine commands left for the end of the cycle takes effect. -/
def settleLate (c : Ctx) : Ctx :=
  { c with
    ctl := { c.ctl with flags := c.ctl.flags ||| c.late.flags, subst := c.ctl.subst ||| c.late.subst }
    regs := { c.regs with sh := c.late.shapes.foldl (fun m e => tset 0 e.1 e.2 m) c.regs.sh }
    late := Late.reset }

/-- The first running command whose completion has come. -/
def dueMatrix (s : State) (core : Nat) : Option MRun :=
  (coreOf s core).mrun.find? fun r => !incomplete s r

/-- The flags and SUBST bits of a completing command. -/
def runFlags (r : MRun) : FlagSet × BitVec 16 :=
  let m := r.cmd
  match m.kind with
  | .mlw =>
    let sub := if m.nw = 0 then 0 else substOf m.wfmt
    (m.loadFlags r.reads ||| flagIf (sub != 0) flagSubst, sub)
  | .mdrn => (drainFlags r, 0)
  | _ => (r.flags, r.subst)

/-- The bank of a completing MLW is latched; the destination tiles of a completing MDRN are published (R160, R166; R69
would publish each after its own last row, and R166 is followed: DEDUCED, log 63). -/
def runEffect (core : Nat) (r : MRun) (s : State) : State :=
  let m := r.cmd
  match m.kind with
  | .mlw =>
    let b := m.bank r.reads
    updCore core (fun k => { k with mx :=
      if k.mx.act = 0 then { k.mx with bank1 := b } else { k.mx with bank0 := b } }) s
  | .mdrn => if m.pub then m.tilesNamed.foldl (fun s t => publish core (now s) 0 t m.ptag s) s else s
  | _ => s

/-- A command completes (R158): its effect, its flags (R107), and its signal (R56). An MDRC that drained rows
goes on in its hand-off buffer. -/
def completeMatrix (core : Nat) (r : MRun) (s : State) : State :=
  let m := r.cmd
  let s := updCore core (fun k => { k with mrun := k.mrun.filter (·.cmd.id != m.id) }) s
  if m.kind = .mdrc ∧ m.rc ≠ 0 then s
  else
    let (fl, sub) := runFlags r
    sendSignal core m.slot m.h.ssem.toNat m.h.inc.toNat (now s) .mEngine
      (landFlags (ctxId core m.slot) fl sub (runEffect core r s))

/-- MATRIX_COMMAND_COMPLETION (R158). -/
def execMatrixCommandCompletion (core : Nat) (s : State) : Host.Outcome State Fault Refusal :=
  match dueMatrix s core with
  | none => .next s
  | some r => .next (completeMatrix core r s)

end Sys2Proof.Machine
end

