-- ==== Sys2Proof/Machine/Copy.lean ====
section
/-! DEFINITION. The copy-engine commands at issue (R22, R53, R68, R73, R131, R169 to R174, R181, R225, R277 to R279,
R281, R288 to R295, R306, R329, R339, R342, R372), and the issue of MDRC (R167): operands, checks, and the CP
queue. -/

namespace Sys2Proof.Machine

/-! ## Operands -/

/-- The graph slot of a CPY or CPW (R181). -/
def Cmd.gslot (c : Cmd) : Nat := if c.o.gsub = 0 then Shape.graph c.shape else c.o.gsub.toNat

/-- A graph stream (R181). -/
def Cmd.streams (c : Cmd) : Bool := (c.kind == .cpy || c.kind == .cpw) && c.gslot != 0

/-- The slot a command waits for while a STRM loads it (R188, R342). -/
def Cmd.usesSlot (c : Cmd) : Option Nat :=
  if c.kind = .strm then some c.o.gsub.toNat else if c.streams then some c.gslot else none

/-- The format code on the scratchpad side (R174): FMT, or the graph's SFMT. -/
def Cmd.sideCode (c : Cmd) : Nat := if c.graph.isEmpty then Shape.fmt c.shape else gSfmt c.graph

/-- The container on the scratchpad side. -/
def Cmd.sideCont (c : Cmd) : Nat := codeCont c.num.fm c.sideCode
/-- The width on the scratchpad side. -/
def Cmd.sideWidth (c : Cmd) : Nat := codeWidth c.num.fm c.sideCode
/-- The container in memory. -/
def Cmd.memCont (c : Cmd) : Nat := codeCont c.num.fm (Shape.fmt c.shape)
/-- The width in memory. -/
def Cmd.memWidth (c : Cmd) : Nat := codeWidth c.num.fm (Shape.fmt c.shape)

/-- N of a gather, a scatter or a VAMO (R289, R372). -/
def Cmd.count (c : Cmd) : Nat := bits c.c 12 0

/-- The block and first row named by s[A]. -/
def Cmd.locA (c : Cmd) : Nat × Nat := (rowLoc c.a).getD (0, 0)
/-- The block and first row named by s[B]. -/
def Cmd.locB (c : Cmd) : Nat × Nat := (rowLoc c.b).getD (0, 0)

/-- NROWS of a destination word (R291). -/
def Cmd.nrows (c : Cmd) : Nat := bits c.b 22 13

/-- The bytes of a VAMO's operands for one element (R372). -/
def Cmd.vamoSize (c : Cmd) : Nat :=
  let size := 2 ^ bits c.c 15 14
  if c.o.gsub = 10 then 32 else if c.o.gsub = 9 then 2 * size else size

/-- The scratchpad-side rows of a box or of a gather (R174, R279, R289). -/
def Cmd.boxRows (c : Cmd) : Nat :=
  match c.kind with
  | .cpg => rowsOfBox false (Shape.box c.shape 0 * c.count) c.sideCont c.sideWidth
  | .cps => rowsOfBox false (Shape.box c.shape 0 * c.count) c.sideCont c.sideWidth
  | _ => rowsOfBox (Shape.plane c.shape) (Shape.positions c.shape) c.sideCont c.sideWidth

/-- Rows from one on. -/
def rowRun (l : Nat × Nat) (n : Nat) : List (Nat × Nat) := (List.range n).map fun i => (l.1, l.2 + i)

/-- The rows a command reads, in order (R279). -/
def Cmd.sources (c : Cmd) : List (Nat × Nat) :=
  let w (x : W64) : List (Nat × Nat) := [((wordLoc x).blk, (wordLoc x).row)]
  match c.kind with
  | .cpw => if originNull c.b then [] else rowRun c.locA c.boxRows
  | .cpaa => if originNull c.b then [] else rowRun c.locA c.boxRows
  | .cpx => rowRun c.locA c.nrows
  | .cpmc => w c.c ++ rowRun c.locA c.nrows
  | .cpg => rowRun c.locB (ceilDiv c.count 128)
  | .cps => rowRun c.locB (ceilDiv c.count 128) ++ rowRun c.locA c.boxRows
  | .cpst => w c.b
  | .amo => w c.b
  | .vamo => rowRun c.locA (ceilDiv c.count 64) ++ rowRun c.locB (ceilDiv (c.count * c.vamoSize) 512)
  | .shpl => [(bits c.a 12 10, bits c.a 9 0)]
  | _ => []

/-- The rows a command names (R68, R277): its sources and its destinations. -/
def Cmd.named (c : Cmd) : List (Nat × Nat) :=
  match c.kind with
  | .cpy => rowRun c.locA c.boxRows
  | .cpw => rowRun c.locA c.boxRows
  | .cpaa => rowRun c.locA c.boxRows
  | .cpg => rowRun c.locA c.boxRows ++ c.sources
  | .cpld => [((wordLoc c.b).blk, (wordLoc c.b).row)]
  | _ => c.sources

/-! ## Checks -/

/-- The graph that stands in a slot of a partition: none when the slot is empty. -/
def graphIn (s : State) (p k : Nat) : List W64 :=
  match tget none k (partAt s p).memory.graphs with
  | some g => g.graph
  | none => []

/-- A STRM is loading a slot (R188). -/
def slotLoading (s : State) (p k : Nat) : Bool :=
  match tget none k (partAt s p).memory.graphs with
  | some g => g.loading
  | none => false

/-- BASE is a multiple of a size in bytes (R175). -/
def baseAligned (c : Cmd) (n : Nat) : Bool := Shape.base c.shape % n == 0

/-- The checks a stream makes against the graph it names (R181): all pass on an empty slot. -/
def graphFits (c : Cmd) : Bool :=
  let g := c.graph
  g.isEmpty ||
    (gDir g == (if c.kind = .cpw then 2 else 1) && gMfmt g == Shape.fmt c.shape &&
      ((gState g).isNone || c.c != 0) && (fmtOfCode c.num.fm 0 (gMfmt g)).isSome &&
      (fmtOfCode c.num.fm 0 (gSfmt g)).isSome)

/-- The graph conditions of a CPY or CPW (R175, R181, R294): BASE is aligned to its elements, and the result record's
address to 64 bytes. -/
def streamOk (c : Cmd) : Bool :=
  c.gslot == 0 || (c.c.toNat % 64 == 0 && baseAligned c (max 1 (c.memCont / 8)) && graphFits c)

/-- A destination word and its source within their limits (R291). -/
def deliveryOk (c : Cmd) (cores : Nat) : Bool :=
  (rowLoc c.a).isSome && !nzBits c.b 46 44 && !c.b.getLsbD 23 && bits c.b 9 0 + c.nrows ≤ 768 &&
    c.locA.2 + c.nrows ≤ 768 &&
    (if c.kind = .cpmc then !nzBits c.b 31 24 else decide (bits c.b 31 24 < cores))

/-- A word locator's SIZE and the alignment of s[A] for AMO (R281); a .cas has both words in the row (DEDUCED,
log 16). -/
def amoOk (c : Cmd) : Bool :=
  let l := wordLoc c.b
  if c.o.gsub = 10 then wordLocOk c.b 32 && bits c.b 23 22 == 0 && c.a.toNat % 32 == 0
  else
    wordLocOk c.b 1 && 2 ≤ bits c.b 23 22 && c.a.toNat % l.size == 0 &&
      (c.o.gsub != 9 || decide (l.byte + 2 * l.size ≤ 512))

/-- The control word and lists of a VAMO (R372). -/
def vamoOk (c : Cmd) : Bool :=
  !nzBits c.c 63 17 && !c.c.getLsbD 13 && c.count ≤ 4096 &&
    (if c.o.gsub = 10 then bits c.c 15 14 == 0 else 2 ≤ bits c.c 15 14) &&
    (rowLoc c.a).isSome && (rowLoc c.b).isSome && c.locA.2 + ceilDiv c.count 64 ≤ 768 &&
    c.locB.2 + ceilDiv (c.count * c.vamoSize) 512 ≤ 768

/-- A gather or scatter (R289). -/
def gatherOk (c : Cmd) : Bool :=
  let x := c.shape
  Shape.ndim x == 2 && Shape.box x 1 == 1 && !Shape.plane x && Shape.graph x == 0 &&
    (c.kind == .cpg || !Shape.pub x) && !nzBits c.c 63 13 && c.count ≤ 4096 && (rowLoc c.a).isSome &&
    (rowLoc c.b).isSome

/-- An add of a box into memory (R175, R288). -/
def addOk (c : Cmd) : Bool :=
  let x := c.shape
  Shape.graph x == 0 && !Shape.pub x && !Shape.plane x && (rowLoc c.a).isSome &&
    (if c.o.gsub = 0 then (Shape.fmt x == 3 || Shape.fmt x == 7) && baseAligned c 4
     else Shape.fmt x == 8 && !nzBits c.c 63 8 && baseAligned c 32)

/-- The operands lie within their limits (R277). -/
def copyOk (c : Cmd) (cores : Nat) : Bool :=
  let shape := shapeValid c.num.fm c.shape
  match c.kind with
  | .cpy => shape && (rowLoc c.a).isSome && streamOk c
  | .cpw => shape && (rowLoc c.a).isSome && !Shape.pub c.shape && streamOk c
  | .cpx => deliveryOk c cores
  | .cpmc => deliveryOk c cores && wordLocOk c.c 32 && bits c.c 23 22 == 0
  | .cpg => shape && gatherOk c
  | .cps => shape && gatherOk c
  | .cpaa => shape && addOk c
  | .cpld => wordLocOk c.b 1 && c.a.toNat % (wordLoc c.b).size == 0
  | .cpst => wordLocOk c.b 1 && c.a.toNat % (wordLoc c.b).size == 0
  | .amo => amoOk c
  | .vamo => vamoOk c
  | .pft => shape
  | .strm => c.a.toNat % 64 == 0
  | .invp => decide (c.b.toNat ≤ 2 ^ 36 ∧ c.a.toNat + c.b.toNat ≤ 2 ^ 57)
  | .shpl => !nzBits c.a 63 16 && bits c.a 9 0 ≤ 767
  | .mdrc => true

/-- The C field of a CPY or CPW without a graph must be zero (R293, R294). -/
def strayC (c : Cmd) : Bool := (c.kind == .cpy || c.kind == .cpw) && c.gslot == 0 && c.o.c != 0

/-- The command a CP syllable queues (R172, R277): what it reads at its issue. -/
def mkCmd (kind : CKind) (h : EHdr) (o : COp) (id : Nat) (s : State) : Cmd :=
  let x := cur s
  let c : Cmd :=
    { id := id, slot := s.slot, kind := kind, h := h, o := o, a := sget x o.a.toNat, b := sget x o.b.toNat
      c := sget x o.c.toNat, shape := tget 0 o.sh.toNat x.regs.sh, num := numCtl x, bundle := bundleVa x
      fences := x.fences
      rel := if o.rel = 1 then some (releaseNow s (curId s) o.agent.toNat o.store) else none
      stage := .queued, start := 0, srcLeft := [], src := [], graph := [], held := [], total := none
      next := 0, got := [], wq := [], pubs := [], sent := false, filled := false, reason := 0, flags := 0, subst := 0
      failed := 0, wake := now s }
  let c := if c.streams then { c with graph := graphIn s (curPart s) c.gslot } else c
  { c with srcLeft := c.sources }

/-- Everything a CP command raises at issue (R22, R53, R68, R73, R170, R225, R277, R279); untimed commands of the
supervisor bypass R68 (R257). -/
def copyRaises (e : Enc) (c : Cmd) (s : State) : List Raise :=
  let x := cur s
  let k := curCore s
  let cores := (partCores s.dev (curPart s)).length
  let full := decide (queueCap s.slot ≤ queueLen k s.slot)
  let stray := c.named.find? fun r => !rowStands k s.slot r
  encRaises e ++ chk (strayC c) 0x02 ++ chk (!copyOk c cores) 0x01 ++ chk (isSuper s && timed c.h) 0x03 ++
    chk (spois x c.o.a.toNat || spois x c.o.b.toNat || spois x c.o.c.toNat) 0x06 ++
    (match stray with | some r => [⟨0x08, 0, r.2⟩] | none => []) ++
    chk (!semMine x c.h.wsem.toNat || !semMine x c.h.ssem.toNat) 0x08 ++
    chk ((timed c.h && (decide (c.h.start.toNat ≤ x.pos.clk) ||
      conflicts (copyClaims ((c.h.start.toNat : Int) - x.pos.clk) c.srcLeft) (claims s s.core s.slot))) ||
      (full && !s.bnd.sill)) 0x04

/-- A CP command at issue (R170, R277): into its context's queue, or, with the queue full at a sill point, the
bundle waits. -/
def copyStep (e : Enc) (kind : CKind) (h : EHdr) (o : COp) (s : State) : Host.Outcome State Fault Refusal :=
  let (n, s') := fresh s
  let c := mkCmd kind h o n s
  syllableStep .cp (copyRaises e c s)
    (fun s => if queueCap s.slot ≤ queueLen (curCore s) s.slot then stall .queue s
      else updCurCore (fun k => { k with cq := k.cq ++ [c] }) s') s

/-- CPY (R294). -/
def execCpy (h : EHdr) (o : COp) (s : State) := copyStep (enc (.cpy h o)) .cpy h o s
/-- CPW (R293). -/
def execCpw (h : EHdr) (o : COp) (s : State) := copyStep (enc (.cpw h o)) .cpw h o s
/-- CPX (R292). -/
def execCpx (h : EHdr) (o : COp) (s : State) := copyStep (enc (.cpx h o)) .cpx h o s
/-- CPMC (R292). -/
def execCpmc (h : EHdr) (o : COp) (s : State) := copyStep (enc (.cpmc h o)) .cpmc h o s
/-- CPG (R289). -/
def execCpg (h : EHdr) (o : COp) (s : State) := copyStep (enc (.cpg h o)) .cpg h o s
/-- CPS (R289). -/
def execCps (h : EHdr) (o : COp) (s : State) := copyStep (enc (.cps h o)) .cps h o s
/-- CPAA (R288). -/
def execCpaa (h : EHdr) (o : COp) (s : State) := copyStep (enc (.cpaa h o)) .cpaa h o s
/-- CPLD (R290). -/
def execCpld (h : EHdr) (o : COp) (s : State) := copyStep (enc (.cpld h o)) .cpld h o s
/-- CPST (R290). -/
def execCpst (h : EHdr) (o : COp) (s : State) := copyStep (enc (.cpst h o)) .cpst h o s
/-- AMO (R281). -/
def execAmo (h : EHdr) (o : COp) (s : State) := copyStep (enc (.amo h o)) .amo h o s
/-- VAMO (R372). -/
def execVamo (h : EHdr) (o : COp) (s : State) := copyStep (enc (.vamo h o)) .vamo h o s
/-- PFT (R329). -/
def execPft (h : EHdr) (o : COp) (s : State) := copyStep (enc (.pft h o)) .pft h o s
/-- STRM (R342). -/
def execStrm (h : EHdr) (o : COp) (s : State) := copyStep (enc (.strm h o)) .strm h o s
/-- INVP (R306). -/
def execInvp (h : EHdr) (o : COp) (s : State) := copyStep (enc (.invp h o)) .invp h o s
/-- SHPL (R339). -/
def execShpl (h : EHdr) (o : COp) (s : State) := copyStep (enc (.shpl h o)) .shpl h o s

/-- The shape record of an MDRC (R167, R172, R175): adds want BASE aligned to what they add. -/
def drainShapeOk (m : MCmd) (_ : State) : Bool :=
  shapeValid m.num.fm m.shape &&
    (match bits m.a 6 5 with
     | 1 => Shape.base m.shape % 4 == 0
     | 2 => Shape.base m.shape % 32 == 0
     | _ => true)

/-- MDRC (R167). -/
def execMdrc (h : EHdr) (o : MOp) (s : State) := matrixStep (enc (.mdrc h o)) .mdrc h o drainShapeOk s

end Sys2Proof.Machine
end

