-- ==== Sys2Proof/Machine/CopyPlan.lean ====
section
/-! DEFINITION. What a begun copy-engine command does to memory, as plain data (R116, R117, R167, R173 to R175,
R181 to R186, R281, R288 to R295, R372, R373): its packets, the bits they write, its atomics, and where answers go
in the scratchpad. -/

namespace Sys2Proof.Machine

/-! ## Sources -/

/-- The rows of the index list (R289). -/
def Cmd.indexRows (c : Cmd) : Nat := ceilDiv c.count 128
/-- The index list (R289). -/
def Cmd.index (c : Cmd) : List Nat := (List.range c.count).map fun j => rowsBits c.src (32 * j) 32

/-- The source rows of the box. -/
def Cmd.boxSrc (c : Cmd) : List Row :=
  match c.kind with
  | .cps => c.src.drop c.indexRows
  | .cpmc => c.src.drop 1
  | _ => c.src

/-- OPK of an MDRC (R167). -/
def Cmd.opk (c : Cmd) : Nat := bits c.a 6 5

/-- A bin-triple command (R281, R288, R167). -/
def Cmd.triples (c : Cmd) : Bool :=
  match c.kind with
  | .cpaa => c.o.gsub == 1
  | .mdrc => c.opk == 2
  | .amo => c.o.gsub == 10
  | .vamo => c.o.gsub == 10
  | _ => false

/-- Emax (R116, R167, R288). -/
def Cmd.emax (c : Cmd) : Int := if c.kind = .mdrc then (c.a.extractLsb' 8 8).toInt else (c.c.extractLsb' 0 8).toInt

/-- The matrix command an MDRC was, for its conversions (R166, R167). -/
def Cmd.drain (c : Cmd) : MCmd :=
  { id := c.id, slot := c.slot, kind := .mdrc, h := c.h
    o := { acc := 0, a := 0, b := 0, fr := c.o.c.extractLsb' 0 3, blk := 0, sv := 0, ssel := 0, zero := 0, band := 0
           tri := 0, int := c.o.gsub.extractLsb' 0 1, clr := 0 }
    a := c.a, b := c.b, sv := 0, shape := c.shape, num := c.num, bundle := c.bundle, issued := 0, fences := [], rel := none }

/-! ## The walk -/

/-- The bits between elements in memory (R173, R288). -/
def Cmd.step (c : Cmd) : Nat :=
  if c.triples then 256 else if c.kind = .mdrc ∧ c.opk = 1 then 32 else c.memCont

/-- The bits of an element in memory: of an MDRC's store, the container it converts to (R167; DEDUCED, log 17). -/
def Cmd.elemBits (c : Cmd) : Nat :=
  if c.kind = .mdrc ∧ c.opk = 0 then c.drain.cont c.drain.dfmt else c.step

/-- The positions of an MDRC (R167): drained row `i`, column `n` is box coordinate (n, i); one outside the box is
clipped (DEDUCED, log 17). -/
def Cmd.drainWalk (c : Cmd) : List Pos0 :=
  let x := c.shape
  (List.range c.drain.rc).flatMap fun i => (List.range 128).map fun n =>
    let xs := [n, i, 0, 0, 0].take (Shape.ndim x)
    let ok := decide (n < Shape.box x 0) && decide (i < Shape.box x 1) &&
      xs.zipIdx.all fun p => decide (p.1 < Shape.clip x p.2)
    let e := xs.zipIdx.foldl (fun (t : Int) p => t + (p.1 : Int) * Shape.stride x p.2) 0
    ⟨128 * i + n, if ok then some (elemAddr (Shape.base x) c.step e) else none⟩

/-- The walk of a command over its positions (R173, R289). -/
def Cmd.walk (c : Cmd) : List Pos0 :=
  match c.kind with
  | .cpg => indexWalk c.shape c.index c.step
  | .cps => indexWalk c.shape c.index c.step
  | .mdrc => c.drainWalk
  | .pft => if originNull c.b then [] else boxWalk c.shape c.b c.step
  | _ => if originNull c.b then [] else boxWalk c.shape c.b c.step

/-- The present positions (R173). -/
def Cmd.present (c : Cmd) : List Nat := (c.walk.filter (·.addr.isSome)).map (·.q)

/-- The size of an AMO's or VAMO's operand in bytes (R281, R372). -/
def Cmd.opSize (c : Cmd) : Nat :=
  if c.o.gsub = 10 then 32 else if c.kind = .amo then (wordLoc c.b).size else 2 ^ bits c.c 15 14

/-- The address of a VAMO's element, none when inactive (R372). -/
def Cmd.elemVa (c : Cmd) (k : Nat) : Option Nat :=
  let a := rowsBits c.src (64 * k) 64
  if a < 2 ^ 63 then some a else none

/-- One packet for one atomic (R281, R373). -/
def atomPlan (q a size : Nat) : Plan := ⟨((a / 256 : Nat) : Int), [⟨q, 0, 8 * size, 8 * (a % 256)⟩]⟩

/-- The packets of a command's elements in walk order (R175). -/
def Cmd.mainPlans (c : Cmd) : List Plan :=
  match c.kind with
  | .cpld => planBytes c.a.toNat (wordLoc c.b).size
  | .cpst => planBytes c.a.toNat (wordLoc c.b).size
  | .amo => [atomPlan 0 c.a.toNat c.opSize]
  | .vamo => (List.range c.count).filterMap fun k => (c.elemVa k).map fun a => atomPlan k a c.opSize
  | .strm => planBytes c.a.toNat 384
  | .invp => []
  | .shpl => []
  | .cpx => []
  | .cpmc => []
  | _ => planWalk c.elemBits c.walk

/-! ## Graph streams -/

/-- The controls and the side bytes of a stream (R181, R184): `sideGot` are the side bytes read. -/
def Cmd.env (c : Cmd) (sideGot : List (Nat × Nat)) : GEnv :=
  { num := c.num, side := fun p => ((sideGot.find? fun x => x.1 == p / 32).map (·.2)).getD 0 }

/-- The graph names the side stream: SCALE in a read graph, QSCALE in a write graph (R184). -/
def usesSide (g : List W64) : Bool := (gNodes g).any fun n => n.op == 0x21 || n.op == 0x22

/-- The bytes of the side stream a command touches (R184): none for a group of 32 positions that are all clipped
(DEDUCED, log 85). -/
def Cmd.sidePlans (c : Cmd) : List Plan :=
  if usesSide c.graph then
    planWalk 8 ((c.present.map (· / 32)).eraseDups.map fun j =>
      ⟨j, some (8 * ((Shape.side c.shape + j : Nat) : Int))⟩)
  else []

/-- The result record's packet (R186): none for a NULL origin, which transfers nothing (R173). -/
def Cmd.recordPlans (c : Cmd) : List Plan :=
  if !c.graph.isEmpty && c.c != 0 && !originNull c.b then planBytes c.c.toNat 64 else []

/-- Every packet of a command: its elements, its side stream, its result record. -/
def Cmd.plans (c : Cmd) : List Plan := c.mainPlans ++ c.sidePlans ++ c.recordPlans

/-- The stream of a write graph: its present elements in the scratchpad-side format, right-aligned with zero fill (R182). -/
def Cmd.writeStream (c : Cmd) : Col :=
  c.present.map fun q => (q, boxElem (Shape.plane c.shape) c.sideCont c.sideWidth c.boxSrc q % 2 ^ c.sideWidth)

/-- The bits a packet answered, by its number. -/
def Cmd.answer (c : Cmd) (i : Nat) : List (Nat × Byte) := ((c.got.find? fun g => g.1 == i).map (·.2)).getD []

/-- The elements of a packet in its answer. -/
def planWords (p : Plan) (rd : List (Nat × Byte)) : Col := p.pieces.map fun x => (x.q, pieceBits rd x)

/-- The elements of a read graph in words of memory: right-aligned with zero fill (R81, R182). -/
def Cmd.elements (c : Cmd) (words : Col) : Col := words.map fun x => (x.1, x.2 % 2 ^ c.memWidth)

/-- The stream of a read graph: its present elements as memory gave them. -/
def Cmd.readStream (c : Cmd) : Col :=
  let words := c.elements (c.mainPlans.zipIdx.flatMap fun p => planWords p.1 (c.answer p.2))
  c.present.map fun q => (q, (colAt words q).getD 0)

/-- The side bytes read. -/
def Cmd.sideGot (c : Cmd) : List (Nat × Nat) :=
  let n := c.mainPlans.length
  c.sidePlans.zipIdx.flatMap fun p => planWords p.1 (c.answer (n + p.2))

/-- The stream of a graph command. -/
def Cmd.stream (c : Cmd) : Col := if c.kind = .cpw then c.writeStream else c.readStream

/-- What the graph makes of the whole stream (R185). -/
def Cmd.run (c : Cmd) : GRun := gEval (c.env c.sideGot) c.graph c.stream

/-! ## What packets write -/

/-- The word of position `q` that a writing command sends (R167, R289, R290, R293), with its flags. -/
def Cmd.outWord (c : Cmd) (q : Nat) : Nat × FlagSet :=
  match c.kind with
  | .cpst => (bits (n := 4096) ((c.src.headD 0) >>> (8 * ((wordLoc c.b).byte + q))) 7 0, 0)
  | .cps => (rowsBits c.boxSrc (q * c.sideCont) c.sideCont, 0)
  | .mdrc =>
    let m := c.drain
    convertVal m.tileFmt m.drainFmt m.rounding (decodeVal m.tileFmt (elemAt 32 (c.src.getD (q / 128) 0) (q % 128)))
  | _ =>
    if c.graph.isEmpty then (boxElem (Shape.plane c.shape) c.sideCont c.sideWidth c.boxSrc q, 0)
    else ((colAt (c.run.out c.graph) q).getD 0, 0)

/-- The bytes of a packet's pieces with their masks, the word of each position given. -/
def planBytesOut (p : Plan) (w : Nat → Nat) : List (Nat × Byte × Byte) :=
  p.pieces.foldl (fun l x => (bitsToBytes x.goff x.nb (w x.q / 2 ^ x.eoff)).foldl (fun l e => mergeByte e l) l) []

/-- What packet `i` is: 0 an element packet, 1 a side packet, 2 the result record. -/
def Cmd.packetKind (c : Cmd) (i : Nat) : Nat :=
  let n := c.mainPlans.length
  if i < n then 0 else if i < n + c.sidePlans.length then 1 else 2

/-- The access of an element packet: 0 read, 1 write, 2 atomic. -/
def Cmd.mainAcc (c : Cmd) : Nat :=
  match c.kind with
  | .cpw => 1
  | .cps => 1
  | .cpst => 1
  | .cpaa => 2
  | .amo => 2
  | .vamo => 2
  | .mdrc => if c.opk = 0 then 1 else 2
  | _ => 0

/-- The access of packet `i`. -/
def Cmd.packetAcc (c : Cmd) (i : Nat) : Nat :=
  match c.packetKind i with
  | 0 => c.mainAcc
  | 1 => if c.kind = .cpw then 1 else 0
  | _ => 1

/-- The bytes packet `i` writes (R175, R184, R186). -/
def Cmd.packetOut (c : Cmd) (i : Nat) (p : Plan) : List (Nat × Byte × Byte) :=
  match c.packetKind i with
  | 0 => if c.mainAcc = 1 then planBytesOut p fun q => (c.outWord q).1 else []
  | 1 =>
    if c.kind = .cpw then
      planBytesOut p fun j => ((c.run.scales.find? fun x => x.1 == j).map (·.2)).getD 0
    else []
  | _ =>
    let r := resultRecord (c.env c.sideGot) c.graph c.stream
    planBytesOut p fun q => (r.getD q 0).toNat

/-- The flags a written element packet sets (R167). -/
def Cmd.packetFlags (c : Cmd) (i : Nat) (p : Plan) : FlagSet :=
  if c.kind = .mdrc ∧ c.mainAcc = 1 ∧ c.packetKind i = 0 then flagsUnion (p.pieces.map fun x => (c.outWord x.q).2)
  else 0

/-- The permission packet `i` needs (R191, R281, R373). -/
def Cmd.need (c : Cmd) (i : Nat) : Need :=
  match c.packetAcc i with
  | 0 => .read
  | 1 => .write
  | _ => if c.kind = .amo ∨ c.kind = .vamo then .amo else .atomic

/-! ## Atomics -/

/-- The new value of an AMO (R281): `m` the old value, `v` the operand, `x` the compare value, of `w` bits. -/
def amoNew (op w m v x : Nat) : Nat :=
  let si (n : Nat) : Int := if 2 ^ (w - 1) ≤ n then (n : Int) - (2 : Int) ^ w else n
  match op with
  | 0 => (m + v) % 2 ^ w
  | 1 => if si v < si m then v else m
  | 2 => if si m < si v then v else m
  | 3 => min m v
  | 4 => max m v
  | 5 => m &&& v
  | 6 => m ||| v
  | 7 => m ^^^ v
  | 8 => v
  | _ => if m = x then v else m

/-- The triple add at memory (R117). -/
def tripleNew (m : Nat) (y : Triple × FlagSet) : Nat × FlagSet :=
  let r := addTriple (Triple.ofNat m) y.1
  (r.1.toNat, y.2 ||| r.2)

/-- The first bit of element `k`'s operand in a VAMO's operand rows (R372). -/
def Cmd.operandBit (c : Cmd) (k : Nat) : Nat := 8 * k * c.vamoSize

/-- The rows of a VAMO's operands. -/
def Cmd.operandRows (c : Cmd) : List Row := c.src.drop (ceilDiv c.count 64)

/-- The operand and the compare value of atomic `q`. -/
def Cmd.operand (c : Cmd) (q : Nat) : Nat × Nat :=
  let n := 8 * c.opSize
  match c.kind with
  | .amo =>
    let b := 8 * (wordLoc c.b).byte
    (rowsBits c.src b n, rowsBits c.src (b + n) n)
  | .vamo => (rowsBits c.operandRows (c.operandBit q) n, rowsBits c.operandRows (c.operandBit q + n) n)
  | .mdrc => (elemAt 32 (c.src.getD (q / 128) 0) (q % 128), 0)
  | _ => (boxElem false c.sideCont c.sideWidth c.boxSrc q, 0)

/-- Atomic `q` of a command on the old value `m` (R117, R167, R281, R288): the new value and its flags. -/
def Cmd.atomic (c : Cmd) (q m : Nat) : Nat × FlagSet :=
  let (v, x) := c.operand q
  if c.triples then
    if c.kind = .amo ∨ c.kind = .vamo then tripleNew m (Triple.ofNat v, 0)
    else tripleNew m (splitBins c.emax (decodeVal (.flt f32) v))
  else if c.kind = .amo ∨ c.kind = .vamo then (amoNew c.o.gsub.toNat (8 * c.opSize) m v x, 0)
  else ((m + v) % 2 ^ 32, 0)

/-- The operation goes to host memory as FetchAdd, Swap or CAS (R281, R373; of the box adds, the integer ones:
DEDUCED, log 18). -/
def Cmd.hostOk (c : Cmd) : Bool :=
  if c.kind = .amo ∨ c.kind = .vamo then c.o.gsub == 0 || c.o.gsub == 8 || c.o.gsub == 9 else !c.triples

/-! ## Where answers go -/

/-- The rows that hold bits of position `q`, from the first row (R156, R174). -/
def Cmd.posRows (c : Cmd) (q : Nat) : List Nat :=
  if Shape.plane c.shape && c.kind == .cpy then
    ((List.range c.sideWidth).map fun b => bitPlace true c.sideCont c.sideWidth q b / 4096).eraseDups
  else [q * c.sideCont / 4096]

/-- The bit runs that put bits of position `q` into the scratchpad (R156, R174). -/
def Cmd.posBits (c : Cmd) (q eoff nb v : Nat) : List BitRun :=
  if Shape.plane c.shape && c.kind == .cpy then
    ((List.range nb).filter fun i => eoff + i < c.sideWidth).map fun i =>
      (bitPlace true c.sideCont c.sideWidth q (eoff + i), 1, v / 2 ^ i % 2)
  else [(q * c.sideCont + eoff, nb, v)]

/-- The fill of clipped positions (R85, R174). -/
def Cmd.fillWord (c : Cmd) : Nat :=
  if Shape.fill c.shape then ((fmtOfCode c.num.fm 0 c.sideCode).map canonNan).getD 0 else 0

/-- The bit runs of the fills (R174, R289). -/
def Cmd.fills (c : Cmd) : List BitRun :=
  if c.kind = .cpy ∨ c.kind = .cpg then
    (c.walk.filter (·.addr.isNone)).flatMap fun p => c.posBits p.q 0 c.sideCont c.fillWord
  else []

/-- The first row answers are written to. -/
def Cmd.dest (c : Cmd) : Nat × Nat :=
  match c.kind with
  | .cpld => ((wordLoc c.b).blk, (wordLoc c.b).row)
  | .amo => ((wordLoc c.b).blk, (wordLoc c.b).row)
  | .vamo => c.locB
  | .cpmc => ((wordLoc c.c).blk, (wordLoc c.c).row)
  | _ => c.locA

/-- The bit runs packet `i` writes when answered with `rd`, unless an ordered graph holds them back. -/
def Cmd.answerBits (c : Cmd) (i : Nat) (p : Plan) (rd : List (Nat × Byte)) : List BitRun :=
  if c.packetKind i ≠ 0 then []
  else
    match c.kind with
    | .cpld => p.pieces.map fun x => (8 * ((wordLoc c.b).byte + x.q) + x.eoff, x.nb, pieceBits rd x)
    | .amo => p.pieces.map fun x => (8 * (wordLoc c.b).byte, x.nb, pieceBits rd x)
    | .vamo => if c.c.getLsbD 16 then p.pieces.map fun x => (c.operandBit x.q, x.nb, pieceBits rd x) else []
    | .cpg => p.pieces.flatMap fun x => c.posBits x.q x.eoff x.nb (pieceBits rd x)
    | .cpy =>
      if c.graph.isEmpty then p.pieces.flatMap fun x => c.posBits x.q x.eoff x.nb (pieceBits rd x)
      else if gOrdered c.graph then []
      else
        let out := (gEval (c.env []) c.graph (c.elements (planWords p rd))).out c.graph
        out.flatMap fun x => c.posBits x.1 0 c.sideCont x.2
    | _ => []

/-- The bit runs an ordered read graph gives once its whole stream is in (R185). -/
def Cmd.orderedBits (c : Cmd) : List BitRun :=
  (c.run.out c.graph).flatMap fun x => c.posBits x.1 0 c.sideCont x.2

/-- The tiles that hold covered rows (R69, R296). -/
def Cmd.tilesCovered (c : Cmd) : List Nat :=
  if (c.kind = .cpy ∧ !originNull c.b) ∨ c.kind = .cpg then
    ((rowRun c.locA c.boxRows).map fun r => tileOf r.1 r.2).eraseDups
  else []

/-- A position has a row in a tile. -/
def Cmd.inTile (c : Cmd) (t q : Nat) : Bool := (c.posRows q).any fun r => tileOf c.locA.1 (c.locA.2 + r) == t

/-- Every element packet and side packet of a command has been answered. -/
def Cmd.allAnswered (c : Cmd) : Bool :=
  (List.range (c.mainPlans.length + c.sidePlans.length)).all fun i => c.got.any (·.1 == i)

/-- A command's last write into a tile has performed (R69, R296). -/
def Cmd.tileDone (c : Cmd) (t : Nat) : Bool :=
  c.filled && !(c.wq.any fun w => tileOf c.locA.1 (c.locA.2 + w.1) == t) &&
    (if !c.graph.isEmpty && gOrdered c.graph then c.allAnswered
     else c.mainPlans.zipIdx.all fun p =>
       c.got.any (·.1 == p.2) || !(p.1.pieces.any fun x => c.inTile t x.q))

end Sys2Proof.Machine
end

