-- ==== Sys2Proof/Machine/CopyRun.lean ====
section
/-! DEFINITION. Copy-engine commands from begin to completion (R54 to R56, R69, R165 to R167, R169, R174, R180, R181,
R186, R188, R207, R209, R214, R236, R265, R279, R290 to R292, R296, R339, R342): everything but their packets. -/

namespace Sys2Proof.Machine

/-- The command of a number on a core. -/
def cmdOf (s : State) (core id : Nat) : Option Cmd := (coreOf s core).cq.find? (·.id == id)

/-- Changes a command. -/
def updCmd (core id : Nat) (f : Cmd → Cmd) (s : State) : State :=
  updCore core (fun k => { k with cq := k.cq.map fun c => if c.id = id then f c else c }) s

/-- A command leaves its queue. -/
def dropCmd (core id : Nat) (s : State) : State :=
  updCore core (fun k => { k with cq := k.cq.filter (·.id != id) }) s

/-- The outstanding packets of a command. -/
def cmdPkts (s : State) (core id : Nat) : List Pkt := (coreOf s core).pkts.filter (·.cmd == id)

/-! ## Scratchpad transfers (R60, R66) -/

/-- The lane of a transfer between an engine's station and a block, the shorter way round the ring (R59, R60): `lo` is
the engine's clockwise lane. -/
def engineLane (station lo blk : Nat) (write : Bool) : Nat :=
  let d := if write then 2 * blk + 16 - station else station + 16 - 2 * blk
  if d % 16 ≤ 8 then lo else lo + 8

/-- The lane of a copy-engine transfer. -/
def ceLane (blk : Nat) (write : Bool) : Nat := engineLane 9 5 blk write
/-- The lane of a gateway write. -/
def gwLane (blk : Nat) : Nat := engineLane 15 7 blk true

/-- A lane and a block's port are free for untimed traffic in this cycle (R60, R66). -/
def transferFree (k : Core) (lane blk : Nat) (write : Bool) : Bool :=
  !k.lanes.contains lane && !(if write then k.st.wrUsed else k.st.rdUsed).contains blk && !k.st.scrubs.contains blk

/-- A lane is used in this cycle: one transfer each (R60; DEDUCED, log 63). -/
def useLane (core lane : Nat) (s : State) : State :=
  updCore core (fun k => { k with lanes := notePort lane k.lanes }) s

/-- Bit runs from a command's first row wait for their rows' port, row by row (R66, R174). -/
def queueBits (core id : Nat) (l : List BitRun) (s : State) : State :=
  updCmd core id (fun c => { c with
    wq := c.wq ++ ((l.map fun x => x.1 / 4096).eraseDups.map fun r => (r, l.filter fun x => x.1 / 4096 == r)) }) s

/-- The bits of runs in one row, and their mask. -/
def runBits (l : List BitRun) : Row × Row :=
  l.foldl (fun (a : Row × Row) x =>
    let sh := x.1 % 4096
    let ones : Row := BitVec.ofNat 4096 (2 ^ x.2.1 - 1) <<< sh
    ((a.1 &&& ~~~ones) ||| (BitVec.ofNat 4096 (x.2.2 % 2 ^ x.2.1) <<< sh), a.2 ||| ones)) ((0 : Row), (0 : Row))

/-- Bit runs are written into a row (R66, R174). -/
def putRow (core key : Nat) (l : List BitRun) (s : State) : State :=
  let (v, m) := runBits l
  writeRow core key ((rowAt (coreOf s core) key &&& ~~~m) ||| v)
    (BitVec.ofNat 512 (natOfBits (fun j => elemAt 8 m j != 0) 512)) s

/-- Publishes the covered tiles of a CPY whose last write has performed, where it stands at a fault too (R69, R296);
none after an abandonment or an error. -/
def publishDone (core id : Nat) (s : State) : State :=
  match cmdOf s core id with
  | none => s
  | some c =>
    if !Shape.pub c.shape || c.kind != .cpy || c.reason != 0 || c.stage == .abandoned then s
    else
      let new := c.tilesCovered.filter fun t => !c.pubs.contains t && c.tileDone t
      let s := new.foldl (fun s t => publish core (now s + 1) 1 t (Shape.ptag c.shape) s) s
      updCmd core id (fun c => { c with pubs := c.pubs ++ new }) s

/-! ## The begin -/

/-- The pages of an INVP (R306). -/
def Cmd.pages (c : Cmd) : Nat :=
  if c.b = 0 then 0 else (c.a.toNat + c.b.toNat - 1) / 65536 - c.a.toNat / 65536 + 1

/-- A command whose sources are read knows its packets (R175). SHPL writes in the cycle after its read (R339). -/
def buildCmd (core id : Nat) (s : State) : State :=
  updCmd core id (fun c =>
    { c with
      total := some (if c.kind = .invp then c.pages else c.plans.length)
      filled := c.kind != .cpy && c.kind != .cpg && c.kind != .cpx && c.kind != .cpmc && c.kind != .strm
      wake := if c.kind = .shpl then now s + 1 else now s }) s

/-- A begun command with nothing left to read is built. -/
def buildIfRead (core id : Nat) (s : State) : State :=
  match cmdOf s core id with
  | none => s
  | some c => if c.stage = .begun ∧ c.srcLeft.isEmpty ∧ c.total.isNone then buildCmd core id s else s

/-- The next source row is read (R66, R279). -/
def readSource (core id : Nat) (s : State) : State :=
  match cmdOf s core id with
  | none => s
  | some c =>
    match c.srcLeft with
    | [] => s
    | r :: rest =>
      let (v, s) := readRow core (rowKey r.1 r.2) (useLane core (ceLane r.1 false) s)
      buildIfRead core id (updCmd core id (fun c => { c with src := c.src ++ [v], srcLeft := rest }) s)

/-- The source rows timed commands read in this cycle (R279). Rows of an MDRC come from the matrix engine. -/
def copyReads (core : Nat) (s : State) : State :=
  (coreOf s core).cq.foldl (fun s c =>
    if c.stage != .begun then s
    else if c.kind = .mdrc then buildIfRead core c.id s
    else if timed c.h && !c.srcLeft.isEmpty && decide (c.start + c.src.length ≤ now s) then readSource core c.id s
    else s) s

/-- An untimed command's next source row, when its port and its lane are free and no earlier command of its queue has
rows to read (R60, R66): the engine may come to it later, which the program cannot tell (log 5). -/
def ceReads (core : Nat) (s : State) : State :=
  (coreOf s core).cq.foldl (fun s c =>
    let k := coreOf s core
    let first := ((k.cq.find? fun q => q.slot == c.slot && q.stage == .begun && q.kind != .mdrc &&
      !q.srcLeft.isEmpty).map (·.id)) == some c.id
    match c.srcLeft with
    | [] => s
    | r :: _ =>
      if first && !timed c.h && transferFree k (ceLane r.1 false) r.1 false then
        let (n, s) := choose 2 s
        if n = 0 then readSource core c.id s else s
      else s) s

/-- The next waiting row write of each command, when its port and its lane are free (R60, R66). -/
def ceWrites (core : Nat) (s : State) : State :=
  (coreOf s core).cq.foldl (fun s c =>
    match c.wq with
    | [] => s
    | w :: rest =>
      let b := c.dest.1
      if transferFree (coreOf s core) (ceLane b true) b true then
        publishDone core c.id (updCmd core c.id (fun c => { c with wq := rest })
          (useLane core (ceLane b true) (putRow core (rowKey b (c.dest.2 + w.1)) w.2 s)))
      else s) s

/-- A graph slot changed. -/
def updGraph (p k : Nat) (f : GraphSlot → GraphSlot) (s : State) : State :=
  updMem p (fun m =>
    let g := f ((tget none k m.graphs).getD ⟨[], false⟩)
    { m with graphs := tset none k (if g.graph.isEmpty && !g.loading then none else some g) m.graphs }) s

/-- Every row of a command is one it may name (R68, R174). -/
def rowsStand (s : State) (core : Nat) (c : Cmd) : Bool := c.named.all (rowStands (coreOf s core) c.slot)

/-- A stream takes the graph that stands at its begin (R180, R181, R188): the reason that stops it, or the command
with that graph. A NULL origin transfers nothing (R173), so the graph is not looked at: reasons 4 and 7 do not stop it
(DEDUCED, log 55). -/
def streamBegin (s : State) (core p : Nat) (c : Cmd) : Nat ⊕ Cmd :=
  let g := graphIn s p c.gslot
  let c' := { c with graph := g }
  let c' := { c' with srcLeft := c'.sources }
  if originNull c.b then .inr c'
  else if g.isEmpty then .inl 4
  else if g = c.graph then .inr c'
  else if graphFits c' && rowsStand s core c' then .inr c'
  else .inl 7

/-- A copy-engine command begins (R54, R55, R207). -/
def startCopy (core : Nat) (c : Cmd) (s : State) : State :=
  let p := partOfCore s.dev core
  let s := if c.o.acq = 1 then acquire p c.o.agent.toNat c.o.store s else s
  let s := if timed c.h then
      updCtx (ctxId core c.slot) (noteCompared ((c.srcLeft.map fun r => tileOf r.1 r.2).eraseDups)) s
    else s
  let s := if c.kind = .strm then updGraph p c.o.gsub.toNat (fun g => { g with loading := true }) s else s
  match (if c.streams then streamBegin s core p c else .inr c) with
  | .inl r =>
    updCmd core c.id (fun c => { c with
      stage := .begun, start := now s, total := some 0, srcLeft := [], filled := true, reason := r, wake := now s }) s
  | .inr c' =>
    let s := updCmd core c.id (fun c => { c with
      stage := .begun, start := now s, graph := c'.graph, srcLeft := c'.srcLeft }) s
    if c.kind = .mdrc then buildIfRead core c.id s
    else if timed c.h then
      if c'.srcLeft.isEmpty then buildIfRead core c.id s else readSource core c.id s
    else buildIfRead core c.id s

/-- The slot a command needs is not being loaded (R188). -/
def slotFree (s : State) (core : Nat) (c : Cmd) : Bool :=
  match c.usesSlot with
  | some k => !slotLoading s (partOfCore s.dev core) k
  | none => true

/-- What stops a timed copy command at t+S (R54, R188, R209, R214). -/
def copyBeginFault (s : State) (core : Nat) (c : Cmd) : Option Raise :=
  let x := ctxOf s (ctxId core c.slot)
  let w := c.h.wsem.toNat
  let r := tget 0 w x.reasons
  if w ≠ 0 ∧ r ≠ 0 then some ⟨reasonCause r, r, w⟩
  else if !semOk (coreOf s core) w c.h.wthr.toNat || !c.fences.isEmpty || !slotFree s core c then
    some ⟨0x04, 0, c.bundle⟩
  else
    (tagMismatch (coreOf s core) x ((c.srcLeft.map fun r => tileOf r.1 r.2).eraseDups)).map fun t => ⟨0x04, 0, t⟩

/-- A discarded command whose guard is false sends its signal at once (R54, R55). -/
def discardSignal (core : Nat) (c : Cmd) (s : State) : State :=
  sendSignal core c.slot c.h.ssem.toNat c.h.inc.toNat (now s) (.cpEngine c.slot) (dropCmd core c.id s)

/-- A command is at the head of its slot's queue (R54, R55): every earlier one has begun. -/
def atHead (s : State) (core : Nat) (c : Cmd) : Bool :=
  ((coreOf s core).cq.find? fun q => q.slot == c.slot && q.stage == .queued).map (·.id) == some c.id

/-- The engine has finished every earlier command of the queue (R54). -/
def earlierDone (s : State) (core : Nat) (c : Cmd) : Bool :=
  ((coreOf s core).cq.find? fun q => q.slot == c.slot).map (·.id) == some c.id

/-- A timed copy command at its t+S (R54): with its guard false it is discarded, whatever runs before it. -/
def beginTimedCopy (core : Nat) (c : Cmd) (s : State) : State :=
  let id := ctxId core c.slot
  let x := ctxOf s id
  let g := c.h.g.toNat
  if !atHead s core c || !gresolved x g then commandFault id 6 ⟨0x04, 0, c.bundle⟩ (dropCmd core c.id s)
  else if gget x g == (c.h.gn == 1) then discardSignal core c s
  else if !earlierDone s core c then commandFault id 6 ⟨0x04, 0, c.bundle⟩ (dropCmd core c.id s)
  else
    match copyBeginFault s core c with
    | some r => clearReason id r (commandFault id 6 r (dropCmd core c.id s))
    | none => startCopy core c s

/-- The timed commands of a core whose t+S has come in a context that issued in this cycle (R54, R251). -/
def dueTimed (s : State) (core : Nat) : List Nat :=
  let k := coreOf s core
  let due (sl : Nat) (h : EHdr) : Bool :=
    timed h && issuedNow s (ctxId core sl) && decide (h.start.toNat < (ctxOf s (ctxId core sl)).pos.clk)
  ((k.mq.filter fun m => due m.slot m.h).map (·.id)) ++
    ((k.cq.filter fun c => c.stage == .queued && c.kind != .mdrc && due c.slot c.h).map (·.id))

/-- A guard is resolved and keeps its command from executing (R54, R55). -/
def guardFalse (c : Ctx) (h : EHdr) : Bool := gresolved c h.g.toNat && gget c h.g.toNat == (h.gn == 1)

/-- The timed commands that the t+S of the cycle now begun discards (R54): of the context that holds the issue slot and
has its bundle still to issue, at the head of their queues, their guards false. Their signals are of this cycle, so
they come before its updates (R212) and before the bundle, which an overflow stops (R213). -/
def discardDue (s : State) (core : Nat) : List Nat :=
  let k := coreOf s core
  let sl := k.sel.cur
  let c := ctxOf s (ctxId core sl)
  let due (x : Nat) (h : EHdr) : Bool := x == sl && timed h && h.start.toNat == c.pos.clk && guardFalse c h
  if sl < 5 && k.issuedAt != now s + 1 then
    (((k.mq.take 1).filter fun m => due m.slot m.h).map (·.id)) ++
      ((k.cq.filter fun q => q.stage == .queued && q.kind != .mdrc && atHead s core q && due q.slot q.h).map (·.id))
  else []

/-- TIMED_COMMAND_BEGIN (R54): a command of the M queue or of a CP queue at its t+S. -/
def execTimedCommandBegin (core cmd : Nat) (s : State) : Host.Outcome State Fault Refusal :=
  if (dueTimed s core).contains cmd || (discardDue s core).contains cmd then
    match (coreOf s core).mq.find? (·.id == cmd) with
    | some m => .next (beginMatrix core m s)
    | none =>
      match cmdOf s core cmd with
      | some c => .next (beginTimedCopy core c s)
      | none => .next s
  else .next s

/-- An untimed command at the head of its queue can begin, or be discarded (R55, R188, R209, R214); no earlier than a
timed one, in the cycle after its issue (DEDUCED from R53, log 40). -/
def untimedReady (s : State) (core : Nat) (c : Cmd) : Bool :=
  let x := ctxOf s (ctxId core c.slot)
  let g := c.h.g.toNat
  let w := c.h.wsem.toNat
  atHead s core c && (!timed c.h || c.kind == .mdrc) && decide (c.wake < now s) && gresolved x g &&
    (guardFalse x c.h || (w != 0 && tget 0 w x.reasons != 0) ||
      (semOk (coreOf s core) w c.h.wthr.toNat && c.fences.isEmpty && slotFree s core c))

/-- UNTIMED_COMMAND_BEGIN (R55): with its guard false it is discarded and signals; a recorded reason of its wait
is raised instead (R214). -/
def execUntimedCommandBegin (core cmd : Nat) (s : State) : Host.Outcome State Fault Refusal :=
  match cmdOf s core cmd with
  | none => .next s
  | some c =>
    if untimedReady s core c then
      let id := ctxId core c.slot
      let x := ctxOf s id
      let w := c.h.wsem.toNat
      let r := tget 0 w x.reasons
      if guardFalse x c.h then .next (discardSignal core c s)
      else if w ≠ 0 ∧ r ≠ 0 then
        let f : Raise := ⟨reasonCause r, r, w⟩
        .next (clearReason id f (commandFault id 6 f (dropCmd core c.id s)))
      else .next (startCopy core c s)
    else .next s

/-! ## Fills and deliveries -/

/-- Fills go to their rows once the command's release is complete (R174, R207, R295). -/
def copyFills (core : Nat) (s : State) : State :=
  (coreOf s core).cq.foldl (fun s c =>
    if c.stage = .begun ∧ c.total.isSome ∧ !c.filled ∧ c.rel.isNone ∧ (c.kind = .cpy ∨ c.kind = .cpg) then
      publishDone core c.id (updCmd core c.id (fun c => { c with filled := true })
        (queueBits core c.id (if originNull c.b && c.kind == .cpy then [] else c.fills) s))
    else s) s

/-- A row of a core holds an uncorrectable error. -/
def rowLost (k : Core) (key : Nat) : Bool := (badWords k.st key 0 64).any fun w => wordErr k.st key w != 1

/-- The slot of a core that accepts a delivery (R236, R291): a bound member of the task whose tiles hold the destination
rows, none of them with an uncorrectable error (DEDUCED, log 65), with RSEM its own; none refuses. -/
def accepts (s : State) (task : Option Nat) (dst : Nat) (w : W64) : Option Nat :=
  let k := coreOf s dst
  [0, 1, 2, 3].find? fun sl =>
    let x := ctxOf s (ctxId dst sl)
    task.isSome && x.task == task && rowsMine k sl (bits w 12 10) (bits w 9 0) (bits w 22 13) &&
      (bits w 43 40 == 0 || semMine x (bits w 39 32)) && !k.sup.fenced &&
      !((List.range (bits w 22 13)).any fun i => rowLost k (rowKey (bits w 12 10) (bits w 9 0 + i)))

/-- A delivery is the one of a command. -/
def Delivery.isOf (d : Delivery) (core cmd : Nat) : Bool := d.src == core && d.cmd == cmd

/-- The row of a delivery (R291). -/
def Delivery.row (d : Delivery) (i : Nat) : Nat := bits d.word 9 0 + i
/-- Its block (R291). -/
def Delivery.blk (d : Delivery) : Nat := bits d.word 12 10

/-- The gateway writes a delivery's next row, when its port and lane are free (R60, R66, R291); a tile whose last row
it is is published with PUB (R69). -/
def gwWrite (dst : Nat) (d : Delivery) (s : State) : State :=
  match d.rows with
  | [] => s
  | (i, v) :: rest =>
    if transferFree (coreOf s dst) (gwLane d.blk) d.blk true then
      let t := tileOf d.blk (d.row i)
      let s := useLane dst (gwLane d.blk) (writeRow dst (rowKey d.blk (d.row i)) v (BitVec.allOnes 512) s)
      let left (x : Delivery) : Delivery := if x.isOf d.src d.cmd then { x with rows := rest } else x
      let s := updCore dst (fun k => { k with gw := k.gw.map left }) s
      if d.word.getLsbD 47 && !(rest.any fun p => tileOf d.blk (d.row p.1) == t) then
        publish dst (now s + 1) 2 t (d.word.extractLsb' 48 16) s
      else s
    else s

/-- A delivery whose rows are written adds RINC, after its publication, and is done (R291). -/
def gwDone (dst : Nat) (s : State) : State :=
  let done := (coreOf s dst).gw.filter (·.rows.isEmpty)
  done.foldl (fun s d =>
    sendSignal dst d.slot (bits d.word 39 32) (bits d.word 43 40) (now s + 2) (.gateway d.src) s)
    (updCore dst (fun k => { k with gw := k.gw.filter fun d => !d.rows.isEmpty }) s)

/-- The gateway's traffic of a cycle (R60, R291). -/
def gwWrites (dst : Nat) (s : State) : State :=
  gwDone dst ((coreOf s dst).gw.foldl (fun s d => gwWrite dst d s) s)

/-- The destinations of a delivery, by logical core (R291, R292). -/
def Cmd.targets (c : Cmd) : List Nat :=
  if c.kind = .cpx then [bits c.b 31 24]
  else (List.range 256).filter fun i => (c.src.headD 0).getLsbD (8 * (wordLoc c.c).byte + i)

/-- A CPX or CPMC delivers (R236, R291, R292): to every accepting destination; the others have failed. -/
def deliverAll (core : Nat) (c : Cmd) (s : State) : State :=
  let p := partOfCore s.dev core
  let task := (ctxOf s (ctxId core c.slot)).task
  let (s, failed) := c.targets.foldl (fun (a : State × Nat) l =>
    match physCore a.1.dev p l with
    | none => (a.1, a.2 + 2 ^ l)
    | some dst =>
      match accepts a.1 task dst c.b with
      | some sl =>
        (updCore dst (fun k => { k with gw := k.gw ++
          [{ src := core, cmd := c.id, slot := sl, word := c.b, rows := c.boxSrc.zipIdx.map fun r => (r.2, r.1) }] }) a.1,
         a.2)
      | none => (a.1, a.2 + 2 ^ l)) (s, 0)
  updCmd core c.id (fun c => { c with sent := true, failed := failed }) s

/-- A command's deliveries are all done (R291). -/
def allDelivered (s : State) (core : Nat) (c : Cmd) : Bool :=
  (partCores s.dev (partOfCore s.dev core)).all fun dst => !((coreOf s dst).gw.any fun d => d.isOf core c.id)

/-- Commands whose deliveries are done come to their last steps (R236, R291): the mask of the destinations that failed
replaces a CPMC's core mask, and reason 6 is kept. -/
def settleDeliveries (core : Nat) (s : State) : State :=
  (coreOf s core).cq.foldl (fun s c =>
    if c.sent && !c.filled && allDelivered s core c then
      let s := if c.failed ≠ 0 ∧ c.kind = .cpmc then
          queueBits core c.id [(8 * (wordLoc c.c).byte, 256, c.failed)] s
        else s
      updCmd core c.id (fun c => { c with
        filled := true, reason := if c.failed ≠ 0 then 6 else c.reason, wake := now s + 3 }) s
    else s) s

/-! ## The completion -/

/-- A delivery can be made: the sources are read and the release is complete (R207, R291). -/
def deliverReady (s : State) (c : Cmd) : Bool :=
  (c.kind == .cpx || c.kind == .cpmc) && c.stage == .begun && c.total.isSome && !c.sent && c.rel.isNone &&
    decide (c.wake ≤ now s)

/-- A command can complete (R56, R176, R186, R207). -/
def completeReady (s : State) (core : Nat) (c : Cmd) : Bool :=
  c.rel.isNone && decide (c.wake ≤ now s) && (cmdPkts s core c.id).isEmpty && c.wq.isEmpty &&
    (c.stage == .abandoned ||
      (c.stage == .begun && (c.total.any fun n => decide (n ≤ c.next)) && (c.filled || c.reason != 0)))

/-- The signal, or the reason it is withheld for (R56, R214, R265); a command that completes in a cycle no rule names
is done with it at its end (log 40). -/
def finishSignal (core : Nat) (c : Cmd) (s : State) : State :=
  let src : SemSrc := if c.kind = .mdrc then .mEngine else .cpEngine c.slot
  let due := if c.kind = .shpl then now s else now s + 1
  if c.reason = 0 then sendSignal core c.slot c.h.ssem.toNat c.h.inc.toNat due src s
  else recordReason core c.slot c.h.ssem.toNat c.reason s

/-- A CPG that has written all its tiles publishes them at its completion (R289). -/
def publishGather (core : Nat) (c : Cmd) (s : State) : State :=
  if c.kind = .cpg ∧ Shape.pub c.shape ∧ c.reason = 0 ∧ c.stage = .begun then
    c.tilesCovered.foldl (fun s t => publish core (now s) 1 t (Shape.ptag c.shape) s) s
  else s

/-- The effect of completion (R107, R188, R207, R289, R339): flags, SHPL's record, the slot a STRM held, a gather's
publication, the acquire for later accesses. -/
def completeCopy (core : Nat) (c : Cmd) (s : State) : State :=
  let p := partOfCore s.dev core
  let id := ctxId core c.slot
  let s := publishGather core c (dropCmd core c.id s)
  let s := match c.kind with
    | .shpl =>
      let rec0 : Pred := (c.src.headD 0).extractLsb' (512 * bits c.a 15 13) 512
      updCtx id (fun x => { x with late := { x.late with shapes := x.late.shapes ++ [(c.o.sh.toNat, rec0)] } }) s
    | .strm => updGraph p c.o.gsub.toNat (fun g => { g with loading := false }) s
    | _ => s
  let s := if c.o.acq = 1 then acquire p c.o.agent.toNat c.o.store s else s
  finishSignal core c (landFlags id c.flags c.subst s)

/-- COPY_COMMAND_COMPLETION (R176): a delivery of CPX or CPMC is made first. -/
def execCopyCommandCompletion (core cmd : Nat) (s : State) : Host.Outcome State Fault Refusal :=
  match cmdOf s core cmd with
  | none => .next s
  | some c =>
    if deliverReady s c then .next (deliverAll core c s)
    else if completeReady s core c then .next (completeCopy core c s)
    else .next s

/-- The graph record a STRM has read (R182). -/
def Cmd.record (c : Cmd) : List W64 :=
  let words := c.mainPlans.zipIdx.flatMap fun p => planWords p.1 (c.answer p.2)
  (List.range 48).map fun k =>
    BitVec.ofNat 64 (leNat ((List.range 8).map fun i => BitVec.ofNat 8 ((colAt words (8 * k + i)).getD 0)))

/-- Some stream that began with a slot's graph has not completed, anywhere in the partition (R188). -/
def slotInUse (s : State) (p k : Nat) : Bool :=
  (partCores s.dev p).any fun core => (coreOf s core).cq.any fun c =>
    c.streams && c.gslot == k && c.stage != .queued && !c.graph.isEmpty

/-- A STRM can replace its slot's graph (R188). -/
def replaceReady (s : State) (core : Nat) (c : Cmd) : Bool :=
  c.kind == .strm && c.stage == .begun && !c.filled && c.reason == 0 && c.allAnswered && c.total.isSome &&
    (cmdPkts s core c.id).isEmpty && c.rel.isNone && !slotInUse s (partOfCore s.dev core) c.o.gsub.toNat

/-- STRM_GRAPH_REPLACE (R188): every louvre of the partition takes the new graph. -/
def execStrmGraphReplace (core cmd : Nat) (s : State) : Host.Outcome State Fault Refusal :=
  match cmdOf s core cmd with
  | none => .next s
  | some c =>
    if replaceReady s core c then
      .next (updCmd core cmd (fun c => { c with filled := true, wake := now s })
        (updGraph (partOfCore s.dev core) c.o.gsub.toNat (fun g => { g with graph := c.record }) s))
    else .next s

end Sys2Proof.Machine
end

