-- ==== Sys2Proof/Machine/Doorbell.lean ====
section
/-! DEFINITION. Doorbells (R238 to R241): the monotonic-maximum rule, the bridge, and the writes that reach
their registers from the port (R243). -/

namespace Sys2Proof.Machine

/-- EN of a doorbell (R238). -/
def Doorbell.en (b : Doorbell) : Bool := b.dbc.getLsbD 63
/-- HSRC of a doorbell (R238). -/
def Doorbell.hsrc (b : Doorbell) : Nat := bits b.dbc 61 60
/-- The bits of DBC that are not zero (R238). -/
def dbcMask : W64 := 0xFF00FFFFF0000000#64
/-- The bits of DBH that are not zero (R238). -/
def dbhMask : W64 := 0x01FFFFFFFFFFFFF8#64

/-- The served ring whose doorbell is `k` (R26, R239). -/
def ringOfBell (s : State) (p k : Nat) : Option Ring :=
  ((List.range 8).map fun r => tget Ring.reset r (partAt s p).launch.rings).find? fun r =>
    r.served && r.db == k

/-- A head and a capacity for an arriving write (R239): none when there is no such ring, or the head word does
not translate to a readable LOCAL page, which is logged. -/
def bellHead (p k : Nat) (b : Doorbell) (s : State) : Option (Nat × Nat) × State :=
  if b.hsrc = 0 then ((ringOfBell s p k).map fun r => (r.head.toNat, 2 ^ r.logcap), s)
  else
    match translate p ((partDies s.dev p).headD 0) b.dbh.toNat .read s with
    | (.ok w, s) =>
      if w.dest = .local p ∧ pteMode w.pte = 0 then
        match readFrom p w.dest w.pa 8 s with
        | (.ok h, s) => (some (leNat h, 2 ^ bits b.dbc 59 56), s)
        | (.error _, s) => (none, logErr p 7 0xFF 0xFFFF k b.dbh.toNat 0 s)
      else (none, logErr p 7 0xFF 0xFFFF k b.dbh.toNat 0 s)
    | (.error _, s) => (none, logErr p 7 0xFF 0xFFFF k b.dbh.toNat 0 s)

/-- A semaphore is allocated to a task bound on a core (R73, R240). -/
def semBound (s : State) (core sem : Nat) : Bool :=
  [0, 1, 2, 3].any fun sl =>
    let c := ctxOf s (ctxId core sl)
    c.task.isSome && c.ctl.sam.getLsbD sem

/-- The bridge add of an accepted write (R240). -/
def bridgeAdd (p k : Nat) (b : Doorbell) (s : State) : State :=
  let sem := bits b.dbc 47 40
  let inc := bits b.dbc 39 36
  let l := bits b.dbc 35 28
  if inc = 0 then s
  else
    match physCore s.dev p l with
    | some c =>
      if sem ≠ 0 ∧ semBound s c sem then sendSignal c 7 sem inc (now s) (.doorbell k) s
      else logErr p 8 0xFF l k 0 sem (countErr p 8 s)
    | none => logErr p 8 0xFF l k 0 sem (countErr p 8 s)

/-- A write ignored and counted in DBIGN (R239). -/
def bellIgnore (p k : Nat) (s : State) : State :=
  let b := bellOf s p k
  setBell p k { b with ign := b.ign + 1 } s

/-- A ring that waits at a slot not yet written looks again after its doorbell is written (R27). -/
def wakeRing (p k : Nat) (s : State) : State :=
  updLaunch p (fun l =>
    { l with rings := (List.range 8).foldl (fun m i =>
        tmod Ring.reset i (fun r => if r.served && r.db == k then { r with stamped := none } else r) m) l.rings }) s

/-- A write of DBV (R239). -/
def bellWrite (p k : Nat) (whole : Bool) (v : W64) (s : State) : State :=
  let b := bellOf s p k
  if !whole || !b.en || 2 ≤ b.hsrc then bellIgnore p k s
  else
    match bellHead p k b s with
    | (none, s) => bellIgnore p k s
    | (some (h, cap), s) =>
      if b.dbv.toNat < v.toNat ∧ (v - BitVec.ofNat 64 h).toNat ≤ cap then
        let s := wakeRing p k (setBell p k { bellOf s p k with dbv := v } s)
        if b.dbc.getLsbD 62 then bridgeAdd p k b s else s
      else bellIgnore p k s

/-- A doorbell register at an offset of its 32 bytes (R238, R241). -/
def bellRead (s : State) (p k off : Nat) : W64 :=
  let b := bellOf s p k
  match off with
  | 0 => b.dbv
  | 8 => b.dbc
  | 16 => b.dbh
  | _ => b.ign.setWidth 64

/-! ## The port -/

/-- A request through BAR 0 or BAR 2, or an AtomicOp, is taken (R237, R243, R272): there is a function for each
configured partition alone. -/
def portTakes (s : State) (p : Nat) (trusted : Bool) : Bool :=
  s.dev.fwUp && decide (p < s.dev.parts) &&
    (match (partAt s p).host.tdi with
     | .run => trusted
     | .error => false
     | _ => true)

/-- A request refused in RUN has its address logged (R243, R267): a read or an atomic under the KIND of a write (DEDUCED,
log 27). -/
def portLog (p addr : Nat) (s : State) : State :=
  if (partAt s p).host.tdi = .run then logErr p 9 0xFF 0xFFFF 0 addr 0 s else s

/-- A write refused in RUN is counted and logged (R243). -/
def portRefuse (p addr : Nat) (s : State) : State :=
  portLog p addr (if (partAt s p).host.tdi = .run then countErr p 9 s else s)

/-- A read or an atomic that is refused completes with Unsupported Request (R243). -/
def portUnsupported (p addr : Nat) (s : State) : State := send (.unsupported p) (portLog p addr s)

/-- DOORBELL_WRITE (R239): from the port, or from the alias of R241. -/
def execDoorbellWrite (w : DbWrite) (s : State) : Host.Outcome State Fault Refusal :=
  if w.k < 64 then
    if w.fromPort && !portTakes s w.part w.trusted then .next (portRefuse w.part (32 * w.k) s)
    else .next (bellWrite w.part w.k w.whole w.value s)
  else .next s

/-- The TDI locks a partition's configuration (R240, R248). -/
def tdiLocked (s : State) (p : Nat) : Bool :=
  (partAt s p).host.tdi == .locked || (partAt s p).host.tdi == .run

/-- A write of a doorbell's own registers through BAR 0 (R238, R243): counted where the TDI refuses it. -/
def bellSet (req : BarReq) (k off : Nat) (f : Doorbell → Doorbell) (s : State) : State :=
  if 64 ≤ k then s
  else if !portTakes s req.part req.trusted then portRefuse req.part (32 * k + off) s
  else setBell req.part k (f (bellOf s req.part k)) s

/-- DBC_WRITE (R240): one that is taken is ignored while the TDI is in CONFIG_LOCKED or RUN. -/
def execDbcWrite (req : BarReq) (k : Nat) (v : W64) (s : State) : Host.Outcome State Fault Refusal :=
  .next (bellSet req k 8 (fun b => if tdiLocked s req.part then b else { b with dbc := v &&& dbcMask }) s)

/-- DBH_WRITE (R240). -/
def execDbhWrite (req : BarReq) (k : Nat) (v : W64) (s : State) : Host.Outcome State Fault Refusal :=
  .next (bellSet req k 16 (fun b => if tdiLocked s req.part then b else { b with dbh := v &&& dbhMask }) s)

/-- DBIGN_WRITE (R238): any write that is taken sets it to 0. -/
def execDbignWrite (req : BarReq) (k : Nat) (s : State) : Host.Outcome State Fault Refusal :=
  .next (bellSet req k 24 (fun b => { b with ign := 0 }) s)

end Sys2Proof.Machine
end

