-- ==== Sys2Proof/Machine/Packets.lean ====
section
/-! DEFINITION. Packets (R12, R169, R175 to R181, R185 to R187, R191 to R195, R197, R226, R229 to R231, R233, R235,
R241, R249, R281, R306, R329, R373): translation, issue, perform and reply, and the faults of copy commands. -/

namespace Sys2Proof.Machine

/-! ## Addresses and translations -/

/-- The 256-byte granule of packet `i`, or the page an INVP comes to (R175, R306). -/
def Cmd.packetGranule (c : Cmd) (i : Nat) : Int :=
  if c.kind = .invp then 256 * (c.a.toNat / 65536 + i : Nat) else ((c.plans[i]?).map (·.granule)).getD 0

/-- The address of packet `i`: none outside the 57 bits of R189 (R173). -/
def Cmd.packetVa (c : Cmd) (i : Nat) : Option Nat :=
  let g := c.packetGranule i
  if 0 ≤ g ∧ g < 2 ^ 49 then some (256 * g.toNat) else none

/-- TRAPV.VAL of a fault at packet `i` (R254). -/
def Cmd.faultVa (c : Cmd) (i : Nat) : Nat := (256 * c.packetGranule i % 2 ^ 57).toNat

/-- A translation a command holds (R194). -/
def Cmd.heldLeaf (c : Cmd) (va : Nat) : Option Leaf :=
  (c.held.find? fun e => if e.level = 2 then e.page / 32 == va / 2 ^ 21 else e.page == va / 2 ^ 16).map
    fun e => ⟨e.pte, e.level, e.home⟩

/-- The translation that stands for an access of a command: held, else the die's TLB (R192, R194). -/
def leafOf (s : State) (core : Nat) (c : Cmd) (va : Nat) : Option Leaf :=
  match c.heldLeaf va with
  | some l => some l
  | none => tlbHit s (partOfCore s.dev core) (dieOfCore core) va

/-- The first 64 KiB page of the page a leaf maps (R189). -/
def leafPage (l : Leaf) (va : Nat) : Nat := if l.level = 2 then va / 2 ^ 21 * 32 else va / 2 ^ 16

/-- A command that translates every page it will touch before it issues any element (R194). -/
def Cmd.holds (c : Cmd) : Bool := c.kind == .vamo || (c.streams && gOrdered c.graph)

/-- A VAMO's element is aligned to its operand (R373). -/
def Cmd.aligned (c : Cmd) (i : Nat) : Bool :=
  c.kind != .vamo || ((c.plans[i]?).all fun p => p.pieces.all fun x => x.goff % (8 * c.opSize) == 0)

/-- The one access the device window takes (R241): an 8-byte CPST to DBV, or CPLD of a doorbell register. -/
def Cmd.windowOk (c : Cmd) (i : Nat) (off : Nat) : Bool :=
  let a := off + ((c.plans[i]?).bind fun p => p.pieces.head?).elim 0 (·.goff / 8)
  let whole := (wordLoc c.b).size == 8
  (c.kind == .cpld && whole && a / 32 < 64 && a % 8 == 0) ||
    (c.kind == .cpst && whole && a / 32 < 64 && a % 32 == 0)

/-- A destination is a device alias (R241). -/
def Dest.isWindow : Dest → Bool
  | .window _ => true
  | _ => false

/-- The permission rules at packet `i` (R181, R191, R241, R281, R373). -/
def packetOk (s : State) (core : Nat) (c : Cmd) (i va : Nat) (l : Leaf) : Bool :=
  let d := destOf s (partOfCore s.dev core) l.pte (leafPa l va)
  let shared := reachesAlias d (leafPa l va)
  allowed l.pte (c.need i) && c.aligned i &&
    (!c.streams || (pteMode l.pte == 0 && !shared)) &&
    (!shared || c.windowOk i (va % 65536)) && (d != .host || c.packetAcc i != 2 || c.hostOk)

/-- The first packet that such a command has still to translate, or that faults (R194, R373): none once every packet
has its translation and may go. -/
def unheld (s : State) (core : Nat) (c : Cmd) : Option Nat :=
  if c.holds && c.next == 0 then
    (List.range c.plans.length).find? fun i =>
      match c.packetVa i with
      | none => true
      | some va =>
        match c.heldLeaf va with
        | some l => !packetOk s core c i va l
        | none => true
  else none

/-! ## Which packet issues -/

/-- A command that issues packets or walks pages. -/
def CKind.issues : CKind → Bool
  | .cpx | .cpmc | .shpl => false
  | _ => true

/-- The command of a queue whose packets are next (R169): the first not yet wholly issued, once it has begun and
its sources are read. -/
def packetCmd (s : State) (core sl : Nat) : Option Cmd :=
  ((coreOf s core).cq.find? fun c => c.slot == sl && c.kind.issues && !allIssued c).filter fun c =>
    c.stage == .begun && c.total.isSome

/-- The packet whose translation a command needs now. -/
def wanted (s : State) (core : Nat) (c : Cmd) : Nat := (unheld s core c).getD c.next

/-- Packet `i` is a result record. -/
def Cmd.isRecord (c : Cmd) (i : Nat) : Bool := c.kind != .invp && c.packetKind i == 2

/-- A command may issue its next packet as far as its own order goes: writes wait for its release (R207), a record
for the answers to the rest and their row writes (R186, R296), and the replay of a STRM for what its first reading has
still on its way (R342). -/
def orderOk (s : State) (core : Nat) (c : Cmd) : Bool :=
  let i := wanted s core c
  (c.kind == .invp || c.kind == .pft || c.packetAcc i == 0 || c.rel.isNone) &&
    (!c.isRecord i || (unheld s core c).isSome || ((cmdPkts s core c.id).isEmpty && c.wq.isEmpty)) &&
    (c.kind != .strm || c.next != 0 || (cmdPkts s core c.id).isEmpty)

/-- A translation can be asked for (R192, R195): a page already walked or expanded is waited for, and 256 walks are
the most a unit has. -/
def canTranslate (s : State) (core : Nat) (c : Cmd) : Bool :=
  let p := partOfCore s.dev core
  let die := dieOfCore core
  let m := (partAt s p).memory
  match c.packetVa (wanted s core c) with
  | none => true
  | some va =>
    match leafOf s core c va with
    | some l => !l.pte.getLsbD 8 || !m.expanding.contains (leafPage l va)
    | none => !m.walks.contains (die, va / 65536) && (m.walks.filter (·.1 == die)).length < 256

/-- A command needs a tracking entry for its next packet (R12): not for a PFT's request, which has no answer, nor for a
page of an INVP (DEDUCED, log 68). -/
def needsEntry (s : State) (core : Nat) (c : Cmd) : Bool :=
  (unheld s core c).isNone && c.kind != .pft && c.kind != .invp

/-- A command can go on at its next packet. -/
def canIssue (s : State) (core : Nat) (c : Cmd) : Bool :=
  orderOk s core c && canTranslate s core c && (!needsEntry s core c || (coreOf s core).pkts.length < 512)

/-- The command whose packet issues (R169): timed ones first, else the queues in turn. -/
def nextIssue (s : State) (core : Nat) : Option Cmd :=
  let k := coreOf s core
  if now s < k.pktAt then none
  else
    let get (l : List Nat) : List Cmd := (l.filterMap (packetCmd s core)).filter (canIssue s core)
    match (get [0, 1, 2, 3, 4]).find? fun c => timed c.h with
    | some c => some c
    | none => (get ((List.range 5).map fun i => (k.turn + i) % 5)).head?

/-! ## Faults -/

/-- A copy command stops at a packet (R193): its queue waits and the fault goes to the core's supervisor. One that
translates ahead (R194) and a STRM (R342) start from their first packet again. -/
def copyFault (core : Nat) (c : Cmd) (s : State) : State :=
  let va := c.faultVa (wanted s core c)
  let s := updCmd core c.id (fun c => { c with
    stage := .faulted va, held := [], next := if c.holds || c.kind == .strm then 0 else c.next }) s
  postEvent core
    { cause := 0x20, slot := c.slot, async := true, fetch := false, detail := 0
      va := bundleVa (ctxOf s (ctxId core c.slot)), syl := 15, val := va } s

/-- PFT and INVP skip what faults (R178, R306). -/
def Cmd.skips (c : Cmd) : Bool := c.kind == .pft || c.kind == .invp

/-- The next packet of a command faults, or is skipped. -/
def packetFault (core : Nat) (c : Cmd) (s : State) : State :=
  if c.skips then updCmd core c.id (fun c => { c with next := c.next + 1 }) s else copyFault core c s

/-- Every command of a partition that waits for a page faults (R192, R195): on one die, or on all. -/
def faultWaiters (p : Nat) (die : Option Nat) (page size : Nat) (s : State) : State :=
  ((partCores s.dev p).filter fun core => die.all (· == dieOfCore core)).foldl (fun s core =>
    [0, 1, 2, 3, 4].foldl (fun s sl =>
      match packetCmd s core sl with
      | none => s
      | some c =>
        match c.packetVa (wanted s core c) with
        | none => s
        | some va =>
          if page ≤ va / 65536 ∧ va / 65536 < page + size ∧ (c.heldLeaf va).isNone ∧ orderOk s core c then
            packetFault core c s
          else s) s) s

/-! ## The stream buffers and the access counters -/

/-- A PFT's request for a line (R178, R179): PFISSUE; a line evicted without a hit is PFWASTE of its core. Its fill meets
no error of the granule (DESIGN CHOICE, log 81). -/
def requestLine (p core g : Nat) (s : State) : State :=
  let ctrl := homeCtrl s p g
  let lc := logCore s.dev core
  let s := bumpCounter p (8 * lc) 1 s
  let m := (partAt s p).memory
  if m.lines.any fun x => x.ctrl == ctrl && x.granule == g then
    updMem p (fun m =>
      let hit := m.lines.filter fun x => x.ctrl == ctrl && x.granule == g
      { m with lines := hit ++ m.lines.filter fun x => !(x.ctrl == ctrl && x.granule == g) }) s
  else
    let mine := m.lines.filter (·.ctrl == ctrl)
    let (lines, s) := match (if mine.length ≥ 1024 then mine.getLast? else none) with
      | some v => (m.lines.erase v, if v.used then s else bumpCounter p (8 * v.core + 4) 1 s)
      | none => (m.lines, s)
    updMem p (fun m => { m with lines := ⟨ctrl, g, lc, false, false⟩ :: lines }) s

/-- A demand read meets the stream buffer (R178, R179): true if a filled line serves it. Whether a fill has come back is
a free choice (log 5). -/
def readLine (p g : Nat) (s : State) : Bool × State :=
  let ctrl := homeCtrl s p g
  match (partAt s p).memory.lines.find? fun x => x.ctrl == ctrl && x.granule == g with
  | none => (false, s)
  | some x =>
    let (n, s) := if x.filled then (1, s) else choose 2 s
    let s := if x.used then s else bumpCounter p (8 * x.core + 1) 1 s
    let s := if x.used then s else if n = 1 then bumpCounter p (8 * x.core + 2) 1 s else s
    let s := if n = 0 then bumpCounter p (8 * x.core + 3) 1 s else s
    (n == 1, updMem p (fun m => { m with lines := { x with used := true, filled := n == 1 } :: m.lines.erase x }) s)

/-- ACCESS_COUNTER_THRESHOLD (R231): a migration record, and the counter starts again at 0. -/
def execAccessCounterThreshold (part die region : Nat) (s : State) : Host.Outcome State Fault Refusal :=
  .next (postCrossed part die region s)

/-! ## Issue -/

/-- An INVP comes to a page (R306): the granules of the copy that its range overlaps go. -/
def invalidatePage (core : Nat) (c : Cmd) (va : Nat) (l : Leaf) (s : State) : State :=
  let p := partOfCore s.dev core
  let pa := leafPa l va
  let lo := max c.a.toNat va
  let hi := min (c.a.toNat + c.b.toNat) (va + 65536)
  let s := match copyOwner s p l.pte (destOf s p l.pte pa) pa with
    | some o =>
      let g0 := (pa + (lo - va)) / 256
      let g1 := (pa + (hi - 1 - va)) / 256
      updMem p (fun m => { m with peer := m.peer.filter fun x =>
        !(x.fa == o.1 && x.part == o.2 && decide (g0 ≤ x.granule) && decide (x.granule ≤ g1)) }) s
    | none => s
  updCmd core c.id (fun c => { c with next := c.next + 1 }) s

/-- A PFT comes to a granule (R329): only a LOCAL page that allows reading has a line. -/
def prefetch (core : Nat) (c : Cmd) (va : Nat) (l : Leaf) (s : State) : State :=
  let p := partOfCore s.dev core
  let s := if pteMode l.pte = 0 ∧ l.pte.getLsbD 2 ∧ !(destOf s p l.pte (leafPa l va)).isWindow then
      requestLine p core (leafPa l va / 256) s
    else s
  updCmd core c.id (fun c => { c with next := c.next + 1 }) s

/-- A packet leaves the copy engine (R12, R175, R215, R229, R231): a PEERCACHE read that the copy answers has performed
at once, another puts its granule's line on its way, and a write takes the line out. -/
def sendPacket (core : Nat) (c : Cmd) (va : Nat) (l : Leaf) (s : State) : State :=
  let p := partOfCore s.dev core
  let i := c.next
  let plan := (c.plans[i]?).getD ⟨0, []⟩
  let pa := leafPa l va
  let d := destOf s p l.pte pa
  let acc := c.packetAcc i
  let own := copyOwner s p l.pte d pa
  let line := own.bind fun o => lineOf s p o (pa / 256)
  let hit := line.filter fun x => acc == 0 && x.filling.isNone
  let (n, s) := fresh s
  let pkt : Pkt :=
    { id := n, cmd := c.id, slot := c.slot, idx := i, va := va, pa := pa, dest := d
      mode := pteMode l.pte, acc := acc, stage := if hit.isSome then .performed else .issued, issued := now s
      wr := c.packetOut i plan
      rd := (hit.map fun x => (touched plan).map fun b => (b, x.data.getD b 0)).getD []
      bad := 0, port := none }
  let s := if acc ≠ 0 then dropCopy p l.pte d pa (acc == 2) s
    else
      match own with
      | some o => putLine p ((line.filter (·.filling.isNone)).getD ⟨o.1, o.2, pa / 256, [], some n⟩) s
      | none => s
  let s := countAccess p (dieOfCore core) va l.pte s
  updCmd core c.id (fun c => { c with next := c.next + 1, got := if c.kind = .strm ∧ i = 0 then [] else c.got })
    (updCore core (fun k => { k with pkts := k.pkts ++ [pkt] }) s)

/-- The issue slot of this cycle is used, and the turn passes on (R169). -/
def useIssue (core : Nat) (c : Cmd) (s : State) : State :=
  updCore core (fun k => { k with
    pktAt := now s + 1, turn := if timed c.h then k.turn else (c.slot + 1) % 5 }) s

/-- A command with its translation at hand (R191, R194, R195). -/
def issueWith (core : Nat) (c : Cmd) (va : Nat) (l : Leaf) (s : State) : State :=
  let i := wanted s core c
  if l.pte.getLsbD 8 then
    updMem (partOfCore s.dev core) (fun m => { m with expanding := m.expanding ++ [leafPage l va] }) s
  else if c.kind = .invp then invalidatePage core c va l (useIssue core c s)
  else if c.kind = .pft then prefetch core c va l (useIssue core c s)
  else if !packetOk s core c i va l then copyFault core c s
  else if (unheld s core c).isSome then
    updCmd core c.id (fun c => { c with
      held := c.held ++ [⟨dieOfCore core, va / 65536, l.level, l.pte, l.home⟩] }) s
  else sendPacket core c va l (useIssue core c s)

/-- The next packet of a command (R175, R192, R193): issued, held for, waited for or faulted. The record of a
stream whose signal is withheld is not written (DEDUCED, log 19). -/
def issueNext (core : Nat) (c : Cmd) (s : State) : State :=
  let i := wanted s core c
  if (unheld s core c).isNone && c.isRecord i && c.reason != 0 then
    updCmd core c.id (fun c => { c with next := c.total.getD 0 }) s
  else
    match c.packetVa i with
    | none => packetFault core c s
    | some va =>
      match leafOf s core c va with
      | some l => issueWith core c va l s
      | none =>
        updMem (partOfCore s.dev core) (fun m =>
          { m with walks := m.walks ++ [(dieOfCore core, va / 65536)] }) s

/-- PACKET_ISSUE (R175). -/
def execPacketIssue (core : Nat) (s : State) : Host.Outcome State Fault Refusal :=
  match nextIssue s core with
  | none => .next s
  | some c => .next (issueNext core c s)

/-- TLB_WALK_COMPLETE (R192): the entry is filled, or every access that waited for it faults. -/
def execTlbWalkComplete (part die page : Nat) (s : State) : Host.Outcome State Fault Refusal :=
  if (partAt s part).memory.walks.contains (die, page) then
    let s := updMem part (fun m => { m with walks := m.walks.erase (die, page) }) s
    let r := walk s part (65536 * page)
    let s := meetWalk part (65536 * page) s
    match r with
    | some l => .next (tlbFill part die (65536 * page) l s)
    | none => .next (faultWaiters part (some die) page 1 s)
  else .next s

/-- COMPRESSED_PAGE_EXPANSION (R195): every access that merged into it goes on, or faults when the pool is empty. -/
def execCompressedPageExpansion (part page : Nat) (s : State) : Host.Outcome State Fault Refusal :=
  if (partAt s part).memory.expanding.contains page then
    let s := updMem part (fun m => { m with expanding := m.expanding.erase page }) s
    match walk s part (65536 * page) with
    | none => .next (updMem part (fun m => { m with tlb := m.tlb.filter fun t =>
        !(if t.level = 2 then t.page / 32 == page / 32 else t.page == page) }) s)
    | some l =>
      if l.pte.getLsbD 8 then
        match expand part l s with
        | some s => .next s
        | none => .next (faultWaiters part none page (if l.level = 2 then 32 else 1) s)
      else .next (updMem part (fun m => { m with tlb := m.tlb.filter fun t => t.home != l.home }) s)
  else .next s

/-! ## Perform -/

/-- A packet of a core. -/
def pktOf (s : State) (core id : Nat) : Option Pkt := (coreOf s core).pkts.find? (·.id == id)

/-- Changes a packet. -/
def updPkt (core id : Nat) (f : Pkt → Pkt) (s : State) : State :=
  updCore core (fun k => { k with pkts := k.pkts.map fun x => if x.id = id then f x else x }) s

/-- The 64-byte flits of a packet: one of its own and, for a write or an atomic, those of its bytes. -/
def flitsOf (x : Pkt) : Nat := 1 + if x.acc = 0 then 0 else 4

/-- The port a packet leaves on: one for the packets of one queue to one granule (R227, log 69). -/
def routeOf (s : State) (core : Nat) (x : Pkt) : Option Nat :=
  match x.dest with
  | .peer fa q => routeTo s (5 * core + x.slot) fa q (x.pa / 256)
  | _ => none

/-- The flits a packet to another device may need (R232, R234). -/
def flitRoom (s : State) (p : Nat) (x : Pkt) : Nat :=
  match x.dest with
  | .peer fa q => flitsOf x + if pairRuns s p fa q then tagFlits (flitsOf x) else 0
  | _ => 0

/-- A packet can perform (R176): no earlier one of its queue to its granule has yet to, its controller is not
retraining (R274) and, for an atomic, no write of this cycle is to its granule (R201), or its port has room for it
(R232). -/
def performReady (s : State) (core : Nat) (x : Pkt) : Bool :=
  let before := (coreOf s core).pkts.takeWhile (·.id != x.id)
  x.stage == .issued &&
    !(before.any fun y => y.stage == .issued && y.slot == x.slot && y.dest == x.dest && y.pa == x.pa) &&
    (match x.dest with
     | .local q =>
       !(partAt s q).memory.retrain.contains (homeCtrl s q (x.pa / 256)) && (x.acc != 2 || unwritten s q x.pa 256)
     | .peer _ _ => (routeOf s core x).any fun i =>
       (portOf s i).queue.isEmpty && portRoom s i (flitRoom s (partOfCore s.dev core) x)
     | _ => true)

/-- The bytes of a granule after masked bytes are written. -/
def putBytes (bytes : List Byte) (wr : List (Nat × Byte × Byte)) : List Byte :=
  bytes.zipIdx.map fun b =>
    match wr.find? fun e => e.1 == b.2 with
    | some e => (b.1 &&& ~~~e.2.2) ||| (e.2.1 &&& e.2.2)
    | none => b.1

/-- An atomic packet on a granule (R176, R215): the old bytes, the new ones, and the flags. Its atomics perform one
after another, each on what those before it left. -/
def atomicRun (c : Cmd) (plan : Plan) (bytes : List Byte) : List (Nat × Byte) × List (Nat × Byte × Byte) × FlagSet :=
  let at_ (wr : List (Nat × Byte × Byte)) : List (Nat × Byte) := (putBytes bytes wr).zipIdx.map fun b => (b.2, b.1)
  let r := plan.pieces.foldl (fun (r : List (Nat × Byte × Byte) × FlagSet) x =>
    let n := c.atomic x.q (pieceBits (at_ r.1) x)
    ((bitsToBytes x.goff x.nb n.1).foldl (fun l e => mergeByte e l) r.1, r.2 ||| n.2)) ([], 0)
  ((touched plan).map fun b => (b, bytes.getD b 0), r)

/-- A whole granule written leaves no error (DESIGN CHOICE, log 20). -/
def healGranule (q pa : Nat) (wr : List (Nat × Byte × Byte)) (s : State) : State :=
  if wr.length = 256 ∧ wr.all (fun e => e.2.2 == 0xFF) then
    updMem q (fun m => { m with dramErr := tset 0 (pa / 256) 0 m.dramErr }) s
  else s

/-- A packet performs at a controller of this device (R176, R197, R201); one to memory that no partition has takes a
fabric error (R226). A read that the stream buffer serves comes to no DRAM, so to none of its errors (R178). -/
def performLocal (core q : Nat) (c : Cmd) (plan : Plan) (x : Pkt) (s : State) : State :=
  let done (f : Pkt → Pkt) (fl : FlagSet) (s : State) : State :=
    updCmd core c.id (fun c => { c with flags := c.flags ||| fl })
      (updPkt core x.id (fun y => f { y with stage := .performed }) s)
  if absent s q x.pa 256 then done (fun y => { y with bad := 3 }) 0 s
  else
    let (served, s) := if x.acc = 0 then readLine q (x.pa / 256) s else (false, s)
    let (err, s) := if served || x.acc == 1 then (false, s) else meetDramError q x.pa s
    if err then done (fun y => { y with bad := 2 }) 0 s
    else
      match x.acc with
      | 0 =>
        let bytes := seenBytes s q x.pa 256
        done (fun y => { y with rd := (touched plan).map fun b => (b, bytes.getD b 0) }) 0 s
      | 1 =>
        done (fun y => y) (c.packetFlags x.idx plan)
          (healGranule q x.pa x.wr (physWrite q x.pa (putBytes (physBytes s q x.pa 256) x.wr) s))
      | _ =>
        let bytes := physBytes s q x.pa 256
        let r := atomicRun c plan bytes
        done (fun y => { y with rd := r.1 }) r.2.2 (physWrite q x.pa (putBytes bytes r.2.1) s)

/-- The operation code of R281 that an atomic travels with, its operand bytes, and a .cas's compare bytes (R215, R281,
R288): the adds of CPAA and MDRC travel as .add, or as .bin with the triple of their element. -/
def atomOp (c : Cmd) (x : Piece) : Nat × List Byte × List Byte :=
  let n := x.nb / 8
  let v := c.operand x.q
  if c.kind = .amo ∨ c.kind = .vamo then
    (c.o.gsub.toNat, leBytes n v.1, if c.o.gsub = 9 then leBytes n v.2 else [])
  else if c.triples then (10, leBytes 32 (splitBins c.emax (decodeVal (.flt f32) v.1)).1.toNat, [])
  else (0, leBytes n v.1, [])

/-- The messages of a packet to another device or the host: a read, masked bytes, or its atomics one after another. -/
def remoteOut (c : Cmd) (plan : Plan) (x : Pkt) (s : State) : State :=
  match x.acc with
  | 0 => send (.read x.dest x.pa) s
  | 1 => send (.packet x.dest x.pa x.wr) s
  | _ =>
    plan.pieces.foldl (fun s y =>
      let op := atomOp c y
      send (.atomic x.dest (x.pa + y.goff / 8) op.1 op.2.1 op.2.2) s) s

/-- A packet's flits leave on its route, with their tags when its pair is confidential (R227, R232, R234): true if it
is, and its answer then waits for its tag (R235). -/
def leavePort (core : Nat) (x : Pkt) (s : State) : Bool × State :=
  match routeOf s core x with
  | none => (false, s)
  | some i =>
    let (conf, s) := confidential (partOfCore s.dev core) x.dest s
    let n := flitsOf x
    if conf then
      let s := sendFlits i (n + tagFlits n) s
      (true, updPkt core x.id (fun y => { y with port := some i })
        (setPort i { portOf s i with held := (portOf s i).held ++ [(.answer core x.id, 0)] } s))
    else (false, sendFlits i n s)

/-- A packet performs at another device or the host (R226, R229, R233): its answer is a free value, and a peer may
answer with a fabric error. A PEERCACHE read fills its line, a confidential one once its tag verifies (R235). -/
def performRemote (core : Nat) (c : Cmd) (plan : Plan) (x : Pkt) (s : State) : State :=
  let p := partOfCore s.dev core
  let (n, s) := if x.dest = .host then (1, s) else choose 2 s
  let (bytes, s) := freeBytes 256 s
  let r := if x.acc = 2 then atomicRun c plan bytes else ((touched plan).map fun b => (b, bytes.getD b 0), [], 0)
  let (conf, s) := leavePort core x s
  let s := updPkt core x.id (fun y => { y with
    stage := .performed, bad := if n = 0 then 3 else y.bad, rd := if n = 0 ∨ x.acc = 1 then [] else r.1 })
    (remoteOut c plan x s)
  let s := match x.dest with
    | .peer fa q =>
      if n ≠ 0 ∧ x.acc = 0 ∧ x.mode = 2 then
        if conf then stageLine p (fa, q) (x.pa / 256) x.id bytes s else fillLine p (fa, q) (x.pa / 256) x.id bytes s
      else s
    | _ => s
  updCmd core c.id (fun c => { c with
    flags := c.flags ||| (if x.acc = 1 then c.packetFlags x.idx plan else r.2.2) }) s

/-- A packet performs at a doorbell register of a partition of this device (R239, R241). -/
def performWindow (core p : Nat) (x : Pkt) (s : State) : State :=
  let byte := ((x.wr.head?).map (·.1)).getD 0
  if s.dev.parts ≤ p then updPkt core x.id (fun y => { y with stage := .performed, bad := 3 }) s
  else if x.acc = 1 then
    updPkt core x.id (fun y => { y with stage := .performed })
      (bellWrite p ((x.pa - windowBase + byte) / 32) true
        (BitVec.ofNat 64 (leNat (x.wr.map fun e => e.2.1))) s)
  else
    let plan := ((cmdOf s core x.cmd).bind fun c => c.plans[x.idx]?).getD ⟨0, []⟩
    let l := touched plan
    let off := x.pa - windowBase + l.headD 0
    let v := leBytes 8 (bellRead s p (off / 32) (off % 32)).toNat
    updPkt core x.id (fun y => { y with
      stage := .performed, rd := l.zipIdx.map fun b => (b.1, v.getD b.2 0) }) s

/-- A PEERCACHE read of another partition of this device fills its line (R229). -/
def fillOwnLine (core : Nat) (x : Pkt) (s : State) : State :=
  match x.dest with
  | .local q =>
    if x.mode = 2 ∧ x.acc = 0 ∧ ((pktOf s core x.id).all fun y => y.bad == 0) then
      fillLine (partOfCore s.dev core) (ownFa s.dev, q) (x.pa / 256) x.id (seenBytes s q x.pa 256) s
    else s
  | _ => s

/-- PACKET_PERFORM (R176). -/
def execPacketPerform (core pkt : Nat) (s : State) : Host.Outcome State Fault Refusal :=
  match pktOf s core pkt with
  | none => .next s
  | some x =>
    match cmdOf s core x.cmd with
    | none => .next s
    | some c =>
      if performReady s core x then
        let plan := (c.plans[x.idx]?).getD ⟨0, []⟩
        match x.dest with
        | .local q =>
          .next (fillOwnLine core x (performLocal core q c plan x (confidential (partOfCore s.dev core) x.dest s).2))
        | .window q => .next (performWindow core q x (confidential (partOfCore s.dev core) x.dest s).2)
        | _ => .next (performRemote core c plan x s)
      else .next s

/-! ## Reply -/

/-- A packet to another device has had no answer for 2^24 cycles (R233). -/
def timedOut (s : State) (x : Pkt) : Bool :=
  (match x.dest with | .peer _ _ => true | _ => false) && decide (x.issued + 2 ^ 24 ≤ now s)

/-- A packet's answer can come back: it has performed and not been given up (R233), its group's tag has verified (R235), and a scratchpad writer's
release is complete (R207). -/
def replyReady (s : State) (core : Nat) (x : Pkt) : Bool :=
  x.stage == .performed && x.port.isNone && !timedOut s x &&
    (match cmdOf s core x.cmd with
     | some c => !writesScratch c.kind || c.rel.isNone
     | none => true)

/-- A command whose packets are all answered has more to do: an ordered graph writes its rows (R185), and a STRM
checks its record (R187). -/
def answered (core id : Nat) (s : State) : State :=
  match cmdOf s core id with
  | none => s
  | some c =>
    if c.reason != 0 || !c.allAnswered || c.stage != .begun then s
    else if c.kind == .cpy && !c.graph.isEmpty && gOrdered c.graph then queueBits core id c.orderedBits s
    else if c.kind == .strm && !graphOk c.record then updCmd core id (fun c => { c with reason := 5 }) s
    else s

/-- A packet's answer (R176, R197, R226): the entry is free; data goes to its rows, an error withholds the signal. -/
def takeReply (core : Nat) (x : Pkt) (bad : Nat) (s : State) : State :=
  let s := updCore core (fun k => { k with pkts := k.pkts.filter (·.id != x.id) }) s
  match cmdOf s core x.cmd with
  | none => s
  | some c =>
    if bad ≠ 0 then updCmd core c.id (fun c => { c with reason := if c.reason = 0 then bad else c.reason }) s
    else
      let plan := (c.plans[x.idx]?).getD ⟨0, []⟩
      let keep := !c.graph.isEmpty || c.kind == .strm
      let main := c.packetKind x.idx != 2
      let s := updCmd core c.id (fun c => { c with got := c.got ++ [(x.idx, if keep then x.rd else [])] }) s
      let s := queueBits core c.id (c.answerBits x.idx plan x.rd) s
      publishDone core c.id (if main then answered core c.id s else s)

/-- PACKET_REPLY (R176). -/
def execPacketReply (core pkt : Nat) (s : State) : Host.Outcome State Fault Refusal :=
  match pktOf s core pkt with
  | none => .next s
  | some x => if replyReady s core x then .next (takeReply core x x.bad s) else .next s

/-- FABRIC_RESPONSE_TIMEOUT (R233): the packet takes a fabric error. -/
def execFabricResponseTimeout (core pkt : Nat) (s : State) : Host.Outcome State Fault Refusal :=
  match pktOf s core pkt with
  | none => .next s
  | some x => if timedOut s x then .next (takeReply core x 3 s) else .next s

/-! ## Memory events -/

/-- CORRECTABLE_THRESHOLD_CROSSED (R197): the count of a granule reaches the threshold, and is posted; the count then
starts again at 0 (DESIGN CHOICE, log 86). -/
def execCorrectableThresholdCrossed (part granule : Nat) (s : State) : Host.Outcome State Fault Refusal :=
  let m := (partAt s part).memory
  if m.cethr ≠ 0 ∧ m.cethr ≤ (tget 0 granule m.ceCount) then
    let at_ := granulePlace s part granule
    .next (postFaq part (256 * granule) 1 at_.1 at_.2
      (updMem part (fun m => { m with ceCount := tset 0 granule 0 m.ceCount }) s))
  else .next s

/-- REFRESH_LIMIT_REACHED (R177, R179): a row is closed and reopened; the effect a program can see is latency, and
REFCLOSE counts it. -/
def execRefreshLimitReached (part ctrl : Nat) (s : State) : Host.Outcome State Fault Refusal :=
  .next (bumpCounter part (8 * 256 + (partCtrls s.dev part).findIdx (· == ctrl)) 1 s)

/-! ## The supervisor's answer to a fault -/

/-- The faulted command cres and cabn act on (R193, R255): the slot's, or else the supervisor queue's, which no slot
number of theirs can name but R259 has them abandon (DEDUCED, log 21). -/
def faultedCmd (s : State) (core sl : Nat) : Option Cmd :=
  let f (q : Nat) := (coreOf s core).cq.find? fun c => c.slot == q && (match c.stage with | .faulted _ => true | _ => false)
  match f sl with
  | some c => some c
  | none => f 4

/-- Issue starts again at the recorded packet (R193). -/
def resumeFaulted (core sl : Nat) (s : State) : State :=
  match faultedCmd s core sl with
  | some c => updCmd core c.id (fun c => { c with stage := .begun }) s
  | none => s

/-- The command is abandoned (R193). -/
def abandonFaulted (core sl : Nat) (s : State) : State :=
  match faultedCmd s core sl with
  | some c => updCmd core c.id abandon s
  | none => s

end Sys2Proof.Machine
end

