-- ==== Sys2Proof/Machine/Supervisor.lean ====
section
/-! DEFINITION. The supervisor (R254 to R263, R324): the husk of a slot and the core state as bytes, the functions
of TRAP, and the dispatch of events. -/

namespace Sys2Proof.Machine

/-! ## Bytes -/

/-- Bytes with zeros after them up to a length. -/
def padTo (n : Nat) (l : List Byte) : List Byte := l ++ List.replicate (n - l.length) 0
/-- The little-endian number in `n` bytes from an offset. -/
def numAt (h : List Byte) (off n : Nat) : Nat := leNat ((h.drop off).take n)
/-- The bytes of a word. -/
def wordBytes {w : Nat} (n : Nat) (x : BitVec w) : List Byte := leBytes n x.toNat

/-! ## Landing-queue entries (R261) -/

/-- FILE of a landing-queue entry. -/
def fileCode : RegFile → Nat
  | .scalar => 0
  | .va => 1
  | .vb => 2
  | .pa => 3
  | .pb => 4
  | _ => 5

/-- The register file of a FILE code. -/
def fileOfCode : Nat → RegFile
  | 0 => .scalar
  | 1 => .va
  | 2 => .vb
  | 3 => .pa
  | 4 => .pb
  | _ => .guard

/-- The kinds of timed access, numbered for PATH. -/
def lsCode : LsKind → Nat
  | .vec => 0
  | .pred => 1
  | .word => 2
  | .tag => 3
  | .zero => 4

/-- The kind of a number. -/
def lsOfCode : Nat → LsKind
  | 0 => .vec
  | 1 => .pred
  | 2 => .word
  | 3 => .tag
  | _ => .zero

/-- An entry of 640 bytes. -/
def landEntry (kind file reg pois land read flg path mask data : Nat) : List Byte :=
  leBytes 1 kind ++ leBytes 1 file ++ leBytes 1 reg ++ leBytes 1 pois ++ leBytes 2 land ++ leBytes 1 read ++
    leBytes 1 flg ++ leBytes 8 path ++ leBytes 48 0 ++ leBytes 64 mask ++ leBytes 512 data

/-- The entry of a landing: PATH, of which a landing has no use, holds the SUBST bits and the bypass register
(DESIGN CHOICE, log 22). -/
def flightEntry (clk : Nat) (f : Flight) : List Byte :=
  landEntry 1 (fileCode f.file) f.reg (if f.pois then 1 else 0) (f.land - clk) 0 f.flags.toNat
    (f.subst.toNat + (f.byp.elim 0 (· + 1)) * 2 ^ 18 + (if f.slow then 2 ^ 28 else 0)) 0 f.val.toNat

/-- PATH: block, row, AM and lane, and above them what the spec leaves open (DESIGN CHOICE, log 22). -/
def pathWord (blk row : Nat) (am : Bool) (lane col hop sub : Nat) (spec : Bool) (kind : LsKind) : Nat :=
  blk + row * 2 ^ 3 + (if am then 2 ^ 13 else 0) + lane * 2 ^ 14 + col * 2 ^ 18 + hop * 2 ^ 24 + sub * 2 ^ 32 +
    (if spec then 2 ^ 48 else 0) + lsCode kind * 2 ^ 49

/-- The entry of a load: a landing once its row is read. -/
def loadEntry (clk : Nat) (l : LoadOp) : List Byte :=
  if l.data.isSome then flightEntry clk (loadFlight l)
  else
    landEntry 2 (fileCode l.file) l.reg (if l.spec then 1 else 0) (l.land - clk) (l.read - clk) 0
      (pathWord l.blk l.row l.am l.lane l.col l.hop l.sub l.spec l.kind) 0 0

/-- The entry of a store, with its data as the registers stand (R251). -/
def storeEntry (c : Ctx) (w : StoreOp) : List Byte :=
  let d := w.data.getD (storeData w c)
  landEntry 3 (fileCode w.file) w.reg 0 (w.write - c.pos.clk) 0 0
    (pathWord w.blk w.row w.am w.lane w.col w.hop w.sub false w.kind) d.2.toNat d.1.toNat

/-- The landing queue of a context, in issue order (R252). -/
def landQueue (c : Ctx) : List (List Byte) :=
  let f := c.fly
  let l := f.flights.map (fun x => (x.seq, flightEntry c.pos.clk x)) ++
    f.loads.map (fun x => (x.seq, loadEntry c.pos.clk x)) ++ f.stores.map fun x => (x.seq, storeEntry c x)
  (l.foldl (fun (m : List (Nat × List Byte)) x => (m.filter (·.1 < x.1)) ++ [x] ++ m.filter (¬ ·.1 < x.1)) []).map
    (·.2)

/-- An entry put back in flight, as entry `seq` (R256). -/
def loadLandEntry (clk seq : Nat) (e : List Byte) (f : InFlight) : InFlight :=
  let n (off k : Nat) := numAt e off k
  let path := n 8 8
  let fld (lo k : Nat) := path / 2 ^ lo % 2 ^ k
  let file := fileOfCode (n 1 1)
  match n 0 1 with
  | 1 =>
    let byp := fld 18 10
    let x : Flight :=
      { file := file, reg := n 2 1, val := BitVec.ofNat 4096 (n 128 512), pois := n 3 1 == 1
        flags := BitVec.ofNat 6 (n 7 1), subst := BitVec.ofNat 16 path
        byp := if byp = 0 then none else some (byp - 1), land := clk + n 4 2, slow := fld 28 1 == 1, seq := seq }
    { f with flights := f.flights ++ [x] }
  | 2 =>
    let x : LoadOp :=
      { kind := lsOfCode (fld 49 3), file := file, reg := n 2 1, blk := fld 0 3, row := fld 3 10
        col := fld 18 6, am := fld 13 1 == 1, sub := fld 32 16, lane := fld 14 4, hop := fld 24 8
        spec := fld 48 1 == 1, read := clk + n 6 1, land := clk + n 4 2, data := none, seq := seq }
    { f with loads := f.loads ++ [x] }
  | 3 =>
    let x : StoreOp :=
      { kind := lsOfCode (fld 49 3), file := file, reg := n 2 1, mask := 0, blk := fld 0 3, row := fld 3 10
        col := fld 18 6, am := fld 13 1 == 1, sub := fld 32 16, lane := fld 14 4, hop := fld 24 8
        write := clk + n 4 2, data := some (BitVec.ofNat 4096 (n 128 512), BitVec.ofNat 512 (n 64 64)), seq := seq }
    { f with stores := f.stores ++ [x] }
  | _ => f

/-! ## The husk (R260, R261) -/

/-- The size of a husk. -/
def huskSize : Nat := 0x14000

/-- A context in its transom, as the husk's INPH has it (R49): a sign-off not yet sent does not count. -/
def inTransom (c : Ctx) : Bool :=
  match c.status with
  | .transom sent => sent
  | .trapped (some sent) _ => sent
  | .husked (some sent) _ => sent
  | _ => c.pos.fresh

/-- The bundle at which a husked slot resumes (R261): where a wait holds it, the bundle of the wait. -/
def huskPc (c : Ctx) : Nat :=
  match c.status with
  | .waiting (.phase _ _ _ pc) true => pc
  | .trapped none (some (.phase _ _ _ pc)) => pc
  | .husked none (some (.phase _ _ _ pc)) => pc
  | _ => c.pos.pc

/-- The event the husk carries (R261): the slot's trap being handled, or a pre-emption request. -/
def huskEvent (s : State) (id : Nat) : W64 × W64 × W64 :=
  let u := (coreOf s (id / 5)).sup
  if bits u.trapc 7 0 ≠ 0 ∧ bits u.trapc 7 0 < 0x20 ∧ eventSlot u.trapc = id % 5 then (u.trapc, u.trapa, u.trapv)
  else
    let e : Event :=
      { cause := 0x21, slot := id % 5, async := false, fetch := false, detail := 0
        va := ((ctxOf s id).pos.codeBase + 64 * huskPc (ctxOf s id)) % 2 ^ 57, syl := 15, val := 0 }
    (trapcWord e, trapaWord e, trapvWord e)

/-- PHTSEL as the husk holds it (R261, R262). -/
def huskPhtsel (c : Ctx) : W64 :=
  phtselWord { c with pos := { c.pos with inph := !inTransom c } }

/-- The 32 control words (R261). -/
def controlWords (s : State) (id : Nat) : List W64 :=
  let c := ctxOf s id
  let e := huskEvent s id
  [c.regs.sPois, c.regs.vPois,
    BitVec.ofNat 64 (c.regs.pPois.toNat + (setBit c.regs.g 0 true).toNat * 2 ^ 16)] ++
    ((List.range 4).map fun i => tget 0 i c.regs.tl) ++
    ((List.range 8).map fun i => (tget 0 i c.ctl.fm).setWidth 64) ++
    [c.ctl.nbv.setWidth 64, c.ctl.flush.setWidth 64, c.ctl.rmode.setWidth 64, c.ctl.flags.setWidth 64,
      c.ctl.subst.setWidth 64, c.ctl.prio.setWidth 64, c.ctl.teb] ++
    ((List.range 4).map fun i => c.ctl.sam.extractLsb' (64 * i) 64) ++
    [huskPhtsel c, lstkWord c, e.1, e.2.1, e.2.2, 0]

/-- The loop stack, outermost entry first, and the call stack, bottom entry first (R260). -/
def stackBytes (c : Ctx) : List Byte :=
  padTo 128 (c.pos.loops.reverse.flatMap fun e => leBytes 4 e.start ++ leBytes 4 e.stop ++ leBytes 8 e.count) ++
    padTo 128 (c.pos.calls.reverse.flatMap (leBytes 8))

/-- The block of the phaser memberships, the phase clock, the landing-queue count and the bytes of R324; a
membership's number is in bytes 0-3 and its mode in bytes 4-7 (DESIGN CHOICE, log 22). -/
def memberBytes (c : Ctx) : List Byte :=
  padTo 128 (c.phasers.flatMap fun m => leBytes 4 m.1 ++ leBytes 4 m.2.toNat) ++ leBytes 8 c.pos.clk ++
    leBytes 8 (landQueue c).length ++
    padTo 112 (leBytes 1 c.ctl.tlNext.toNat ++ leBytes 1 (if c.ctl.psv then 1 else 0) ++
      leBytes 1 c.ctl.psg.toNat ++ leBytes 1 c.ctl.pst.toNat ++ leBytes 1 c.ctl.psf.toNat)

/-- The tile-request capture (R252, R260). -/
def captureBytes (c : Ctx) : List Byte :=
  padTo 256 (c.fly.tiles.flatMap fun t =>
    wordBytes 8 t.val ++ leBytes 1 1 ++ leBytes 1 t.reg ++ leBytes 2 (t.land - c.pos.clk) ++ leBytes 4 0)

/-- The semaphores allocated to the context's task (R260). -/
def semBytes (s : State) (id : Nat) : List Byte :=
  (List.range 256).flatMap fun i =>
    leBytes 2 (if i ≠ 0 ∧ (ctxOf s id).ctl.sam.getLsbD i then (semGet (coreOf s (id / 5)) i).toNat else 0)

/-- The husk of a slot (R260). -/
def huskBytes (s : State) (id : Nat) : List Byte :=
  let c := ctxOf s id
  ((List.range 64).flatMap fun n => wordBytes 512 (vget c n)) ++
    ((List.range 64).flatMap fun n => wordBytes 8 (sget c n)) ++
    ((List.range 16).flatMap fun n => wordBytes 64 (pget c n)) ++
    ((List.range 2).flatMap fun n => wordBytes 512 (tget 0 n c.regs.gen)) ++
    ((List.range 32).flatMap fun n => wordBytes 64 (tget 0 n c.regs.sh)) ++
    ((controlWords s id).flatMap (wordBytes 8)) ++ stackBytes c ++ memberBytes c ++
    ((List.range 256).flatMap fun i => leBytes 1 (tget 0 i c.reasons)) ++ captureBytes c ++ semBytes s id ++
    leBytes 1792 0 ++ padTo 40960 (landQueue c).flatten

/-- A tile as a register holds it, its zero field 0 (R4, R52). -/
def tileWord (n : Nat) : W64 := BitVec.ofNat 64 n &&& 0x8000FFFFFFFFFFFF#64

/-- The registers of a husk. -/
def huskRegs (h : List Byte) : Regs :=
  let w (i : Nat) := numAt h (0x9200 + 8 * i) 8
  { s := tsetAll 0 1 ((List.range 63).map fun n => BitVec.ofNat 64 (numAt h (0x8000 + 8 * (n + 1)) 8)) []
    sPois := BitVec.ofNat 64 (w 0)
    v := tsetAll 0 0 ((List.range 64).map fun n => BitVec.ofNat 4096 (numAt h (512 * n) 512)) []
    vPois := BitVec.ofNat 64 (w 1)
    p := (List.range 16).foldl (fun m n =>
      if n % 8 = 0 then m else tset 0 n (BitVec.ofNat 512 (numAt h (0x8200 + 64 * n) 64)) m) []
    pPois := BitVec.ofNat 16 (w 2), byp := [], bypPois := 0, g := BitVec.ofNat 32 (w 2 / 2 ^ 16) &&& 0xFFFFFFFE#32
    tl := tsetAll 0 0 ((List.range 4).map fun i => tileWord (w (3 + i))) []
    sh := tsetAll 0 0 ((List.range 32).map fun n => BitVec.ofNat 512 (numAt h (0x8A00 + 64 * n) 64)) []
    gen := tsetAll 0 0 ((List.range 2).map fun n => BitVec.ofNat 4096 (numAt h (0x8600 + 512 * n) 512)) [] }

/-- The control registers of a husk. -/
def huskCtl (h : List Byte) : Ctl :=
  let w (i : Nat) := numAt h (0x9200 + 8 * i) 8
  let b (i : Nat) := numAt h (0x9490 + i) 1
  { fm := tsetAll 0 0 ((List.range 8).map fun i => fmKept (BitVec.ofNat 32 (w (7 + i)))) []
    nbv := BitVec.ofNat 8 (w 15), flush := BitVec.ofNat 3 (w 16), rmode := rmodeKept (BitVec.ofNat 3 (w 17))
    flags := BitVec.ofNat 6 (w 18), subst := BitVec.ofNat 16 (w 19), prio := BitVec.ofNat 2 (w 20)
    teb := BitVec.ofNat 64 (w 21)
    sam := BitVec.ofNat 256 (w 22 + w 23 * 2 ^ 64 + w 24 * 2 ^ 128 + w 25 * 2 ^ 192)
    tlNext := BitVec.ofNat 2 (b 0), psv := b 1 == 1, psg := BitVec.ofNat 6 (b 2), pst := BitVec.ofNat 7 (b 3)
    psf := BitVec.ofNat 7 (b 4) }

/-- The position of a husk in a slot whose code and phase tables stand (R260, R261). -/
def huskPos (h : List Byte) (p : Pos) (fresh : Bool) : Pos :=
  let sel := BitVec.ofNat 64 (numAt h (0x9200 + 8 * 26) 8)
  let stk := BitVec.ofNat 64 (numAt h (0x9200 + 8 * 27) 8)
  let n := bits stk 2 0
  { p with
    pc := (numAt h (0x9200 + 8 * 29) 8 + 2 ^ 57 - p.codeBase % 2 ^ 57) % 2 ^ 57 / 64
    clk := numAt h 0x9480 8
    loops := ((List.range n).map fun i =>
      let o := 0x9300 + 16 * i
      ⟨numAt h o 4, numAt h (o + 4) 4, numAt h (o + 8) 8⟩).reverse
    calls := ((List.range (bits stk 11 8)).map fun i => numAt h (0x9380 + 8 * i) 8).reverse
    buf := sel.extractLsb' 7 1, entry := sel.extractLsb' 0 6, inph := sel.getLsbD 6
    fresh := fresh, sb := sel.extractLsb' 15 1, snext := sel.extractLsb' 8 6, endSent := false }

/-- What a husk has in flight (R252, R261); a captured tile keeps its index in its task's space (R51). -/
def huskFly (h : List Byte) (x : Option Task) : InFlight :=
  let clk := numAt h 0x9480 8
  let n := numAt h 0x9488 8
  let f := (List.range n).foldl (fun f i => loadLandEntry clk i ((h.drop (0xA000 + 640 * i)).take 640) f) InFlight.reset
  let tx := (x.map fun x => bits x.record 319 304).getD 0
  let ty := (x.map fun x => bits x.record 303 288).getD 0
  let tiles := (List.range 16).filterMap fun i =>
    let o := 0x9600 + 16 * i
    let v := tileWord (numAt h o 8)
    if numAt h (o + 8) 1 = 1 then
      some { val := v, reg := numAt h (o + 9) 1, land := clk + numAt h (o + 10) 2
             index := if v.getLsbD 63 then none else some (bits v 15 0 + tx * (bits v 31 16 + ty * bits v 47 32)) }
    else none
  { f with tiles := tiles, seq := n }

/-- The rank's sign-off for the phase it ended still stands with its task (R41). -/
def signOffStands (x : Option Task) (rank : Nat) : Bool := x.any fun x => x.signoffs.any (·.rank == rank)

/-- The registers of a husk, with what the slot's bypass registers show if it stands where the husk does: the husk has no
entry for them (R74, R252; DEDUCED, log 22). -/
def huskRegsAt (h : List Byte) (pos : Pos) (c : Ctx) : Regs :=
  if pos.pc = c.pos.pc ∧ pos.clk = c.pos.clk then
    { huskRegs h with byp := c.regs.byp, bypPois := c.regs.bypPois }
  else huskRegs h

/-- A slot takes a husk (R255, R261, R398): its context waits for the return, in the transom it was husked in, at the
phase begun since, or at its bundle. It is trapped if the husk's event is a trap (R262). -/
def huskCtx (h : List Byte) (x : Option Task) (c : Ctx) : Ctx :=
  let inph := (BitVec.ofNat 64 (numAt h (0x9200 + 8 * 26) 8)).getLsbD 6
  let sent := !inph && signOffStands x c.rank
  let pos := huskPos h c.pos (!inph && !sent)
  let transom := if inph then none else some true
  let cause := numAt h (0x9200 + 8 * 28) 1
  { c with
    regs := huskRegsAt h pos c, ctl := huskCtl h, pos := pos, fly := huskFly h x
    reasons := tsetAll 0 0 ((List.range 256).map fun i => numAt h (0x9500 + i) 1) []
    phasers := (List.range 8).filterMap fun i =>
      let m := numAt h (0x9400 + 8 * i + 4) 4
      if m = 0 then none else some (numAt h (0x9400 + 8 * i) 4, BitVec.ofNat 2 m)
    event := none
    status := if 0 < cause ∧ cause < 0x20 then .trapped transom none else .husked transom none }

/-- The semaphores a husk's task has are restored (R50). -/
def huskSems (h : List Byte) (sam : BitVec 256) (k : Core) : Core :=
  (List.range 256).foldl (fun k i =>
    if i ≠ 0 ∧ sam.getLsbD i then semPut i (BitVec.ofNat 16 (numAt h (0x9700 + 2 * i) 2)) k else k) k

/-! ## The core state (R260) -/

/-- Accumulator tiles of a mask. -/
def accTiles (m : Nat) : List Nat := (List.range 8).filter fun t => m / 2 ^ t % 2 == 1

/-- The size of the core state of a task (R260): none without accumulators or matrix use (R388). -/
def coreStateSize (acc : Nat) (mxu : Bool) : Nat :=
  65536 * (accTiles acc).length + (if mxu then 131072 + 64 else 0)

/-- The tiles a header declares (R269). -/
def hdrTiles (h : BitVec 2048) : List Nat := (List.range 768).filter fun t => h.getLsbD (512 + t)
/-- The accumulator tiles a header declares. -/
def hdrAcc (h : BitVec 2048) : List Nat := accTiles (bits h 111 104)
/-- Matrix use. -/
def hdrMxu (h : BitVec 2048) : Bool := h.getLsbD 96
/-- SAVE. -/
def hdrSave (h : BitVec 2048) : Nat := bits h 447 384

/-- The size of a member's area at SAVE (R388). -/
def areaSize (h : BitVec 2048) : Nat :=
  ceilDiv (0x14000 + coreStateSize (bits h 111 104) (hdrMxu h) + 4096 * (hdrTiles h).length + 4096) 4096 * 4096

/-- The weights of a bank. -/
def bankBytes (b : Bank) : List Byte :=
  (List.range 16384).flatMap fun i => wordBytes 4 (tget latchZero i b.w)

/-- KV, NV and the format of a bank (DESIGN CHOICE of their places, log 22). -/
def bankFields (b : Bank) : List Byte :=
  leBytes 1 b.kv ++ leBytes 1 b.nv ++ wordBytes 1 b.fmt ++
    leBytes 1 ((if b.intw then 1 else 0) + (if b.wsc then 2 else 0)) ++ wordBytes 4 b.fm

/-- The core state (R260). -/
def coreStateBytes (k : Core) (acc : Nat) (mxu : Bool) : List Byte :=
  ((accTiles acc).flatMap fun t => (List.range 128).flatMap fun r => wordBytes 512 (accAt k t r)) ++
    if mxu then
      bankBytes k.mx.bank0 ++ bankBytes k.mx.bank1 ++
        padTo 64 (wordBytes 1 k.mx.act ++ wordBytes 1 k.mx.doff ++ wordBytes 1 k.mx.bw ++ leBytes 5 0 ++
          bankFields k.mx.bank0 ++ bankFields k.mx.bank1)
    else []

/-- A bank from its weights and fields. -/
def bankOf (w f : List Byte) : Bank :=
  let b := numAt f 3 1
  { w := tsetAll latchZero 0 ((List.range 16384).map fun i => BitVec.ofNat 32 (numAt w (4 * i) 4)) []
    kv := numAt f 0 1, nv := numAt f 1 1, fmt := BitVec.ofNat 6 (numAt f 2 1), fm := BitVec.ofNat 32 (numAt f 4 4)
    intw := b % 2 == 1, wsc := b / 2 % 2 == 1 }

/-- The core state put back. -/
def loadCoreState (core : Nat) (h : List Byte) (acc : Nat) (mxu : Bool) (s : State) : State :=
  let tiles := accTiles acc
  let s := tiles.zipIdx.foldl (fun s t =>
    (List.range 128).foldl (fun s r =>
      writeAcc core t.1 r (BitVec.ofNat 4096 (numAt h (65536 * t.2 + 512 * r) 512)) (BitVec.allOnes 512) s) s) s
  if mxu then
    let o := 65536 * tiles.length
    let f := h.drop (o + 131072)
    updCore core (fun k => { k with mx :=
      { act := BitVec.ofNat 1 (numAt f 0 1), bank0 := bankOf ((h.drop o).take 65536) (f.drop 8)
        bank1 := bankOf ((h.drop (o + 65536)).take 65536) (f.drop 16), doff := BitVec.ofNat 8 (numAt f 1 1)
        bw := BitVec.ofNat 8 (numAt f 2 1) } }) s
  else s

/-- The declared accumulators and matrix use of a slot's task (R269). -/
def declaredUse (s : State) (id : Nat) : Nat × Bool :=
  match (ctxOf s id).task.bind (taskOf s (partOfCore s.dev (id / 5))) with
  | some x => (bits x.header 111 104, x.header.getLsbD 96)
  | none => (0, false)

/-! ## The functions of TRAP (R255) -/

/-- The bundle a task context issues next, or the cause of its fetch fault: beyond CODELEN a permission fault (R283). -/
def fetchTask (s : State) (id : Nat) : Except Nat (BitVec 512) × State :=
  let c := ctxOf s id
  let core := id / 5
  if c.pos.codeLen ≤ c.pos.pc then (.error 0x08, s)
  else
    match translate (partOfCore s.dev core) (dieOfCore core) (bundleVa c) .exec s with
    | (.error k, s) => (.error k, s)
    | (.ok w, s) =>
      match readPage (partOfCore s.dev core) (dieOfCore core) (bundleVa c) w 64 s with
      | (.error k, s) => (.error k, s)
      | (.ok bs, s) => (.ok (BitVec.ofNat 512 (leNat bs)), s)

/-- A ready context that another has kept off its core stands at a sill point: nothing timed or exposed is under way,
and its next bundle is marked (R43). -/
def standsAtSill (s : State) (id : Nat) : Bool :=
  !timedBusy s (id / 5) (id % 5) && !exposed s id &&
    match (fetchTask s id).1 with
    | .ok b => sillBundle b
    | .error _ => false

/-- A slot is ready for hsave (R255, R263). -/
def huskReady (s : State) (id : Nat) : Bool :=
  let c := ctxOf s id
  let core := id / 5
  let k := coreOf s core
  !untimedBusy s core (id % 5) && !(k.sup.events.any fun e => e.slot == id % 5 && e.cause < 0x20) &&
    (match c.status with
     | .ready => c.pos.fresh || standsAtSill s id
     | .waiting _ issued => !issued || (!timedBusy s core (id % 5) && !exposed s id)
     | .transom _ => true
     | .trapped _ _ => !timedBusy s core (id % 5)
     | .husked _ _ => !timedBusy s core (id % 5)
     | _ => false)

/-- The event a core's supervisor handles concerns this slot. -/
def handled (s : State) (id : Nat) : Bool :=
  let u := (coreOf s (id / 5)).sup
  bits u.trapc 7 0 != 0 && eventSlot u.trapc == id % 5

/-- A member husked for a pre-emption stays in its slot until its gang is free (R49). -/
def holdHusked (id : Nat) (s : State) : State :=
  if handled s id && onWayOut s id then
    updCtx id (fun c => { c with status := match c.status with
      | .transom sent => .husked (some sent) none
      | .waiting .sill _ => .husked none none
      | .waiting w true => .husked none (some w)
      | .trapped t h => .husked t h
      | _ => if c.pos.fresh then .husked (some true) none else .husked none none }) s
  else s

/-- A pre-emption is abandoned (R259): the gang keeps its resources, its husked members resume once their supervisors
have returned, and it is not chosen again. -/
def abandonPreemption (id va : Nat) (s : State) : State :=
  let p := partOfCore s.dev (id / 5)
  match (ctxOf s id).task with
  | none => s
  | some t =>
    match taskOf s p t with
    | none => s
    | some x =>
      if x.stage = .preempting then
        let s := setTask p t (some { x with stage := .bound, noVictim := true }) s
        let s := x.members.foldl (fun s m =>
          let q := ctxId m.1 m.2
          if isHusked (ctxOf s q) && !handled s q then resumeCtx q (bundleVa (ctxOf s q)) s else s) s
        logErr p 12 (id % 5) (logCore s.dev (id / 5)) 0 va 0 s
      else s

/-- A husk and core state are written through the partition's translation: false on a fault or a misaligned
address. The accumulator rows saved are read for it (R78, R79). -/
def saveHusk (id va : Nat) (core : Bool) (s : State) : Bool × State :=
  if va % 4096 ≠ 0 ∨ 2 ^ 57 ≤ va then (false, s)
  else
    let u := declaredUse s id
    let data := huskBytes s id ++ if core then coreStateBytes (coreOf s (id / 5)) u.1 u.2 else []
    let rows := if core then (accTiles u.1).flatMap fun t => (List.range 128).map (accKey t) else []
    vwrite (partOfCore s.dev (id / 5)) (dieOfCore (id / 5)) 66 va data (readChecks (id / 5) rows s)

/-- The rows of the tiles a header declares. -/
def tileRows (h : BitVec 2048) : List Nat :=
  (hdrTiles h).flatMap fun t => (List.range 8).map fun i => rowKey (t / 96) (8 * (t % 96) + i)

/-- A member's declared tiles and their tags as its area holds them (R388). -/
def tileBytes (k : Core) (h : BitVec 2048) : List Byte :=
  ((tileRows h).flatMap fun key => wordBytes 512 (rowAt k key)) ++
    padTo 4096 ((hdrTiles h).flatMap fun t => wordBytes 2 (tagOf k t))

/-- With the husk of a member whose gang is on its way out, made in its own area, its tiles and tags are saved too
(R49, R388; DEDUCED, log 71): false on a fault. -/
def saveTiles (id va : Nat) (s : State) : Bool × State :=
  match (ctxOf s id).task.bind (taskOf s (partOfCore s.dev (id / 5))) with
  | none => (true, s)
  | some x =>
    if handled s id && onWayOut s id && va == hdrSave x.header + (ctxOf s id).rank * areaSize x.header then
      vwrite (partOfCore s.dev (id / 5)) (dieOfCore (id / 5)) 66
        (va + 0x14000 + coreStateSize (bits x.header 111 104) (hdrMxu x.header)) (tileBytes (coreOf s (id / 5)) x.header)
        (readChecks (id / 5) (tileRows x.header) s)
    else (true, s)

/-- A husk and core state are read and taken by the slot: false on a fault or a misaligned address. -/
def restoreHusk (id va : Nat) (core : Bool) (s : State) : Bool × State :=
  if va % 4096 ≠ 0 ∨ 2 ^ 57 ≤ va then (false, s)
  else
    let p := partOfCore s.dev (id / 5)
    let u := declaredUse s id
    let n := huskSize + if core then coreStateSize u.1 u.2 else 0
    match vread p (dieOfCore (id / 5)) .read 66 va n s with
    | (none, s) => (false, s)
    | (some h, s) =>
      let x := (ctxOf s id).task.bind (taskOf s p)
      let s := updCtx id (huskCtx h x) s
      let s := updCore (id / 5) (huskSems h (ctxOf s id).ctl.sam) s
      (true, if core then loadCoreState (id / 5) (h.drop huskSize) u.1 u.2 s else s)

/-- The slot a function names (R255). -/
def fnSlot (f : SSyl) : Nat := bits f.imm 2 0
/-- CORE (R255). -/
def fnCore (f : SSyl) : Bool := f.imm.getLsbD 3

/-- A supervisor function (R255): privileged; the status lands in s[D] and is visible in the next cycle. -/
def fnStep (e : Enc) (f : SSyl) (run : Nat → State → Nat × State) (s : State) : Host.Outcome State Fault Refusal :=
  scalarStep e f (fun s => chk (!isSuper s) 0x03) (fun _ => [])
    (fun s =>
      let (st, s) := run (ctxId s.core (fnSlot f)) s
      launchS f.d.toNat (BitVec.ofNat 64 st) false 1 s) s

/-- TRAP.hsave (R255, R259). -/
def execTrapHsave (f : SSyl) (s : State) : Host.Outcome State Fault Refusal :=
  let va := (sget (cur s) f.a.toNat).toNat
  fnStep (enc (.trapHsave f)) f (fun id s =>
    if !huskReady s id then (1, s)
    else
      match saveHusk id va (fnCore f) s with
      | (false, s) => (2, abandonPreemption id va s)
      | (true, s) =>
        match saveTiles id va s with
        | (true, s) => (0, holdHusked id s)
        | (false, s) => (2, abandonPreemption id va s)) s

/-- TRAP.hload (R255, R261): the three words of the husk's event go to the supervisor's registers. -/
def execTrapHload (f : SSyl) (s : State) : Host.Outcome State Fault Refusal :=
  let va := (sget (cur s) f.a.toNat).toNat
  fnStep (enc (.trapHload f)) f (fun id s =>
    if (ctxOf s id).task.isNone || (ctxOf s id).status == .ended then (1, s)
    else
      match restoreHusk id va (fnCore f) s with
      | (false, s) => (2, s)
      | (true, s) =>
        let p := partOfCore s.dev s.core
        let (ev, s) := vread p (dieOfCore s.core) .read 2 (va + 0x9200 + 8 * 28) 24 s
        let h := ev.getD []
        (0, updCurCore (fun k => { k with sup := { k.sup with
          trapc := trapcKept (BitVec.ofNat 64 (numAt h 0 8)), trapa := trapaKept (BitVec.ofNat 64 (numAt h 8 8))
          trapv := trapvKept (BitVec.ofNat 64 (numAt h 16 8)), fromHload := true } }) s)) s

/-- TRAP.cres (R193, R255). -/
def execTrapCres (f : SSyl) (s : State) : Host.Outcome State Fault Refusal :=
  fnStep (enc (.trapCres f)) f (fun id s => (0, resumeFaulted (id / 5) (id % 5) s)) s

/-- A save command of the supervisor's queue that is abandoned abandons the pre-emption under way (R259). -/
def cabnSave (id : Nat) (s : State) : State :=
  match faultedCmd s (id / 5) (id % 5) with
  | some c => if c.slot = 4 then abandonPreemption id (match c.stage with | .faulted va => va | _ => 0) s else s
  | none => s

/-- TRAP.cabn (R193, R255, R259). -/
def execTrapCabn (f : SSyl) (s : State) : Host.Outcome State Fault Refusal :=
  fnStep (enc (.trapCabn f)) f (fun id s => (0, abandonFaulted (id / 5) (id % 5) (cabnSave id s))) s

/-- TRAP.kill (R255): the record names the slot's own trap, or the event the supervisor handles. -/
def execTrapKill (f : SSyl) (s : State) : Host.Outcome State Fault Refusal :=
  fnStep (enc (.trapKill f)) f (fun id s =>
    let k := (coreOf s (id / 5)).sup
    match (ctxOf s id).event with
    | some e => (0, killByTrap id e.va e.cause s)
    | none => (0, killByTrap id k.trapa.toNat (bits k.trapc 7 0) s)) s

/-- The member of a slot is cancelled: under a CANCEL alone, since each member's supervisor cancels its own (R258);
else its task ends as by kill, with STATUS 2 (R255). -/
def cancelMember (id : Nat) (s : State) : State :=
  let p := partOfCore s.dev (id / 5)
  match (ctxOf s id).task with
  | none => s
  | some t =>
    if ((taskOf s p t).map (·.cancelling)).getD false then
      endMember id (updTask p t (fun x => { x with status := if x.status = 0 then 2 else x.status }) s)
    else endTask p t 2 s

/-- TRAP.cancel (R255, R258). -/
def execTrapCancel (f : SSyl) (s : State) : Host.Outcome State Fault Refusal :=
  fnStep (enc (.trapCancel f)) f (fun id s => (0, cancelMember id s)) s

/-! ## Events -/

/-- An event can be dispatched: the supervisor holds the issue slot's choice, handles none, and one waits (R254). -/
def dispatchReady (s : State) (core : Nat) : Bool :=
  let k := coreOf s core
  s.dev.fwUp && !k.sup.fenced && k.sel.cur == 7 && k.sel.sel == 4 && bits k.sup.trapc 7 0 == 0 && !k.sup.events.isEmpty

/-- SUPERVISOR_EVENT_DISPATCH (R254): the oldest event goes to TRAPC, TRAPA and TRAPV, and the supervisor starts at
its first bundle (DEDUCED, log 23). -/
def execSupervisorEventDispatch (core : Nat) (s : State) : Host.Outcome State Fault Refusal :=
  if dispatchReady s core then
    match (coreOf s core).sup.events with
    | [] => .next s
    | e :: rest =>
      let s := updCore core (fun k => { k with sup := { k.sup with
        trapc := trapcWord e, trapa := trapaWord e, trapv := trapvWord e, events := rest, fromHload := false } }) s
      .next (updCtx (ctxId core 4) (fun c =>
        { c with status := .ready, pos := { c.pos with
            pc := 0, clk := 0, loops := [], calls := [], xfer := none, left := 0, more := [], fresh := false } }) s)
  else .next s

end Sys2Proof.Machine
end

