-- ==== Sys2Proof/Machine/Launch.lean ====
section
/-! DEFINITION. The task-graph unit of a partition (R21, R24 to R36, R41, R49, R50, R68, R77, R152, R217, R258, R266,
R388): its rings, records, dependences, allocation, binding, pre-emption and the completion of tasks. -/

namespace Sys2Proof.Machine

/-! ## Records and headers -/

/-- ID (R29). -/
def recId (r : BitVec 512) : Nat := bits r 190 167
/-- GANG (R21, R29). -/
def recGang (r : BitVec 512) : Nat := bits r 271 264 + 1
/-- QMASK allows a logical core (R29). -/
def recAllows (r : BitVec 512) (l : Nat) : Bool := l / 4 < 64 && r.getLsbD (320 + l / 4)
/-- DONE (R29). -/
def recDone (r : BitVec 512) : Nat := bits r 154 98
/-- A zero field of a record is non-zero (R29, R30). -/
def recBroken (r : BitVec 512) : Bool := nzBits r 390 384 || nzBits r 97 20


/-- A fault on the unit's path is logged with the address and the ring or task (R33, R266). -/
def logLaunch (p ring addr id : Nat) (s : State) : State := logErr p 11 0xFF 0xFFFF ring addr id s

/-- The ring of a number. -/
def ringOf (s : State) (p r : Nat) : Ring := tget Ring.reset r (partAt s p).launch.rings
/-- Changes a ring. -/
def updRing (p r : Nat) (f : Ring → Ring) (s : State) : State :=
  updLaunch p (fun l => { l with rings := tmod Ring.reset r f l.rings }) s

/-! ## The launch control block (R24 to R26) -/

/-- A descriptor keeps the rules of R26; BASE and HEADADDR are aligned as it says. -/
def descOk (d : BitVec 256) : Bool :=
  6 ≤ bits d 198 195 && bits d 198 195 ≤ 15 && !nzBits d 204 199 && !nzBits d 131 129 && !nzBits d 128 0

/-- The ring a descriptor asks for, with its head as it stands in memory (R25): none when it is not served. -/
def readRing (p k : Nat) (d : BitVec 256) (taken : List Nat) (s : State) : Option Ring × State :=
  if !d.getLsbD 192 then (none, s)
  else if !descOk d || taken.contains (bits d 191 186) then (none, logErr p 4 0xFF 0xFFFF k 0 0 s)
  else
    let ha := bits d 185 129
    match unitRead p ha 8 s with
    | (none, s) => (none, logLaunch p k ha 0 s)
    | (some h, s) =>
      (some { served := true, base := bits d 255 199, logcap := bits d 198 195, prio := bits d 194 193
              db := bits d 191 186, headAddr := ha, head := BitVec.ofNat 64 (leNat h), stamped := none, last := 0 }, s)

/-- The eight descriptors in order; of two enabled ones that name one doorbell the lower-numbered alone is served, if it
can be (R26). -/
def readRings (p : Nat) (blk : List Byte) (s : State) : State :=
  ((List.range 8).foldl (fun (a : State × List Nat) k =>
    let d := BitVec.ofNat 256 (numAt blk (64 + 32 * k) 32)
    let taken := if d.getLsbD 192 then bits d 191 186 :: a.2 else a.2
    match readRing p k d a.2 a.1 with
    | (some r, s) => (updRing p k (fun _ => r) s, taken)
    | (none, s) => (s, taken)) (s, [])).1

/-- A write of LCB (R24, R25). -/
def lcbWrite (p : Nat) (v : W64) (s : State) : State :=
  let v := v &&& 0x01FFFFFFFFFFF001#64
  let s := updLaunch p (fun l => { l with lcb := v, rings := [], stopped := false }) s
  if !v.getLsbD 0 then s
  else
    let base := bits v 56 12 * 4096
    match unitRead p base 320 s with
    | (none, s) => logLaunch p 0xFFFF base 0 s
    | (some blk, s) =>
      let dep := numAt blk 0 8
      let w1 := numAt blk 8 8
      if w1 < 10 ∨ 24 < w1 ∨ dep % 4096 ≠ 0 ∨ 2 ^ 57 ≤ dep ∨ numAt blk 16 48 ≠ 0 then
        logErr p 4 0xFF 0xFFFF 0xFFFF base 0 s
      else readRings p blk (updLaunch p (fun l => { l with depBase := dep, depLog := w1 }) s)

/-- SYSW of LCB (R24, R25). -/
def execLcbWrite (f : SSyl) (s : State) : Host.Outcome State Fault Refusal :=
  syswStep (enc (.lcbWrite f)) f (fun v s => lcbWrite (curPart s) v s) s

/-! ## Dependence words (R31, R33) -/

/-- One atomic update of the dependence word of a task ID: the old and the new value, none on a fault, after which the
unit serves no ring until LCB is written again. The update that produces 0x8000_0000 leaves 0. To another device it
travels as the add of the difference. -/
def depUpdate (p id : Nat) (f : Nat → Nat) (s : State) : Option (Nat × Nat) × State :=
  let a := (partAt s p).launch.depBase + 4 * id
  let fail (s : State) : Option (Nat × Nat) × State :=
    (none, updLaunch p (fun l => { l with stopped := true }) (logLaunch p 0xFFFF a id s))
  let die := (partDies s.dev p).headD 0
  match translate p die (a % 2 ^ 57) .atomic s with
  | (.error _, s) => fail s
  | (.ok w, s) =>
    let s := dropCopy p w.pte w.dest w.pa true (countUnit p die (a % 2 ^ 57) w.pte s)
    match w.dest with
    | .local q =>
      if absent s q w.pa 4 || notReady s q w.pa 4 then fail s
      else
        let (bad, s) := meetErrors q w.pa 4 s
        if bad then fail s
        else
          let v := physNat s q w.pa 4
          let v' := f v % 2 ^ 32
          (some (v, v'), physWriteNat q w.pa 4 (if v' = 0x80000000 ∧ v' ≠ v then 0 else v') s)
    | .window _ => fail s
    | d =>
      let (x, s) := freeBits s
      let v := x.toNat % 2 ^ 32
      let v' := f v % 2 ^ 32
      let add := Out.atomic d w.pa 0 (leBytes 4 ((v' + 2 ^ 32 - v) % 2 ^ 32)) []
      if reachesAlias d w.pa then fail s
      else
        let (bad, s) := if v' = v then reach p d w.pa 1 (.read d w.pa) s else reach p d w.pa 2 add s
        if bad then fail s
        else if v' = 0x80000000 ∧ v' ≠ v then
          let (bad, s) := reach p d w.pa 2 (.write d w.pa (leBytes 4 0)) s
          if bad then fail s else (some (v, v'), s)
        else (some (v, v'), s)

/-- A ready task takes its place behind those that became ready before (R34). -/
def makeReady (p id : Nat) (s : State) : State :=
  match (partAt s p).launch.tasks.find? fun e => e.2.any fun x => x.stage == .accepted && recId x.record == id with
  | some (t, _) =>
    let n := (partAt s p).launch.order
    updLaunch p (fun l => { l with order := n + 1 }) (updTask p t (fun x => { x with stage := .ready, order := n }) s)
  | none => s

/-! ## The completion word and the successors (R32) -/

/-- The completion word, when the record asks for one. -/
def writeDone (p status : Nat) (r : BitVec 512) (s : State) : State :=
  if recDone r = 0 then s
  else
    match unitWrite p (recDone r) (leBytes 8 (recId r + status * 2 ^ 24)) s with
    | (true, s) => s
    | (false, s) => logLaunch p 0xFFFF (recDone r) (recId r) s

/-- The MSI-X vector, when the record asks for it. -/
def signalVec (p : Nat) (r : BitVec 512) (s : State) : State := if r.getLsbD 155 then msix p (bits r 166 156) s else s

/-- The successors' words are decremented in order, up to an entry whose read faults. -/
def decrement (p : Nat) (r : BitVec 512) : List Nat → State → State
  | [], s => s
  | i :: rest, s =>
    let a := bits r 263 207 + 4 * i
    match unitRead p a 4 s with
    | (none, s) => logLaunch p 0xFFFF a (recId r) s
    | (some b, s) =>
      match depUpdate p (leNat b) (· + 0xFFFFFFFF) s with
      | (some (_, v), s) => decrement p r rest (if v = 0x80000000 then makeReady p (leNat b) s else s)
      | (none, s) => decrement p r rest s

/-- The steps of R32 after the resources are freed. -/
def reportTask (p status : Nat) (r : BitVec 512) (s : State) : State :=
  let s := signalVec p r (writeDone p status r s)
  if status = 0 then decrement p r (List.range (bits r 206 199)) s else s

/-! ## Rings and records (R27 to R30) -/

/-- The tail of a ring: DBV of its doorbell (R27). -/
def ringTail (s : State) (p : Nat) (r : Ring) : Nat := (bellOf s p r.db).dbv.toNat

/-- A ring has a record to look at (R27, R274). -/
def ringBusy (s : State) (p k : Nat) : Bool :=
  let r := ringOf s p k
  r.served && r.stamped.isNone && decide (r.head.toNat < ringTail s p r) && !(partAt s p).launch.stopped &&
    (partAt s p).memory.retrain.isEmpty

/-- The ring the unit serves next (R28): of the highest priority, then the next by number after the last served. The
spec does not say where the turns of equal priorities start: from ring 0, and again at every write of LCB, which
forgets the last served (DESIGN CHOICE, log 73). -/
def nextRing (s : State) (p : Nat) : Option Nat :=
  let busy := (List.range 8).filter (ringBusy s p)
  let top := busy.foldl (fun m k => max m (ringOf s p k).prio) 0
  let same := (List.range 8).filter fun k => (ringOf s p k).served && (ringOf s p k).prio == top
  let last := (leastBy (fun k => 2 ^ 64 - (ringOf s p k).last) (same.filter fun k => (ringOf s p k).last != 0)).getD 7
  leastBy (fun k => (k + 7 - last) % 8) (busy.filter fun k => (ringOf s p k).prio == top)

/-- The address of a ring's next record (R27). -/
def recordVa (r : Ring) : Nat := (r.base + 64 * (r.head.toNat % 2 ^ r.logcap)) % 2 ^ 57

/-- A ring's next record, none on a fault. -/
def readRecord (p k : Nat) (s : State) : Option (BitVec 512) × State :=
  match unitRead p (recordVa (ringOf s p k)) 64 s with
  | (some b, s) => (some (BitVec.ofNat 512 (leNat b)), s)
  | (none, s) => (none, s)

/-- A record is consumed (R27): the head moves on and is published; the unit marks its turn. -/
def consume (p k : Nat) (s : State) : State :=
  let n := (partAt s p).launch.order
  let s := updLaunch p (fun l => { l with order := n + 1 }) s
  let s := updRing p k (fun r => { r with head := r.head + 1, last := n + 1 }) s
  let r := ringOf s p k
  match unitWrite p r.headAddr (leBytes 8 r.head.toNat) s with
  | (true, s) => s
  | (false, s) => updRing p k (fun r => { r with served := false }) (logLaunch p k r.headAddr 0 s)

/-- The segment whose task header ENTRY names (R30). -/
def headerSeg (s : State) (p va : Nat) : Option Seg :=
  (partAt s p).host.segs.find? fun g =>
    g.kind == 3 && decide (g.vaddr ≤ va) && decide (va + 256 ≤ g.vaddr + g.msize) && (va - g.vaddr) % 256 == 0

/-- What a TASK record is rejected for before its header is read (R30). -/
def recordBad (s : State) (p : Nat) (r : BitVec 512) : Bool :=
  let n := (partCores s.dev p).length
  recBroken r || bits r 19 16 != 1 || decide (2 ^ (partAt s p).launch.depLog ≤ recId r) ||
    ((List.range 64).any fun q => r.getLsbD (320 + q) && decide ((partQuads s.dev p).length ≤ q)) ||
    decide (((List.range n).filter (recAllows r)).length < recGang r)

/-- A rejected record (R30). -/
def reject (p k : Nat) (r : BitVec 512) (s : State) : State :=
  let s := logErr p 3 0xFF 0xFFFF k (recordVa (ringOf s p k)) (recId r) (countErr p k s)
  consume p k (signalVec p r (writeDone p 3 r s))

/-- An accepted record (R30, R31): its task waits for its predecessors, or is ready. -/
def accept (p k : Nat) (r : BitVec 512) (h : BitVec 2048) (nbv : BitVec 8) (s : State) : State :=
  let n := (partAt s p).launch.order
  let x : Task :=
    { record := r, ring := k, prio := (ringOf s p k).prio, header := h, nbv := nbv, stage := .accepted, members := []
      rootDie := 0, order := n, bound := 0, sheaf := 0, returned := [], signoffs := [], startAt := none, status := 0
      kept := [], noVictim := false, cancelling := false }
  setTask p n (some x) (updLaunch p (fun l => { l with order := n + 1 }) s)

/-- A TASK record, or one of a reserved TYPE (R30, R31). Of one whose dependence-word update faults at acceptance the
spec says no more than R33: the head stays and nothing is published (DESIGN CHOICE, log 74). -/
def takeRecord (p k : Nat) (r : BitVec 512) (s : State) : State :=
  let entry := bits r 447 391
  if recordBad s p r then reject p k r s
  else
    match headerSeg s p entry with
    | none => reject p k r s
    | some g =>
      match unitRead p entry 256 s with
      | (none, s) => reject p k r (logLaunch p k entry (recId r) s)
      | (some h, s) =>
        if 3 < g.nbv.toNat then reject p k r s
        else
          let add (v : Nat) : Nat := if v / 256 = 0x800000 then v else v + 0x80000000 + bits r 198 191
          match depUpdate p (recId r) add s with
          | (none, s) => s
          | (some (v, v'), s) =>
            if v / 256 = 0x800000 then reject p k r s
            else
              let s := accept p k r (BitVec.ofNat 2048 (leNat h)) g.nbv s
              consume p k (if v' = 0x80000000 then makeReady p (recId r) s else s)

/-- The next ring's slot is looked at (R27): a fault ends its service, an unwritten slot is waited for. -/
def lookAt (part ring : Nat) (take : BitVec 512 → State → State) (s : State) : State :=
  match readRecord part ring s with
  | (none, s) =>
    updRing part ring (fun r => { r with served := false }) (logLaunch part ring (recordVa (ringOf s part ring)) 0 s)
  | (some r, s) =>
    if bits r 15 0 ≠ (ringOf s part ring).head.toNat % 65536 then
      updRing part ring (fun r => { r with stamped := some (now s) }) s
    else take r s

/-- LAUNCH_TASK_RECORD (R30). -/
def execLaunchTaskRecord (part ring : Nat) (s : State) : Host.Outcome State Fault Refusal :=
  if nextRing s part = some ring then
    .next (lookAt part ring (fun r s => if bits r 19 16 = 0 then s else takeRecord part ring r s) s)
  else .next s

/-- LAUNCH_NOP_RECORD (R29): consumed, with no other effect. -/
def execLaunchNopRecord (part ring : Nat) (s : State) : Host.Outcome State Fault Refusal :=
  if nextRing s part = some ring then
    .next (lookAt part ring (fun r s => if bits r 19 16 = 0 then consume part ring s else s) s)
  else .next s

/-- A ring has waited 4,096 cycles at a slot not yet written (R27). -/
def stampExpired (s : State) (p k : Nat) : Bool := (ringOf s p k).stamped.any fun c => decide (c + 4096 ≤ now s)

/-- RING_STAMP_WAIT_EXPIRY (R27). -/
def execRingStampWaitExpiry (part ring : Nat) (s : State) : Host.Outcome State Fault Refusal :=
  if stampExpired s part ring then .next (updRing part ring (fun r => { r with stamped := none }) s) else .next s

/-! ## Allocation (R34, R35) -/

/-- The semaphores a header declares, with their initial values (R269): none on a fault. -/
def semTable (p : Nat) (h : BitVec 2048) (s : State) : Option (List (Nat × Nat)) × State :=
  let n := bits h 127 120
  if n = 0 then (some [], s)
  else
    match unitRead p (bits h 1407 1344) (4 * n) s with
    | (none, s) => (none, s)
    | (some b, s) => (some ((wordsOf b).map fun w => (bits w 7 0, bits w 31 16)), s)

/-- A slot of a core is free: bound to no task, and no event that concerns it is pending or being handled (DEDUCED,
log 24). -/
def slotOpen (s : State) (core sl : Nat) : Bool :=
  let c := ctxOf s (ctxId core sl)
  let u := (coreOf s core).sup
  c.task.isNone && c.status == .unbound && !(u.events.any (·.slot == sl)) &&
    !(bits u.trapc 7 0 != 0 && eventSlot u.trapc == sl)

/-- The shared resources of a core that a header names are free (R35); a fenced core takes no task (R257). -/
def coreFree (s : State) (core : Nat) (h : BitVec 2048) (sems : List (Nat × Nat)) : Bool :=
  let k := coreOf s core
  !k.sup.fenced && (sems.all fun x => x.1 == 0 || !semBound s core x.1) &&
    ((hdrTiles h).all fun t => tget 0 t k.st.tileOwn == 0) &&
    ((hdrAcc h).all fun t => tget 0 t k.st.accOwn == 0) && (!hdrMxu h || k.st.mxOwn == 7)

/-- The latch-tree roots of a die that gangs hold (R35). -/
def rootsUsed (s : State) (p die : Nat) : Nat :=
  ((partAt s p).launch.tasks.filter fun e => e.2.any fun x =>
    (x.stage == .bound || x.stage == .preempting || x.stage == .ending) && decide (1 < recGang x.record) &&
      x.rootDie == die).length

/-- A die has a root for a gang. -/
def rootFree (s : State) (p die gang : Nat) (shut : Nat → Bool) : Bool :=
  gang ≤ 1 || (decide (rootsUsed s p die < 64) && !shut die)

/-- The cores and slots a task would be bound on (R35): of a new one the lowest-numbered eligible cores, each with its
lowest free slot; of a pre-empted one the logical cores and slots it had, if the partition still has them (R18, R50).
`shut` and `shutDie` keep cores and roots for another task (R34). -/
def gangFor (s : State) (p : Nat) (x : Task) (shut shutDie : Nat → Bool) : Option (List (Nat × Nat)) :=
  let r := x.record
  let sems := ((semTable p x.header s).1).getD []
  let ok (c : Nat × Nat) : Bool := recAllows r c.2 && !shut c.2 && coreFree s c.1 x.header sems
  if x.stage = .preempted then
    let ms := x.kept.filterMap fun k => (physCore s.dev p k.place.1).map fun c => (c, k.place.2)
    let open_ (m : Nat × Nat) : Bool := ok (m.1, logCore s.dev m.1) && slotOpen s m.1 m.2
    if ms.length = recGang r ∧ ms.all open_ ∧ rootFree s p (dieOfCore (ms.headD (0, 0)).1) (recGang r) shutDie then some ms
    else none
  else
    let cs := ((partCores s.dev p).zipIdx.filter ok).filterMap fun c =>
      ([0, 1, 2, 3].find? (slotOpen s c.1)).map fun sl => (c.1, sl)
    let ms := cs.take (recGang r)
    if ms.length = recGang r ∧ rootFree s p (dieOfCore (ms.headD (0, 0)).1) (recGang r) shutDie then some ms else none

/-- The order of ready tasks (R34, R50): priority, then pre-empted gangs, the last one first, since each goes to the
front, then the time each became ready. -/
def readyKey (x : Task) : Nat :=
  if x.stage = .preempted then (3 - x.prio) * 2 ^ 65 + (2 ^ 64 - 1 - x.order) else (3 - x.prio) * 2 ^ 65 + 2 ^ 64 + x.order

/-- The ready tasks of a partition, unordered. -/
def readyTasks (s : State) (p : Nat) : List (Nat × Task) :=
  (partAt s p).launch.tasks.filterMap fun e =>
    (e.2.filter fun x => x.stage == .ready || x.stage == .preempted).map fun x => (e.1, x)

/-- The task the unit considers first (R34). -/
def firstReady (s : State) (p : Nat) : Option (Nat × Task) := leastBy (fun e => readyKey e.2) (readyTasks s p)

/-- Where a ready task can be bound now (R34): the first; or another, off the first one's cores and roots, while the
first cannot be allocated. -/
def placement (s : State) (p t : Nat) : Option (List (Nat × Nat)) :=
  let none' (_ : Nat) : Bool := false
  match firstReady s p, taskOf s p t with
  | some (f, y), some x =>
    if x.stage ≠ .ready ∧ x.stage ≠ .preempted then none
    else if f = t then gangFor s p x none' none'
    else if (gangFor s p y none' none').isSome then none
    else
      let n := (partCores s.dev p).zipIdx
      gangFor s p x (recAllows y.record) fun die =>
        decide (1 < recGang y.record) && n.any fun c => recAllows y.record c.2 && dieOfCore c.1 == die
  | _, _ => none

/-! ## Binding (R36, R50, R77) -/

/-- A core's storage and semaphores taken by a slot (R35, R68, R77): its generation advances and its rows are tagged. -/
def claimCore (core sl : Nat) (h : BitVec 2048) (s : State) : State :=
  updCore core (fun k =>
    let gen := tget 0 sl k.st.gens + 1
    let tag : BitVec 8 := BitVec.ofNat 8 (sl * 32 + gen.toNat)
    let rows := ((hdrTiles h).flatMap fun t => (List.range 8).map fun i => rowKey (t / 96) (8 * (t % 96) + i)) ++
      (hdrAcc h).flatMap fun t => (List.range 128).map fun r => accKey t r
    { k with
      st := { k.st with
        gens := tset 0 sl gen k.st.gens
        owners := rows.foldl (fun m r => tset noOwner r tag m) k.st.owners
        tileOwn := (hdrTiles h).foldl (fun m t => tset 0 t (sl + 1) m) k.st.tileOwn
        accOwn := (hdrAcc h).foldl (fun m t => tset 0 t (sl + 1) m) k.st.accOwn
        mxOwn := if hdrMxu h then sl else k.st.mxOwn }
      mx := if hdrMxu h then Mx.reset else k.mx }) s

/-- Lane i of a generator seeded with 0 (R36, R100). -/
def seedZero : Row := rowOf 32 ((List.range 128).map fun i => if i = 0 then 0x6D2B79F5 else i * 0x9E3779B9 % 2 ^ 32)

/-- A member context as it stands at binding (R36, R37, R70, R269), before its first phase. -/
def memberCtx (x : Task) (t rank : Nat) (sems : List (Nat × Nat)) (phtab : Sparse (BitVec 128))
    (expect : Sparse (BitVec 32)) : Ctx :=
  let h := x.header
  let regs := [(2, rank), (3, recGang x.record), (4, recId x.record)].foldl
    (fun r e => sput e.1 (BitVec.ofNat 64 e.2) false r)
    (sput 1 (BitVec.ofNat 64 (bits x.record 511 448)) false { Regs.reset with gen := [(0, seedZero), (1, seedZero)] })
  { Ctx.reset with
    regs := regs
    ctl := { Ctl.reset with
      fm := tsetAll 0 0 ((List.range 8).map fun i => fmKept (BitVec.ofNat 32 (bits h (159 + 32 * i) (128 + 32 * i)))) []
      nbv := x.nbv, flush := h.extractLsb' 112 3, rmode := rmodeKept (h.extractLsb' 115 3), prio := BitVec.ofNat 2 x.prio
      teb := h.extractLsb' 448 64, sam := sems.foldl (fun m e => if e.1 = 0 then m else setBit m e.1 true) 0 }
    pos := { Pos.reset with codeBase := bits h 63 0, codeLen := bits h 95 64 }
    phtab := phtab, expect := expect, status := .transom true, task := some t, rank := rank }

/-- What binding reads through the translation (R33): semaphores, phase table and expectations, or the address that
faulted. -/
def bindTables (p : Nat) (x : Task) (s : State) :
    Except Nat (List (Nat × Nat) × Sparse (BitVec 128) × Sparse (BitVec 32)) × State :=
  let h := x.header
  let n := bits h 1311 1280
  match semTable p h s with
  | (none, s) => (.error (bits h 1407 1344), s)
  | (some sems, s) =>
    match unitRead p (bits h 1535 1472) 2048 s with
    | (none, s) => (.error (bits h 1535 1472), s)
    | (some ph, s) =>
      let phtab := tsetAll 0 0 ((List.range 128).map fun i => BitVec.ofNat 128 (numAt ph (16 * i) 16)) []
      if n = 0 then (.ok (sems, phtab, []), s)
      else
        match unitRead p (bits h 511 448) (4 * n) s with
        | (none, s) => (.error (bits h 511 448), s)
        | (some e, s) => (.ok (sems, phtab, tsetAll 0 0 (wordsOf e) []), s)

/-- The number by which phasers name a member of a task while it is pre-empted (R220). -/
def huskKey (p t rank : Nat) : Nat := 2 ^ 20 + (t * 256 + rank) * 64 + p

/-- A member's records at every phaser go by another number. -/
def renameMember (a b : Nat) (s : State) : State :=
  { s with dev := { s.dev with phasers := s.dev.phasers.map fun e =>
      (e.1, { e.2 with members := e.2.members.map fun m => if m.1 = a then (b, m.2) else m }) } }

/-- Every membership of a member is dropped as by PHDRP (R218). -/
def dropPhasers (id : Nat) (s : State) : State :=
  (s.dev.phasers.filter fun e => e.2.members.any (·.1 == id)).foldl (fun s e =>
    phApply { id := id, ph := e.1, op := .drop, rel := [] } s) s

/-- The memberships of a pre-empted task end with it (R218). -/
def dropHusked (p t : Nat) (x : Task) (s : State) : State :=
  (List.range x.members.length).foldl (fun s r => dropPhasers (huskKey p t r) s) s

/-- A binding read that faults ends the task (R33). -/
def bindFault (p t : Nat) (x : Task) (addr : Nat) (s : State) : State :=
  setTask p t none (reportTask p 1 x.record (logLaunch p 0xFFFF addr (recId x.record) (dropHusked p t x s)))

/-- The root of a gang and its first sign-offs, as if every member had just signed off (R36). -/
def firstOffs (s : State) (ms : List (Nat × Nat)) : List SignOff :=
  ms.zipIdx.map fun m =>
    { rank := m.2, succ := some 0, arrive := now s + latchDelay (ms.length ≤ 1) (ms.headD (0, 0)).1 m.1.1
      arrived := false, solo := false, start := none }

/-- A gang's record of its binding. -/
def noteBound (p t : Nat) (ms : List (Nat × Nat)) (f : Task → Task) (s : State) : State :=
  let n := (partAt s p).launch.order
  updTask p t (fun x => f { x with
    stage := .bound, members := ms, rootDie := dieOfCore (ms.headD (0, 0)).1, bound := n })
    (updLaunch p (fun l => { l with order := n + 1 }) s)

/-- GANG_BIND (R35, R36). -/
def execGangBind (part task : Nat) (s : State) : Host.Outcome State Fault Refusal :=
  match placement s part task, taskOf s part task with
  | some ms, some x =>
    if x.stage ≠ .ready then .next s
    else
      match bindTables part x s with
      | (.error a, s) => .next (bindFault part task x a s)
      | (.ok (sems, phtab, expect), s) =>
        let s := ms.zipIdx.foldl (fun s m =>
          let s := claimCore m.1.1 m.1.2 x.header s
          let s := updCore m.1.1 (fun k => sems.foldl (fun k e => semPut e.1 (BitVec.ofNat 16 e.2) k) k) s
          setCtx (ctxId m.1.1 m.1.2) (memberCtx x task m.2 sems phtab expect) s) s
        .next (noteBound part task ms (fun x => { x with signoffs := firstOffs s ms, startAt := none }) s)
  | _, _ => .next s

/-! ## Freeing (R32, R49, R68) -/

/-- A member's slot and its share of the core are free (R32, R68), and its count of cycles waited is 0 again, so that the
next context bound there starts with none (R46; DESIGN CHOICE, log 79). -/
def freeMember (id : Nat) (s : State) : State :=
  let core := id / 5
  let sl := id % 5
  let s := setCtx id Ctx.reset (dropSlot id s)
  updCore core (fun k =>
    let st := ((List.range 768).filter (tileMine k sl)).foldl (fun st t => freeTile t st) k.st
    let rows := ((List.range 8).filter (accMine k sl)).flatMap fun t => (List.range 128).map fun r => accKey t r
    { k with
      st := { st with
        owners := rows.foldl (fun m r => tset noOwner r noOwner m) st.owners
        accOwn := ((List.range 8).filter (accMine k sl)).foldl (fun m t => tset 0 t 0 m) st.accOwn
        mxOwn := if st.mxOwn = sl then 7 else st.mxOwn }
      sel := { k.sel with aged := tset 0 sl 0 k.sel.aged } }) s

/-- The members of a task are freed. -/
def freeGang (x : Task) (s : State) : State := x.members.foldl (fun s m => freeMember (ctxId m.1 m.2) s) s

/-- A member has ended and nothing of its own is under way (R32, R255). -/
def memberDone (s : State) (id : Nat) : Bool :=
  (ctxOf s id).status == .ended && !untimedBusy s (id / 5) (id % 5) && !timedBusy s (id / 5) (id % 5) &&
    !((coreOf s (id / 5)).semq.any fun u => u.slot == id % 5) && !((coreOf s (id / 5)).phq.any (·.id == id))

/-- A task can complete (R32). -/
def completable (s : State) (x : Task) : Bool :=
  (x.stage == .bound || x.stage == .preempting || x.stage == .ending) && x.members.all fun m => memberDone s (ctxId m.1 m.2)

/-- The status a task completes with: 2 under a cancellation that nothing else has ended (R258). -/
def endStatus (x : Task) : Nat := if x.cancelling && x.status == 0 then 2 else x.status

/-- TASK_COMPLETION (R32): the resources are freed, then the word, the vector and the successors. -/
def execTaskCompletion (part task : Nat) (s : State) : Host.Outcome State Fault Refusal :=
  match taskOf s part task with
  | none => .next s
  | some x =>
    if completable s x then
      let s := x.members.foldl (fun s m => dropPhasers (ctxId m.1 m.2) s) s
      .next (reportTask part (endStatus x) x.record (setTask part task none (freeGang x s)))
    else .next s

/-! ## Pre-emption (R49, R50) -/

/-- The release of a gang, its root with it, would allow a task's allocation, as the order of ready tasks lets it be
placed (R34, R49). -/
def wouldAllow (s : State) (p t : Nat) (v : Nat × Task) : Bool :=
  (placement (setTask p v.1 none (freeGang v.2 s)) p t).isSome

/-- The victim of a ready task (R49): of the lowest priority, the most recently bound; none while a gang already on
its way out would do. -/
def victim (s : State) (p t : Nat) : Option (Nat × Task) :=
  match taskOf s p t with
  | none => none
  | some x =>
    let all := (partAt s p).launch.tasks.filterMap fun e => e.2.map fun y => (e.1, y)
    if x.stage ≠ .ready ∧ x.stage ≠ .preempted then none
    else if (placement s p t).isSome then none
    else if all.any fun e => e.2.stage == .preempting && wouldAllow s p t e then none
    else
      leastBy (fun e => e.2.prio * 2 ^ 64 + (2 ^ 64 - 1 - e.2.bound)) (all.filter fun e =>
        e.2.stage == .bound && decide (e.2.prio < x.prio) && !e.2.noVictim && !e.2.cancelling && wouldAllow s p t e)

/-- A request to a member's supervisor (R49, R258). -/
def requestEvent (cause id : Nat) (s : State) : State :=
  postEvent (id / 5)
    { cause := cause, slot := id % 5, async := true, fetch := false, detail := 0, va := bundleVa (ctxOf s id)
      syl := 15, val := 0 } s

/-- PREEMPTION_REQUEST (R49): the victim's members that have not ended are asked for. -/
def execPreemptionRequest (part task : Nat) (s : State) : Host.Outcome State Fault Refusal :=
  match victim s part task with
  | none => .next s
  | some (v, x) =>
    let s := setTask part v (some { x with stage := .preempting }) s
    .next (x.members.foldl (fun s m =>
      let id := ctxId m.1 m.2
      if (ctxOf s id).status = .ended then s else requestEvent 0x21 id s) s)

/-- Every member of a pre-empted gang has been husked, or had ended, but not all have ended (R49). -/
def allHusked (s : State) (x : Task) : Bool :=
  let away (m : Nat × Nat) : Bool := isHusked (ctxOf s (ctxId m.1 m.2))
  x.stage == .preempting && !x.cancelling && x.members.any away && x.members.all fun m =>
    (away m && !handled s (ctxId m.1 m.2)) || (ctxOf s (ctxId m.1 m.2)).status == .ended

/-- The place in the landing queue of what was issued as number `q` (R261). -/
def landPlace (f : InFlight) (q : Nat) : Nat :=
  ((f.flights.map (·.seq) ++ f.loads.map (·.seq) ++ f.stores.map (·.seq)).filter (· < q)).length

/-- A release whose timed accesses go by their places in the landing queue. -/
def keptRelease (f : InFlight) (r : Release) : Release := { r with stores := r.stores.map (landPlace f) }

/-- An update of a context's own bundles or commands, not of the gateway or a doorbell. -/
def ownUpdate (sl : Nat) (u : SemUpd) : Bool :=
  u.slot == sl && match u.src with
    | .gateway _ => false
    | .doorbell _ => false
    | _ => true

/-- What a member keeps outside its husk. -/
def keptOf (s : State) (id rank : Nat) : Kept :=
  let c := ctxOf s id
  let k := coreOf s (id / 5)
  { rank := rank, place := (logCore s.dev (id / 5), id % 5)
    ended := if c.status = .ended then some c.pos.endSent else none, xfer := c.pos.xfer
    left := c.pos.left, more := c.pos.more, compared := c.compared, depth0 := c.pos.depth0
    hold := match c.status with
      | .husked none (some w) => some (w, c.pos.pc)
      | _ => none
    boundary := c.boundary, fences := c.fences.map (keptRelease c.fly)
    updates := (k.semq.filter (ownUpdate (id % 5))).map fun u =>
      { u with rel := u.rel.map (keptRelease c.fly), stores := u.stores.map (landPlace c.fly), seq := landPlace c.fly u.seq }
    phops := (k.phq.filter (·.id == id)).map fun o => { o with rel := o.rel.map (keptRelease c.fly) }
    aged := tget 0 (id % 5) k.sel.aged, byp := c.regs.byp, bypPois := c.regs.bypPois }

/-- A husked member leaves its core: what it keeps goes with it, and its phasers know it by its task (R220). -/
def leaveCore (p t rank id : Nat) (s : State) : State :=
  renameMember id (huskKey p t rank) (updCore (id / 5) (fun k => { k with
    semq := k.semq.filter fun u => !ownUpdate (id % 5) u
    phq := k.phq.filter fun o => o.id != id }) s)

/-- A member takes up again what it kept (R50). -/
def takeKept (k : Kept) (id : Nat) (s : State) : State :=
  let s := updCtx id (fun c => { c with
    compared := k.compared, boundary := k.boundary, fences := k.fences
    regs := { c.regs with byp := k.byp, bypPois := k.bypPois }
    status := (k.hold.map fun h => Status.waiting h.1 true).getD c.status
    pos := { c.pos with
      xfer := k.xfer, left := k.left, more := k.more, depth0 := k.depth0, pc := (k.hold.map (·.2)).getD c.pos.pc } }) s
  updCore (id / 5) (fun q => { q with
    semq := q.semq ++ k.updates, phq := q.phq ++ k.phops
    sel := { q.sel with aged := tset 0 (id % 5) k.aged q.sel.aged } }) s

/-- A husked gang's resources are freed, and it goes to the front of its priority (R49, R50). -/
def settlePreempted (p : Nat) (s : State) : State :=
  (partAt s p).launch.tasks.foldl (fun s e =>
    match e.2 with
    | none => s
    | some x =>
      if allHusked s x then
        let n := (partAt s p).launch.order
        let kept := x.members.zipIdx.map fun m => keptOf s (ctxId m.1.1 m.1.2) m.2
        let s := setTask p e.1 (some { x with stage := .preempted, kept := kept, order := n }) s
        let s := x.members.zipIdx.foldl (fun s m => leaveCore p e.1 m.2 (ctxId m.1.1 m.1.2) s) s
        freeGang x (updLaunch p (fun l => { l with order := n + 1 }) s)
      else s) s

/-- A member's tiles and their tags are restored from its area (R50, R388): false on a fault. -/
def restoreTiles (p core va : Nat) (h : BitVec 2048) (s : State) : Bool × State :=
  let tiles := hdrTiles h
  let n := tiles.length
  match vread p (dieOfCore core) .read 66 va (4096 * n + 4096) s with
  | (none, s) => (false, s)
  | (some b, s) =>
    (true, tiles.zipIdx.foldl (fun s t =>
      let s := (List.range 8).foldl (fun s i =>
        writeRow core (rowKey (t.1 / 96) (8 * (t.1 % 96) + i)) (BitVec.ofNat 4096 (numAt b (4096 * t.2 + 512 * i) 512))
          (BitVec.allOnes 512) s) s
      updStore core (fun st => { st with
        tags := tset 0 t.1 (BitVec.ofNat 16 (numAt b (4096 * n + 2 * t.2) 2)) st.tags }) s) s)

/-- A member is rebound and restored before any member issues (R50): false on a fault of its area. -/
def rebindMember (p t : Nat) (x : Task) (sems : List (Nat × Nat)) (phtab : Sparse (BitVec 128))
    (expect : Sparse (BitVec 32)) (core sl rank : Nat) (s : State) : Bool × State :=
  let id := ctxId core sl
  let k := (x.kept.find? (·.rank == rank)).getD ⟨rank, (0, 0), none, none, 0, [], [], 0, none, [], [], [], [], 0, [], 0⟩
  let s := claimCore core sl x.header s
  let s := setCtx id (memberCtx x t rank sems phtab expect) s
  match k.ended with
  | some sent => (true, updCtx id (fun c => { c with status := .ended, pos := { c.pos with endSent := sent } }) s)
  | none =>
    let use := bits x.header 111 104 != 0 || hdrMxu x.header
    let va := hdrSave x.header + rank * areaSize x.header
    match restoreHusk id va use s with
    | (false, s) => (false, s)
    | (true, s) =>
      let off := 0x14000 + coreStateSize (bits x.header 111 104) (hdrMxu x.header)
      match restoreTiles p core (va + off) x.header s with
      | (false, s) => (false, s)
      | (true, s) =>
        (true, takeKept k id (resumeCtx id (bundleVa (ctxOf s id)) s))

/-- GANG_REBIND (R50): a read that faults ends the task as a binding read does (DEDUCED from R33, log 25). -/
def execGangRebind (part task : Nat) (s : State) : Host.Outcome State Fault Refusal :=
  match placement s part task, taskOf s part task with
  | some ms, some x =>
    if x.stage ≠ .preempted then .next s
    else
      match bindTables part x s with
      | (.error a, s) => .next (bindFault part task x a s)
      | (.ok (sems, phtab, expect), s) =>
        let s := noteBound part task ms id s
        let (ok, s) := ms.zipIdx.foldl (fun (a : Bool × State) m =>
          if a.1 then rebindMember part task x sems phtab expect m.1.1 m.1.2 m.2 a.2 else a) (true, s)
        if ok then
          let s := ms.zipIdx.foldl (fun s m => renameMember (huskKey part task m.2) (ctxId m.1.1 m.1.2) s) s
          .next (updTask part task (fun x => { x with kept := [] }) s)
        else .next (bindFault part task x (hdrSave x.header) (freeGang { x with members := ms } s))
  | _, _ => .next s

/-! ## Cancellation (R258) -/

/-- A task of an ID, in the state R258 looks at: accepted, then ready, then bound (DEDUCED, log 26). -/
def taskOfId (s : State) (p id : Nat) : Option (Nat × Task) :=
  let rank (x : Task) : Nat := match x.stage with
    | .accepted => 0
    | .ready => 1
    | .preempted => 1
    | _ => 2
  leastBy (fun e => rank e.2) ((partAt s p).launch.tasks.filterMap fun e =>
    (e.2.filter fun x => recId x.record == id).map fun x => (e.1, x))

/-- A task that is not bound is removed (R258): its word is written 0 while the ID is its own. -/
def removeTask (p t : Nat) (x : Task) (s : State) : State :=
  let id := recId x.record
  let s := setTask p t none (dropHusked p t x s)
  let other := (partAt s p).launch.tasks.any fun e => e.2.any fun y => y.stage == .accepted && recId y.record == id
  let s := if other then s else (depUpdate p id (fun _ => 0) s).2
  reportTask p 2 x.record s

/-- A bound task is cancelled by a request to the supervisor of each member's core (R258). -/
def requestCancel (p t : Nat) (x : Task) (s : State) : State :=
  x.members.foldl (fun s m => requestEvent 0x22 (ctxId m.1 m.2) s) (setTask p t (some { x with cancelling := true }) s)

/-- A task is cancelled (R258). -/
def cancelTask (p t : Nat) (x : Task) (s : State) : State :=
  match x.stage with
  | .accepted => removeTask p t x s
  | .ready => removeTask p t x s
  | .preempted => removeTask p t x s
  | .bound => requestCancel p t x s
  | .preempting => requestCancel p t x s
  | _ => s

end Sys2Proof.Machine
end

