-- ==== Sys2Proof/Machine/HostPort.lean ====
section
/-! DEFINITION. The PCI Express port (R215, R237, R238, R242 to R244, R271, R272, R274): the window of BAR 2, AtomicOps,
MSI-X, reads of BAR 0, the TDI of a partition and its SPDM answers. -/

namespace Sys2Proof.Machine

/-! ## The window onto the DRAM (R237) -/

/-- Bytes of a partition's window: all ones beyond its DRAM. -/
def barBytes (s : State) (p a n : Nat) : List Byte :=
  let k := min n (usableBytes s.dev p - a)
  seenBytes s p a k ++ List.replicate (n - k) 0xFF

/-- Writes bytes of the window; those beyond the DRAM take no write. Whole granules written hold no error. -/
def barWrite (p a : Nat) (bs : List Byte) (s : State) : State :=
  let bs := bs.take (usableBytes s.dev p - a)
  healBytes p a bs.length (physWrite p a bs s)

/-- HOST_BAR2_WRITE (R237, R243, R274): dropped where the TDI or a retraining controller does not take it. -/
def execHostBar2Write (part off : Nat) (data : List Byte) (trusted : Bool) (s : State) :
    Host.Outcome State Fault Refusal :=
  if !portTakes s part trusted then .next (portRefuse part off s)
  else if notReady s part off data.length then .next s
  else .next (barWrite part off data s)

/-- HOST_BAR2_READ (R237, R243, R267, R274): the DRAM's bytes, or Unsupported Request. An uncorrectable granule delivers no
data (R197; DEDUCED, log 27). -/
def execHostBar2Read (part off len : Nat) (trusted : Bool) (s : State) : Host.Outcome State Fault Refusal :=
  if !portTakes s part trusted then .next (portUnsupported part off s)
  else if notReady s part off len then .next (send (.unsupported part) s)
  else
    let (bad, s) := meetErrors part off len s
    .next (send (if bad then .unsupported part else .barData part (barBytes s part off len)) s)

/-- The code of R281 for an AtomicOp. -/
def hostOp : HostAtomicOp → Nat
  | .fetchAdd => 0
  | .swap => 8
  | .cas => 9

/-- HOST_ATOMICOP (R215, R237, R243, R267): 32-bit and 64-bit FetchAdd, Swap and CAS; any other completes with Unsupported
Request. -/
def execHostAtomicop (r : HostAtomic) (s : State) : Host.Outcome State Fault Refusal :=
  if !portTakes s r.part r.trusted then .next (portUnsupported r.part r.off s)
  else if (r.size ≠ 4 ∧ r.size ≠ 8) ∨ r.off % r.size ≠ 0 ∨ notReady s r.part r.off r.size then
    .next (send (.unsupported r.part) s)
  else
    let (bad, s) := meetErrors r.part r.off r.size s
    if bad then .next (send (.unsupported r.part) s)
    else
      let k := min r.size (usableBytes s.dev r.part - r.off)
      let old := physBytes s r.part r.off k ++ List.replicate (r.size - k) 0xFF
      let w := 8 * r.size
      let v := amoNew (hostOp r.op) w (leNat old) (r.operand.toNat % 2 ^ w) (r.compare.toNat % 2 ^ w)
      .next (send (.barData r.part old) (barWrite r.part r.off (leBytes r.size v) s))

/-! ## MSI-X (R242) -/

/-- The messages of pending vectors that can go out now are sent, in ascending order (R242). -/
def sendPending (p : Nat) (s : State) : State :=
  let go := (List.range 2048).filter fun v =>
    (partAt s p).host.msixPend.contains v && vecOpen (partAt s p).host v
  go.foldl (fun s v => sendVec p v (updHost p (fun h => { h with msixPend := h.msixPend.filter (· != v) }) s)) s

/-- A vector's mask bit is written (R242). -/
def maskVec (p v : Nat) (masked : Bool) (s : State) : State :=
  sendPending p (updHost p (fun h => { h with
    msixOn := let l := h.msixOn.filter (· != v); if masked then l else l ++ [v] }) s)

/-- MSIX_VECTOR_UNMASK (R242, R243): a pending vector's message is sent. -/
def execMsixVectorUnmask (req : BarReq) (vec : Nat) (s : State) : Host.Outcome State Fault Refusal :=
  if 2048 ≤ vec then .next s
  else if !portTakes s req.part req.trusted then .next (portRefuse req.part (0x8000 + 16 * vec + 12) s)
  else .next (maskVec req.part vec false s)

/-- A double word of a vector's table entry is written (R242, R243): 0 and 1 its message address, 2 its data, 3 its mask
in bit 0. -/
def msixWrite (part vec dword : Nat) (v : BitVec 32) (trusted : Bool) (s : State) : State :=
  if 2048 ≤ vec ∨ 4 ≤ dword then s
  else if !portTakes s part trusted then portRefuse part (0x8000 + 16 * vec + 4 * dword) s
  else if dword = 3 then maskVec part vec (v.getLsbD 0) s
  else
    let keep : BitVec 96 := ~~~((0xFFFFFFFF#96) <<< (32 * dword))
    updHost part (fun h => { h with
      msixTable := tmod 0 vec (fun e => (e &&& keep) ||| (v.setWidth 96 <<< (32 * dword))) h.msixTable }) s

/-- The function's MSI-X enable and mask are written, in its configuration space (R242). -/
def msixControl (part : Nat) (enable mask : Bool) (s : State) : State :=
  if !s.dev.fwUp || s.dev.parts ≤ part then s
  else sendPending part (updHost part (fun h => { h with msixEnable := enable, msixMask := mask }) s)

/-! ## Reads of BAR 0 (R237, R238, R242, R243) -/

/-- Byte `a` of BAR 0: the doorbells, the MSI-X table and the pending bits; 0 elsewhere (PRESUMED, log 43). -/
def bar0Byte (s : State) (p a : Nat) : Byte :=
  let h := (partAt s p).host
  if a < 0x800 then ((bellRead s p (a / 32) (a / 8 % 4 * 8)) >>> (8 * (a % 8))).setWidth 8
  else if 0x8000 ≤ a ∧ a < 0x10000 then
    let vec := (a - 0x8000) / 16
    if a % 16 < 12 then (tget 0 vec h.msixTable >>> (8 * (a % 16))).setWidth 8
    else if a % 16 = 12 ∧ !h.msixOn.contains vec then 1 else 0
  else if 0x10000 ≤ a ∧ a < 0x10100 then
    BitVec.ofNat 8 (natOfBits (fun i => h.msixPend.contains (8 * (a - 0x10000) + i)) 8)
  else 0

/-- A read of BAR 0 (R243, R267): Unsupported Request where the TDI does not take it. -/
def bar0Read (part off len : Nat) (trusted : Bool) (s : State) : State :=
  if !portTakes s part trusted then portUnsupported part off s
  else send (.barData part ((List.range len).map fun i => bar0Byte s part (off + i))) s

/-! ## The TDI (R243) -/

/-- A TDI takes a state; leaving CONFIG_UNLOCKED is remembered for the scrub of R273 and for R248. -/
def setTdi (p : Nat) (t : Tdi) (s : State) : State :=
  updHost p (fun h => { h with tdi := t, leftUnlocked := h.leftUnlocked || t != .unlocked }) s

/-- A TDI enters ERROR (R243, R258): its tasks end with STATUS 2, each as its state asks. -/
def enterError (p : Nat) (s : State) : State :=
  let s := setTdi p .error s
  ((partAt s p).launch.tasks).foldl (fun s e =>
    match taskOf s p e.1 with
    | some x => cancelTask p e.1 x s
    | none => s) s

/-- IDE_INTEGRITY_FAILURE (R243). -/
def execIdeIntegrityFailure (part : Nat) (s : State) : Host.Outcome State Fault Refusal :=
  if s.dev.parts ≤ part ∨ (partAt s part).host.tdi = .error then .next s else .next (enterError part s)

/-- A request that TDISP allows (PRESUMED from TDISP, log 28): lock, start, stop, and to ERROR from anywhere; only a
warm reset leaves ERROR. -/
def tdispOk (old new : Tdi) : Bool :=
  match old, new with
  | .unlocked, .locked => true
  | .locked, .run => true
  | .locked, .unlocked => true
  | .run, .unlocked => true
  | .error, _ => false
  | _, .error => true
  | _, _ => false

/-- TDISP_REQUEST (R243, R272): of a configured partition, on a device with verified firmware. -/
def execTdispRequest (part : Nat) (target : Tdi) (s : State) : Host.Outcome State Fault Refusal :=
  if s.dev.fwUp && decide (part < s.dev.parts) && tdispOk (partAt s part).host.tdi target then
    .next (if target = .error then enterError part s else setTdi part target s)
  else .next s

/-! ## SPDM (R244) -/

/-- The bytes of a text. -/
def textBytes (t : String) : List Byte := t.toList.map fun c => BitVec.ofNat 8 c.toNat

/-- The bytes of an image. -/
def imageBytes (n : Nat) (m : Sparse Byte) : List Byte := (List.range n).map fun i => tget 0 i m

/-- The firmware image in the non-volatile store (R20) is one that verifies (R272). -/
def storeVerifies (d : Dev) : Bool := Config.firmwareOk (imageBytes d.nvLen d.nvImage)

/-- The firmware is loaded from the non-volatile store and verified (R272): what runs until the next load. -/
def loadFirmware (d : Dev) : Dev := { d with fw := d.nvImage, fwLen := d.nvLen, fwUp := storeVerifies d }

/-- A measurement block (R244, R271); the bytes of block 17's entries and of its overflow bit stand in the order R244
names them (DESIGN CHOICE, log 29). -/
def measurement (s : State) (p i : Nat) : List Byte :=
  let a := (partAt s p).host.attest
  match i with
  | 1 => wordBytes 64 (Config.sha3 (imageBytes s.dev.fwLen s.dev.fw))
  | 2 => wordBytes 8 (devid s.dev p) ++ leBytes 4 (ownFa s.dev)
  | 16 => wordBytes 64 a.digest
  | 17 =>
    (a.entries.flatMap fun e => wordBytes 64 e.1 ++ leBytes 8 e.2.1 ++ leBytes 2 e.2.2) ++
      leBytes 1 (if a.overflow then 1 else 0)
  | _ => []

/-- SPDM_REQUEST (R244, R272): a device without verified firmware answers nothing. -/
def execSpdmRequest (part : Nat) (req : SpdmReq) (s : State) : Host.Outcome State Fault Refusal :=
  if !s.dev.fwUp || s.dev.parts ≤ part then .next s
  else
    .next (send (.spdm part (match req with
      | .algorithms => textBytes "Ed448 SHA3-512 ECDHE-P-384 AES-256-GCM"
      | .measurement i => measurement s part i)) s)

end Sys2Proof.Machine
end

