-- ==== Sys2Proof/Machine/Fabric.lean ====
section
/-! DEFINITION. The fabric ports (R13, R226 to R229, R232 to R235), controllers and the scrubber (R78 to R80, R177,
R197, R274). -/

namespace Sys2Proof.Machine

/-! ## Links (R228, R232, R233) -/

/-- A port goes down and is fenced (R228, R267): the flits still in its retry buffer are lost (R233), and what awaits a
tag or room with them. Every configured partition logs it (R266; DESIGN CHOICE, log 70). -/
def portDown (port : Nat) (s : State) : State :=
  (List.range s.dev.parts).foldl (fun s p => logErr p 10 0xFF 0xFFFF port 0 0 s)
    (setPort port { portOf s port with up := false, retraining := false, retry := [], reseq := [], held := [], queue := [] } s)

/-- A flit's number is `base` or one before it, in the window of sequence numbers. -/
def upTo (port base q : Nat) : Bool := decide ((base + seqMod port - q) % seqMod port < seqMod port / 2)

/-- Delivers the flits of the resequencing buffer that are next in order; `fuel` of them at most. -/
def inOrder (port : Nat) : Nat → Port → Port
  | 0, x => x
  | fuel + 1, x =>
    match x.reseq.find? fun f => f.1 == x.recvSeq with
    | none => x
    | some f =>
      inOrder port fuel { x with
        recvSeq := (x.recvSeq + 1) % seqMod port, reseq := x.reseq.erase f, delivered := x.delivered ++ [f.2] }

/-- A discarded flit is asked for (R232): the first since the last good one, and each with which the sender, resending,
has come back to where it was or before. -/
def asksAgain (port seq : Nat) (x : Port) : Bool :=
  match x.nak with
  | some (want, last) => want != x.recvSeq || seq == last || upTo port last seq
  | none => true

/-- FLIT_RECEIVE on a local port (R232): go-back-N. The flit in sequence is delivered; a good one that was delivered
before is acknowledged again; any other is discarded, with a negative acknowledgement that names the last good number. -/
def receiveLocal (port seq : Nat) (good : Bool) (payload : W64) (s : State) : State :=
  let x := portOf s port
  if good ∧ seq = x.recvSeq then
    send (.ack port seq 0 true) (setPort port { x with
      recvSeq := (seq + 1) % seqMod port, delivered := x.delivered ++ [payload], nak := none } s)
  else
    let last := (x.recvSeq + seqMod port - 1) % seqMod port
    if good ∧ upTo port last seq then send (.ack port last 0 true) s
    else
      let s' := setPort port { x with nak := some (x.recvSeq, seq) } s
      if asksAgain port seq x then send (.ack port last 0 false) s' else s'

/-- The bitmap of a global acknowledgement (R232): which of the 256 flits after its base have come. -/
def gotBitmap (port : Nat) (x : Port) : BitVec 256 :=
  BitVec.ofNat 256 (natOfBits (fun i => x.reseq.any fun f => f.1 == (x.recvSeq + i) % seqMod port) 256)

/-- FLIT_RECEIVE on a global port (R232): a good flit within the resequencing buffer is kept and delivered in order; what
has come is acknowledged, after a flit that is discarded too. -/
def receiveGlobal (port seq : Nat) (good : Bool) (payload : W64) (s : State) : State :=
  let x := portOf s port
  let ahead := (seq + seqMod port - x.recvSeq) % seqMod port
  let y := if !good || decide (4096 ≤ ahead) || x.reseq.any (·.1 == seq) then x
    else inOrder port 4096 { x with reseq := x.reseq ++ [(seq, payload)] }
  send (.ack port ((y.recvSeq + seqMod port - 1) % seqMod port) (gotBitmap port y) true) (setPort port y s)

/-- A port takes flits: it is up and not retraining, and the device has verified firmware, without which it answers the
mailbox alone (R272). -/
def portOpen (s : State) (port : Nat) : Bool :=
  s.dev.fwUp && decide (port < 95) && (portOf s port).up && !(portOf s port).retraining

/-- FLIT_RECEIVE (R232). -/
def execFlitReceive (port seq : Nat) (crcOk : Bool) (payload : W64) (s : State) : Host.Outcome State Fault Refusal :=
  if !portOpen s port then .next s
  else .next (if port < 31 then receiveLocal port (seq % seqMod port) crcOk payload s
    else receiveGlobal port (seq % seqMod port) crcOk payload s)

/-- The flits of a retry buffer that an acknowledgement asks to be resent are (R232); the link retrains when one has
been resent 32 times in a row. -/
def resendSome (port : Nat) (which : Nat → Bool) (s : State) : State :=
  let x := portOf s port
  let retry := x.retry.map fun f => if which f.1 then (f.1, f.2.1, f.2.2 + 1) else f
  let s := setPort port { x with retry := retry, retraining := x.retraining || retry.any fun f => decide (32 ≤ f.2.2) } s
  (retry.filter fun f => which f.1).foldl (fun s f => send (.resend port f.1) s) s

/-- LINK_ACK (R232): the flits acknowledged leave the retry buffer, and what waited for room goes out. On a local port a negative acknowledgement has
every later flit resent; on a global one those whose bits are clear are. -/
def execLinkAck (port base : Nat) (bitmap : BitVec 256) (nak : Bool) (s : State) : Host.Outcome State Fault Refusal :=
  if !portOpen s port then .next s
  else
    let b := base % seqMod port
    let after (q : Nat) : Nat := (q + seqMod port - b - 1) % seqMod port
    let bit (q : Nat) : Bool := 31 ≤ port && decide (after q < 256) && bitmap.getLsbD (after q)
    let x := portOf s port
    let s := setPort port { x with retry := x.retry.filter fun f => !(upTo port b f.1 || bit f.1) } s
    .next (drainAll port (if port < 31 then (if nak then resendSome port (fun _ => true) s else s)
      else resendSome port (fun q => decide (after q < 256) && !bit q) s))

/-- LINK_RETRAIN (R228, R232): a link that retrains goes on, or its port is down. -/
def execLinkRetrain (port : Nat) (ok : Bool) (s : State) : Host.Outcome State Fault Refusal :=
  let x := portOf s port
  if !x.retraining then .next s
  else if ok then
    .next (drainAll port
      (setPort port { x with retraining := false, retry := x.retry.map fun f => (f.1, f.2.1, 0) } s))
  else .next (portDown port s)

/-- The lanes or wavelengths a port runs on when `good` of them are (R228); 0 is down. -/
def lanesFor (port good : Nat) : Nat :=
  if port < 31 then (if 16 ≤ good then 16 else if 8 ≤ good then 8 else if 4 ≤ good then 4 else 0)
  else if good < 32 then 0 else min good 128

/-- LANE_FAILURE (R228). -/
def execLaneFailure (port good : Nat) (s : State) : Host.Outcome State Fault Refusal :=
  if 95 ≤ port then .next s
  else
    let n := min (lanesFor port good) (portOf s port).lanes
    let s := setPort port { portOf s port with lanes := n } s
    .next (if n = 0 then portDown port s else s)

/-- The fabric address at the far end of a port (R227); of a global one, the member whose own port leads back
(DEDUCED, log 30). -/
def portPeer (d : Dev) (port : Nat) : Nat :=
  if port < 31 then 32 * d.group + (d.member + 1 + port) % 32
  else
    let k := 64 * d.member + (port - 31)
    32 * ((d.group + 1 + k) % 2049) + (2047 - k) / 64

/-! ## Requests from peers (R229, R235) -/

/-- The answer to a peer's request leaves on the port the request came on (DEDUCED, log 69), with its bytes in flits of
64 and, when the pair is confidential, their tags (R229, R232, R234). -/
def answerPeer (r : RemoteReq) (d : List Byte) (s : State) : State :=
  let n := 1 + ceilDiv d.length 64
  sendVia r.port (n + if r.held then tagFlits n else 0) (.reply r.tag d) s

/-- A peer's request that violates a check is answered with an error, no data, and its address is logged (R267; the
KIND of the record is a DESIGN CHOICE, log 31). -/
def refuseRemote (r : RemoteReq) (s : State) : State :=
  answerPeer r [] (logErr r.part 9 0xFF 0xFFFF r.port r.addr 0 s)

/-- A peer's 8-byte access to a partition's device alias (R241): a doorbell write, or a read of a doorbell's register;
any other is refused. -/
def serveAlias (r : RemoteReq) (s : State) : State :=
  let off := r.addr - windowBase
  match r.op with
  | .write d =>
    if d.length = 8 ∧ off / 32 < 64 ∧ off % 32 = 0 then
      answerPeer r [] (bellWrite r.part (off / 32) true (BitVec.ofNat 64 (leNat d)) s)
    else refuseRemote r s
  | .read n =>
    if n = 8 ∧ off / 32 < 64 ∧ off % 8 = 0 then
      answerPeer r (leBytes 8 (bellRead s r.part (off / 32) (off % 32)).toNat) s
    else refuseRemote r s
  | .atomic _ _ _ _ => refuseRemote r s

/-- The bytes a request touches. -/
def reqBytes (r : RemoteReq) : Nat :=
  match r.op with
  | .read n => n
  | .write d => d.length
  | .atomic _ n _ _ => n

/-- A peer's request performs at this device's memory and is answered (R176, R201, R215). What lies outside a partition's
DRAM is refused; what meets an uncorrectable error or a retraining controller answers no data (DEDUCED, log 31). -/
def serveRemote (r : RemoteReq) (s : State) : State :=
  let n := reqBytes r
  let answer := answerPeer r
  if inAlias r.addr && decide (r.part < s.dev.parts) then serveAlias r s
  else if absent s r.part r.addr n then refuseRemote r s
  else if notReady s r.part r.addr n then answer [] s
  else
    match r.op with
    | .write d => answer [] (healBytes r.part r.addr n (physWrite r.part r.addr d s))
    | .read n =>
      match readFrom r.part (.local r.part) r.addr n s with
      | (.ok b, s) => answer b s
      | (.error _, s) => answer [] s
    | .atomic op n v x =>
      let (bad, s) := meetErrors r.part r.addr n s
      if bad then answer [] s
      else
        let old := physBytes s r.part r.addr n
        let new := if op = 10 then (tripleNew (leNat old) (Triple.ofNat v, 0)).1
          else amoNew op (8 * n) (leNat old) (v % 2 ^ (8 * n)) (x % 2 ^ (8 * n))
        answer old (physWrite r.part r.addr (leBytes n new) s)

/-- REMOTE_REQUEST_ARRIVAL (R229, R235): a request whose group awaits its tag waits at the ordering point; one that comes
again, its group resent, takes the place of the first. -/
def execRemoteRequestArrival (r : RemoteReq) (s : State) : Host.Outcome State Fault Refusal :=
  if !portOpen s r.port then .next s
  else if r.held then
    let x := portOf s r.port
    let same (h : Held) : Bool := match h with
      | .request q => q.tag == r.tag
      | _ => false
    .next (setPort r.port { x with
      held := if x.held.any fun e => same e.1 then x.held.map fun e => if same e.1 then (.request r, e.2) else e
        else x.held ++ [(.request r, 0)] } s)
  else .next (serveRemote r s)

/-- What a verified group held goes on (R235): a request performs, an answer is free to come back. -/
def letGo (port : Nat) (h : Held) (s : State) : State :=
  match h with
  | .request r => serveRemote r s
  | .answer core pkt =>
    match pktOf s core pkt with
    | none => s
    | some x =>
      let s := if x.port = some port ∧ x.bad = 0 then openLine (partOfCore s.dev core) pkt s else s
      updPkt core pkt (fun x => if x.port = some port then { x with port := none } else x) s

/-- The flits of a held group, its tags among them (R229, R234): of a request, or of the answer to a packet. -/
def groupFlits (h : Held) (s : State) : Nat :=
  let n := match h with
    | .request r => 1 + match r.op with
      | .read _ => 0
      | .write d => ceilDiv d.length 64
      | .atomic _ n _ _ => ceilDiv n 64
    | .answer core pkt => 1 + if (pktOf s core pkt).any (·.acc == 1) then 0 else 4
  n + tagFlits n

/-- A group whose tag has failed is asked for again (R232, R235): its flits, the last that came (DEDUCED, log 67), are
taken back, and the acknowledgement names the one before them as the last good one. -/
def askGroup (port k : Nat) (x : Port) (s : State) : State :=
  let want := (x.recvSeq + seqMod port - k % seqMod port) % seqMod port
  let y := { x with
    recvSeq := want, delivered := x.delivered.take (x.delivered.length - k)
    nak := if port < 31 then some (want, (x.recvSeq + seqMod port - 1) % seqMod port) else x.nak }
  send (.ack port ((want + seqMod port - 1) % seqMod port) (if port < 31 then 0 else gotBitmap port y) (31 ≤ port))
    (setPort port y s)

/-- GCM_TAG_VERIFY (R235): the oldest group of a port that awaits its tag (DEDUCED, log 67) verifies, or is asked for
again. At the eighth failure of one group the port is down. -/
def execGcmTagVerify (port : Nat) (ok : Bool) (s : State) : Host.Outcome State Fault Refusal :=
  if !portOpen s port then .next s
  else
    let x := portOf s port
    match x.held with
    | [] => .next s
    | (h, fails) :: rest =>
      if ok then .next (letGo port h (setPort port { x with held := rest } s))
      else if 8 ≤ fails + 1 then .next (portDown port s)
      else .next (askGroup port (groupFlits h s) { x with held := (h, fails + 1) :: rest } s)

/-! ## Power, controllers and the scrubber -/

/-- POWER_LIMITER (R13): the arithmetic clock is lowered while the package is over its budget; no bit of any result
changes. -/
def execPowerLimiter (overBudget : Bool) (s : State) : Host.Outcome State Fault Refusal :=
  .next (updDev (fun d => { d with slowClock := overBudget }) s)

/-- CONTROLLER_RETRAIN_COMPLETE (R274). -/
def execControllerRetrainComplete (part ctrl : Nat) (s : State) : Host.Outcome State Fault Refusal :=
  .next (updMem part (fun m => { m with retrain := m.retrain.filter (· != ctrl) }) s)

/-- The scrubber comes to a row (R78 to R80): it reads and rewrites it, so that its correctable errors are logged and
gone. -/
def scrubRow (core key : Nat) (s : State) : State :=
  updStore core (fun st => { st with ecc := healRow key 0 st }) (readCheck core key s)

/-- The rows of a pass over a block, or over the eight accumulator tiles (R64, R73, R80). -/
def scrubRows (area : Nat) : Nat := if area < 8 then 768 else 1024

/-- The rows of an area the scrubber is to have looked at by now: evenly, a pass every 2^27 cycles and as many more as
the block has been held (R80; DESIGN CHOICE of the pace, and of a first pass from cycle 0, log 63). -/
def scrubTarget (s : State) (core area : Nat) : Nat :=
  (now s - tget 0 area (coreOf s core).st.held) * scrubRows area / 2 ^ 27

/-- The scrubber is to look at the next row of an area (R80). -/
def scrubDue (s : State) (core area : Nat) : Bool :=
  decide (tget 0 area (coreOf s core).st.scrubbed < scrubTarget s core area)

/-- The row of an area the scrubber comes to. -/
def scrubKey (s : State) (core area : Nat) : Nat := 768 * area + (scrubTarget s core area - 1) % scrubRows area

/-- Timed accesses use a port of a block in this cycle (R66, R80). -/
def portHeld (s : State) (core blk : Nat) : Bool :=
  let st := (coreOf s core).st
  (st.rdUsed ++ st.wrUsed ++ drainBlocks s core).contains blk

/-- The area whose next row the scrubber looks at now. -/
def scrubNext (s : State) (core : Nat) : Option Nat :=
  (List.range 9).find? fun a => scrubDue s core a && !portHeld s core a

/-- SCRUBBER_PASS (R80): the scrubber of a core takes the next row of its pass over a block or the accumulator tiles. -/
def execScrubberPass (core : Nat) (s : State) : Host.Outcome State Fault Refusal :=
  match scrubNext s core with
  | some a =>
    let n := scrubTarget s core a
    .next (updStore core (fun st => { st with scrubbed := tset 0 a n st.scrubbed, scrubs := notePort a st.scrubs })
      (scrubRow core (scrubKey s core a) s))
  | none => .next s

/-- The pass over a block waits for the cycles in which timed accesses hold its ports (R80). -/
def countHeld (core : Nat) (s : State) : State :=
  let blks := (List.range 8).filter (portHeld s core)
  updStore core (fun st => { st with held := blks.foldl (fun m b => tmod 0 b (· + 1) m) st.held }) s

/-- A bit error strikes a stored word of a core (R77): no row of the table, but what R78 and R79 answer. A second bit
of one word (DEDUCED, log 64) makes an error that cannot be corrected. -/
def strikeSram (core row word : Nat) (double : Bool) (s : State) : State :=
  updStore core (fun st => { st with
    ecc := tset 0 (64 * row + word) (if double || wordErr st row word != 0 then 2 else 1) st.ecc }) s

/-- A bit error strikes a granule of a partition's DRAM (R197). -/
def strikeDram (part granule : Nat) (double : Bool) (s : State) : State :=
  updMem part (fun m => { m with dramErr := tset 0 granule (if double then 2 else 1) m.dramErr }) s

end Sys2Proof.Machine
end

