-- ==== Sys2Proof/Machine/SillBound.lean ====
section
/-! DEFINITION. The loader's bound on the bundles between sill points (R44, R317): every path through a task's code,
with loop bodies at their declared maximum. A LOOP of undeclared maximum counts as never ending, so it stands only if
every path through its body meets a sill point. A branch by register, whose target the loader cannot know, may go to
any bundle of the code (DEDUCED, log 32). -/

namespace Sys2Proof.Machine

/-- A task's bundles, in order. -/
abbrev Code := List (BitVec 512)

/-- The bundle number that stands for any bundle of the code. -/
def anyBundle : Nat := 2 ^ 64

/-- A trip count no declared maximum reaches (R317). -/
def endless : Nat := 2 ^ 32

/-- The trip counts an opening loop counts as (R314, R317): the declared maximum; none, or no end, without one. -/
def tripCounts : Instr → List Nat
  | .loop f => if bits f.imm 31 20 = 0 then [0, endless] else [bits f.imm 31 20]
  | .loopi f => [bits f.imm 31 20]
  | _ => []

/-- The declared maximum of the loop whose body starts at a bundle (R315). -/
def declaredTrips (code : Code) (start : Nat) : Nat :=
  ((code[start - 3]?).map fun b => (tripCounts (decodeSyl .s (syllable b .s))).foldl max 1).getD 1

/-- Whether a guarded syllable executes: both ways, but for g0 (R72). -/
def guardWays (f : SSyl) : List Bool := if f.g = 0 then [f.gn == 0] else [true, false]

/-- A position as a context. -/
def ctxAt (p : Pos) : Ctx := { Ctx.reset with pos := p }

/-- The positions with a transfer under way. -/
def transferTo (t : Option Transfer) (p : Pos) : Pos := (startTransfer t (ctxAt p)).pos

/-- The target of a branch: any bundle, when a register gives it (R283). -/
def pathTarget (f : SSyl) (p : Pos) : Nat := if f.b = 0 then branchTarget f (ctxAt p) else anyBundle

/-- What a bundle's S syllable may make of a position before the next bundle issues (R283 to R285, R314, R333, R344);
what traps goes no further. -/
def sylPaths (p : Pos) (i : Instr) : List Pos :=
  match i with
  | .br f => (guardWays f).flatMap fun on =>
      if !on then [transferTo none p]
      else [transferTo (some (.target (pathTarget f p))) p]
  | .call f => (guardWays f).flatMap fun on =>
      if !on then [transferTo none p]
      else if p.calls.length < 8 then
        [{ transferTo (some (.target (pathTarget f p))) p with calls := (p.pc + 3) :: p.calls }]
      else []
  | .ret f => (guardWays f).flatMap fun on =>
      if !on then [transferTo none p]
      else match p.calls with
        | [] => []
        | r :: cs => [{ transferTo (some (.target r)) p with calls := cs }]
  | .brk f => (guardWays f).flatMap fun on =>
      if !on then [transferTo none p]
      else match p.loops with
        | [] => []
        | e :: es => [{ transferTo (some (.afterLoop e.stop)) p with loops := es }]
  | .loop f => (guardWays f).flatMap fun on =>
      if !on then [p] else (tripCounts i).map fun n => (openLoop f n (ctxAt p)).pos
  | .loopi f => (guardWays f).flatMap fun on =>
      if !on then [p] else (tripCounts i).map fun n => (openLoop f n (ctxAt p)).pos
  | .tend f => (guardWays f).flatMap fun on => if on then [] else [p]
  | _ => [p]

/-- The loops at an end bundle: each in turn goes on, or counts as its last trip. -/
def leaveSome (stop : Nat) : List LoopEnt → List (List LoopEnt)
  | [] => [[]]
  | e :: es =>
    if e.stop = stop then (e :: es) :: (leaveSome stop es).map ({ e with count := 1 } :: ·) else [e :: es]

/-- The end bundle whose loops a bundle may count down, if any. -/
def endHere (p : Pos) : Option Nat :=
  match acting p with
  | some (.afterLoop stop) => some stop
  | some _ => none
  | none => some p.pc

/-- A position whose bundle is any is one at each. -/
def spread (code : Code) (p : Pos) : List Pos :=
  if p.pc = anyBundle then (List.range code.length).map fun n => { p with pc := n } else [p]

/-- The positions that may follow a position. -/
def successors (code : Code) (p : Pos) : List Pos :=
  match code[p.pc]? with
  | none => []
  | some b =>
    (sylPaths p (decodeSyl .s (syllable b .s))).flatMap fun q =>
      match endHere q with
      | none => spread code (nextPos q)
      | some stop => (leaveSome stop q.loops).map fun l => nextPos { q with loops := l }

/-- A position stands at a sill point. -/
def atSill (code : Code) (p : Pos) : Bool := (code[p.pc]?).any sillBundle

/-- The paths go on, bundle by bundle, `fuel` bundles at most before each meets a sill point or ends: the sill points
met, or none when a path goes further. -/
def measure (code : Code) : Nat → List Pos → List Pos → Option (List Pos)
  | 0, ps, met =>
    if ps.all fun p => atSill code p || (code[p.pc]?).isNone then some (met ++ ps) else none
  | fuel + 1, ps, met =>
    let go := ps.filter fun p => !atSill code p
    if go.isEmpty then some (met ++ ps)
    else measure code fuel ((go.flatMap (successors code)).eraseDups) (met ++ ps.filter (atSill code))

/-- The positions after a sill point, every loop there at its declared maximum again. A PEND ends its phase (R40), and
any phase may follow it, with the calls not yet returned from (R283, log 32). -/
def afterSill (code : Code) (starts : List Nat) (p : Pos) : List Pos :=
  if (code[p.pc]?).any fun b => opField .sy (syllable b .sy) == 0x10 then
    if p.loops.isEmpty && !p.calls.isEmpty then starts.map fun n => { Pos.reset with pc := n, calls := p.calls } else []
  else successors code { p with loops := p.loops.map fun e => { e with count := declaredTrips code e.start } }

/-- Every path from the given starts, and from every sill point these reach, keeps the bound. -/
def boundFrom (code : Code) (starts : List Nat) : Nat → List (List Pos) → List (List Pos) → Bool
  | 0, _, _ => false
  | _ + 1, [], _ => true
  | fuel + 1, ps :: todo, seen =>
    match measure code 65536 ps [] with
    | none => false
    | some met =>
      let fresh := ((met.map (afterSill code starts)).eraseDups).filter fun q => !seen.contains q
      boundFrom code starts fuel (todo ++ fresh) (seen ++ fresh)

/-- THE SILL BOUND of a task's code from the first bundles of its phases (R44). -/
def sillBound (code : Code) (starts : List Nat) : Bool :=
  let ps := starts.map fun n => [{ Pos.reset with pc := n }]
  boundFrom code starts (2 ^ 40) ps ps

end Sys2Proof.Machine
end

