-- ==== Sys2Proof/Machine/Loader.lean ====
section
/-! DEFINITION. The load engine (R57, R88, R108, R268 to R271): code objects checked, verified, measured and copied.
Both ends of a segment lie within the 57 bits of an address (DEDUCED, log 33), and the zero fields of a task header
are checked with its tables. -/

namespace Sys2Proof.Machine

/-- Reads any range through the partition's translation. -/
def readAll (p va n : Nat) (s : State) : Option (List Byte) × State :=
  vread p ((partDies s.dev p).headD 0) .read (n / 65536 + 2) va n s

/-- A range of bytes is all zero. -/
def zeroBytes (h : List Byte) (off n : Nat) : Bool := ((h.drop off).take n).all (· == 0)

/-- A field of a segment descriptor (R268). -/
def segKind (d : List Byte) : Nat := numAt d 0 1
/-- FOFF. -/
def segOff (d : List Byte) : Nat := numAt d 8 8
/-- FSIZE. -/
def segSize (d : List Byte) : Nat := numAt d 16 8
/-- MSIZE. -/
def segMem (d : List Byte) : Nat := numAt d 24 8
/-- VADDR. -/
def segVa (d : List Byte) : Nat := numAt d 32 8

/-- A code object's header keeps R268. -/
def headOk (h : List Byte) : Bool :=
  h.take 8 == textBytes "SRWTCO01" && numAt h 8 2 == 1 && numAt h 10 1 == 9 && 1 ≤ numAt h 12 2 &&
    numAt h 12 2 ≤ 64 && numAt h 14 2 ≤ 15 && zeroBytes h 16 112

/-- A descriptor keeps R268. -/
def segOk (d : List Byte) : Bool :=
  1 ≤ segKind d && segKind d ≤ 4 && zeroBytes d 1 3 && numAt d 4 4 ≤ 1 && segSize d ≤ segMem d &&
    segVa d % 65536 == 0 && segVa d + segMem d ≤ 2 ^ 57 && zeroBytes d 40 24 && zeroBytes d 242 14

/-- Step 1 of R270: the header and the descriptors. -/
def loadHead (p va : Nat) (s : State) : Option (List Byte × List (List Byte)) × State :=
  match readAll p va 128 s with
  | (none, s) => (none, s)
  | (some h, s) =>
    if !headOk h then (none, s)
    else
      let n := numAt h 12 2
      match readAll p (va + 128) (256 * n) s with
      | (none, s) => (none, s)
      | (some ds, s) =>
        let l := (List.range n).map fun i => (ds.drop (256 * i)).take 256
        (if l.all segOk then some (h, l) else none, s)

/-- Step 2 of R270 for one segment: measured, verified, copied and zero-filled. -/
def loadSegment (p va : Nat) (key : BitVec 456) (d : List Byte) (s : State) : Bool × State :=
  match readAll p (va + segOff d) (segSize d) s with
  | (none, s) => (false, s)
  | (some body, s) =>
    if wordBytes 64 (Config.shake256 (d.take 64 ++ body)) ≠ (d.drop 64).take 64 then (false, s)
    else if !Config.ed448Verify (wordBytes 57 key) (d.take 128) ((d.drop 128).take 114) then (false, s)
    else
      vwriteAs p ((partDies s.dev p).headD 0) .read (segMem d / 65536 + 2) (segVa d)
        (body ++ List.replicate (segMem d - segSize d) 0) s

/-- Step 2 of R270: the segments in ascending order; a stream form is skipped (R268). -/
def loadSegments (p va : Nat) (key : BitVec 456) : List (List Byte) → State → Bool × State
  | [], s => (true, s)
  | d :: ds, s =>
    if segKind d = 4 then loadSegments p va key ds s
    else
      match loadSegment p va key d s with
      | (true, s) => loadSegments p va key ds s
      | (false, s) => (false, s)

/-- One extension of the measurement record (R271). -/
def extend (meas : List Byte) (load seg : Nat) (a : Attest) : Attest :=
  let full := decide (4096 ≤ a.entries.length)
  { a with
    digest := Config.shake256 (wordBytes 64 a.digest ++ meas ++ leBytes 8 load ++ leBytes 2 seg)
    entries := if full then a.entries else a.entries ++ [(BitVec.ofNat 512 (leNat meas), load, seg)]
    overflow := a.overflow || full }

/-- Step 3 of R270. -/
def extendAll (ds : List (List Byte)) (load : Nat) (a : Attest) : Attest :=
  ds.zipIdx.foldl (fun a d => if segKind d.1 = 4 then a else extend ((d.1.drop 64).take 64) load d.2 a) a

/-! ## Step 4 of R270: the task headers -/

/-- A table lies wholly in a segment of the object and is aligned, or has no entry (R269). -/
def tableOk (segs : List Seg) (va n align : Nat) : Bool :=
  n == 0 || (va % align == 0 && segs.any fun g => decide (g.vaddr ≤ va) && decide (va + n ≤ g.vaddr + g.msize))

/-- The edges that lead on to another edge. -/
def leadingOn (es : List (Nat × Nat)) : List (Nat × Nat) := es.filter fun e => es.any fun f => f.1 == e.2

/-- A wait graph over the 256 semaphores has no cycle (R57). -/
def acyclic (es : List (Nat × Nat)) : Bool := ((List.range 257).foldl (fun l _ => leadingOn l) es).isEmpty

/-- A defined phase entry keeps R37 and its expectations R70, given the header's MXU, ACC mask and NEXP, the bundles
from CODEBASE to the end of its segment, the pairs and the table. -/
def entryOk (mxu : Bool) (acc nexp bundles : Nat) (pairs : List Nat) (tab : List (BitVec 128)) (e : BitVec 128) : Bool :=
  let expoff := bits e 79 68
  let expn := bits e 86 80
  let tiles := ((pairs.drop expoff).take expn).map (· / 2 ^ 22)
  !nzBits e 51 0 && 1 ≤ bits e 107 88 && expn ≤ 64 && (!e.getLsbD 67 || mxu) &&
    ((List.range 8).all fun k => !e.getLsbD (59 + k) || acc.testBit k) &&
    bits e 127 108 + bits e 107 88 ≤ bundles && tab.getD (bits e 58 52) 0 != 0 && expoff + expn ≤ nexp &&
    tiles.eraseDups.length == tiles.length

/-- The phase table of a header (R37): A0 is defined, and each defined entry holds. -/
def phasesOk (h : List Byte) (bundles : Nat) (pairs : List Nat) (tab : List (BitVec 128)) : Bool :=
  tab.getD 0 0 != 0 && tab.all fun e =>
    e == 0 || entryOk (numAt h 12 1 % 2 == 1) (numAt h 13 1) (numAt h 160 4) bundles pairs tab e

/-- The expectations of a header (R70). -/
def pairsOk (h : List Byte) (pairs : List Nat) : Bool :=
  pairs.all fun w => w / 2 ^ 22 ≤ 767 && w / 2 ^ 16 % 64 == 0 && (numAt h 64 96).testBit (w / 2 ^ 22)

/-- The format registers of a header: 0 or valid (R88). -/
def formatsOk (h : List Byte) : Bool :=
  (List.range 8).all fun k =>
    let w := BitVec.ofNat 32 (numAt h (16 + 4 * k) 4)
    w == 0 || (fmtOfReg w).isSome

/-- The bundles of a task as its memory holds them. -/
def codeOf (bs : List Byte) (len : Nat) : Code :=
  (List.range len).filterMap fun i => bundleOfBytes ((bs.drop (64 * i)).take 64)

/-- The bytes of a table; those of an empty one are not read (R269). -/
def readTable (p va n : Nat) (s : State) : List Byte × State :=
  if n = 0 then ([], s)
  else match readAll p va n s with
    | (some b, s) => (b, s)
    | (none, s) => ([], s)

/-- Step 4 of R270 for one task header. -/
def headerOk (p : Nat) (segs : List Seg) (h : List Byte) (s : State) : Bool × State :=
  let nsem := numAt h 15 1
  let nexp := numAt h 160 4
  let nedge := numAt h 164 4
  let placed := tableOk segs (numAt h 168 8) (4 * nsem) 4 && tableOk segs (numAt h 176 8) (2 * nedge) 2 &&
    tableOk segs (numAt h 184 8) 2048 16 && tableOk segs (numAt h 56 8) (4 * nexp) 4
  let base := numAt h 0 8
  let seg := segs.find? fun g => g.kind == 1 && decide (g.vaddr ≤ base) && decide (base < g.vaddr + g.msize)
  if !placed || decide (4096 < nexp) || decide (1 < numAt h 12 1) || !zeroBytes h 192 64 || !formatsOk h then (false, s)
  else
    match seg with
    | none => (false, s)
    | some g =>
      let bundles := (g.vaddr + g.msize - base) / 64
      let (sems, s) := readTable p (numAt h 168 8) (4 * nsem) s
      let (edges, s) := readTable p (numAt h 176 8) (2 * nedge) s
      let (ph, s) := readTable p (numAt h 184 8) 2048 s
      let (ex, s) := readTable p (numAt h 56 8) (4 * nexp) s
      let len := min bundles (numAt h 8 4)
      let (code, s) := readTable p base (64 * len) s
      let pairs := (wordsOf ex).map (·.toNat)
      let tab := (List.range 128).map fun i => BitVec.ofNat 128 (numAt ph (16 * i) 16)
      let es := (List.range nedge).map fun i => (numAt edges (2 * i) 1, numAt edges (2 * i + 1) 1)
      (((wordsOf sems).all fun w => !nzBits w 15 9) && phasesOk h bundles pairs tab && pairsOk h pairs && acyclic es &&
        sillBound (codeOf code len) (((tab.filter (· != 0)).map fun e => bits e 127 108).eraseDups), s)

/-- The task headers of an object's segments, one each 256 bytes (R269). -/
def headersOk (p : Nat) (segs : List Seg) (s : State) : Bool × State :=
  let vas := (segs.filter (·.kind == 3)).flatMap fun g => (List.range (g.msize / 256)).map fun i => g.vaddr + 256 * i
  vas.foldl (fun (a : Bool × State) va =>
    if !a.1 then a
    else match readAll p va 256 a.2 with
      | (some h, s) => headerOk p segs h s
      | (none, s) => (false, s)) (true, s)

/-! ## Step 5 of R270 -/

/-- The page of an address becomes executable and not writable, and no TLB entry of it stays (R192). -/
def makeExecutable (p va : Nat) (s : State) : State :=
  match walk s p va with
  | none => s
  | some l =>
    let e := (l.pte ||| BitVec.ofNat 128 (2 ^ 4)) &&& ~~~(BitVec.ofNat 128 (2 ^ 3))
    updMem p (fun m => { m with tlb := m.tlb.filter fun t => t.home != l.home }) (physWriteNat p l.home 16 e.toNat s)

/-- The code pages of an object. -/
def makeCode (p : Nat) (segs : List Seg) (s : State) : State :=
  ((segs.filter (·.kind == 1)).flatMap fun g => (List.range (ceilDiv g.msize 65536)).map fun i => g.vaddr + 65536 * i).foldl
    (fun s va => makeExecutable p va s) s

/-- THE LOAD ENGINE (R270): the step that rejects the object, 0 when none does. -/
def loadObject (p va load : Nat) (s : State) : Nat × State :=
  match loadHead p va s with
  | (none, s) => (1, s)
  | (some (h, ds), s) =>
    let nbv := numAt h 11 1
    match loadSegments p va (tget 0 (numAt h 14 2) (partAt s p).host.signers) ds s with
    | (false, s) => (2, s)
    | (true, s) =>
      let s := updHost p (fun x => { x with attest := extendAll ds load x.attest }) s
      let segs := (ds.filter fun d => segKind d != 4).map fun d =>
        (⟨segKind d, segVa d, segMem d, BitVec.ofNat 8 nbv⟩ : Seg)
      if nbv < 1 ∨ 3 < nbv then (4, s)
      else
        match headersOk p segs s with
        | (false, s) => (4, s)
        | (true, s) => (0, updHost p (fun x => { x with segs := segs ++ x.segs }) (makeCode p segs s))

end Sys2Proof.Machine
end

