-- ==== Sys2Proof/Machine/Mailbox.lean ====
section
/-! DEFINITION. The management mailbox (R245 to R248): its registers, the commands of R247, warm reset (R273, R274) and
cold reset (R200, R272). -/

namespace Sys2Proof.Machine

/-! ## The registers -/

/-- Changes the mailbox. -/
def updMb (f : Mailbox → Mailbox) (s : State) : State := updDev (fun d => { d with mb := f d.mb }) s
/-- MBARG k as a number. -/
def arg (s : State) (k : Nat) : Nat := (tget 0 k s.dev.mb.args).toNat
/-- BUSY (R245). -/
def mbBusy (s : State) : Bool := s.dev.mb.stat.getLsbD 63
/-- Bytes of the bulk buffer. -/
def bulkRead (s : State) (off n : Nat) : List Byte := (List.range n).map fun i => tget 0 (off + i) s.dev.mb.bulk
/-- Writes bytes of the bulk buffer. -/
def bulkWrite (off : Nat) (bs : List Byte) (s : State) : State :=
  updMb (fun m => { m with bulk := tsetAll 0 off bs m.bulk }) s

/-! ## The frame of a command (R246 to R248) -/

/-- The TGT a command's row allows (R247). -/
inductive MbTarget where
  | device | part | either
  deriving DecidableEq, Repr

/-- A TGT is allowed and configured. -/
def targetOk (s : State) (t : MbTarget) (tgt : Nat) : Bool :=
  match t with
  | .device => tgt == 0xFF
  | .part => decide (tgt < s.dev.parts)
  | .either => tgt == 0xFF || decide (tgt < s.dev.parts)

/-- What a command answers: RESULT and the response words it writes. -/
abbrev MbAnswer := Nat × List (Nat × W64)

/-- A command is in progress, with the results to be written at its completion (R246). -/
def mbBegin (a : MbAnswer) (s : State) : State :=
  updMb (fun m => { m with stat := setBit m.stat 63 true, run := m.cmd, pending := some a }) s

/-- The command that a write of MBGO starts (R246): BUSY is set, and the command is performed with its results to be
written at its completion. The results come in this order: not ready (the firmware, or a controller of the target that retrains, R274),
bad argument, refused in the TDI's state
(DEDUCED, log 34), and then the command's own. -/
def mbStart (opc : Nat) (t : MbTarget) (boot : Bool) (args locked : State → Nat → Bool)
    (run : Nat → State → MbAnswer × State) (s : State) : Host.Outcome State Fault Refusal :=
  let c := s.dev.mb.cmd
  let p := bits c 23 16
  if mbBusy s || bits c 15 0 != opc then .next s
  else
    let (a, s) :=
      if (!s.dev.fwUp || !(partAt s p).memory.retrain.isEmpty) && !boot then ((6, []), s)
      else if nzBits c 31 24 || !targetOk s t p || !args s p then ((2, []), s)
      else if locked s p then ((3, []), s)
      else run p s
    .next (mbBegin a s)

/-- A command the TDI's state never refuses. -/
def neverLocked (_ : State) (_ : Nat) : Bool := false

/-- A command with no answer word that is always done. -/
def doneBy (f : Nat → State → State) (p : Nat) (s : State) : MbAnswer × State := ((0, []), f p s)

/-- A command with no effect, and the words it answers. -/
def answerWith (f : State → Nat → W64) (p : Nat) (s : State) : MbAnswer × State := ((0, [(0, f s p)]), s)

/-- A range of physical bytes lies within a partition's DRAM. -/
def inDram (s : State) (p a n : Nat) : Bool := decide (a + n ≤ usableBytes s.dev p)

/-! ## The device and its partitions -/

/-- A task holds cores of a partition. -/
def anyBound (s : State) (p : Nat) : Bool :=
  (partAt s p).launch.tasks.any fun e => e.2.any fun x =>
    x.stage == .bound || x.stage == .preempting || x.stage == .ending

/-- PARTSET (R17, R247, R248); what else a partition holds stays under its number (DESIGN CHOICE, log 35). -/
def execPartset (s : State) : Host.Outcome State Fault Refusal :=
  mbStart 0x0001 .device false (fun s _ => arg s 0 == 1 || arg s 0 == 2 || arg s 0 == 4)
    (fun s _ => (List.range 4).any fun p => (partAt s p).host.leftUnlocked)
    (fun _ s =>
      if (List.range 4).any (anyBound s) then ((1, []), s)
      else ((0, []), updDev (fun d => { d with parts := arg s 0 }) s)) s

/-- FABADDR (R226). -/
def execFabaddr (s : State) : Host.Outcome State Fault Refusal :=
  mbStart 0x0002 .device false (fun s _ => decide (arg s 0 ≤ 2048) && decide (arg s 1 ≤ 31)) neverLocked
    (doneBy fun _ s => updDev (fun d => { d with group := arg s 0, member := arg s 1 }) s) s

/-- PBASE (R226). -/
def execPbase (s : State) : Host.Outcome State Fault Refusal :=
  mbStart 0x0003 .part false (fun s _ => decide (arg s 0 ≤ 65567)) tdiLocked
    (doneBy fun p s => updHost p (fun h => { h with pbase := arg s 0 }) s) s

/-- PAIR (R234). -/
def execPair (s : State) : Host.Outcome State Fault Refusal :=
  mbStart 0x0004 .part false
    (fun s _ => decide (arg s 0 < 65568) && decide (arg s 1 ≤ 3) && decide (arg s 2 ≤ 1)) tdiLocked
    (doneBy fun p s => updHost p (fun h =>
      let pair := (arg s 0, arg s 1)
      let rest := h.pairs.filter (· != pair)
      { h with pairs := if arg s 2 = 1 then rest ++ [pair] else rest }) s) s

/-! ## Translation and memory -/

/-- XROOT (R189). -/
def execXroot (s : State) : Host.Outcome State Fault Refusal :=
  mbStart 0x0010 .part false (fun s _ => arg s 0 % 65536 == 0) tdiLocked
    (doneBy fun p s => updMem p (fun m => { m with root := some (arg s 0) }) s) s

/-- A TLB entry, or one a command holds, covers an address of a range. -/
def TlbEnt.meets (e : TlbEnt) (lo hi : Nat) : Bool :=
  let base := if e.level = 2 then e.page / 32 * 2 ^ 21 else e.page * 2 ^ 16
  decide (base < hi) && decide (lo < base + pageSize e.level)

/-- The translations of a range go, and the command completes when nothing that used them is left (R192). -/
def invalidate (p lo hi : Nat) (s : State) : State :=
  updMb (fun m => { m with wait := some (now s, lo, hi) })
    (updMem p (fun m => { m with tlb := m.tlb.filter fun e => !e.meets lo hi }) s)

/-- XINVAL (R192). -/
def execXinval (s : State) : Host.Outcome State Fault Refusal :=
  mbStart 0x0011 .part false (fun _ _ => true) neverLocked
    (doneBy fun p s => if arg s 1 = 0 then invalidate p 0 (2 ^ 57) s
      else invalidate p (arg s 0) (arg s 0 + arg s 1) s) s

/-- The size a size code names (R247). -/
def frameSize (code : Nat) : Nat := if code = 1 then 2 ^ 21 else 2 ^ 16

/-- The frames of the list EXPOOL names. -/
def poolFrames (s : State) (p : Nat) : List Nat := (List.range (arg s 1)).map fun i => physNat s p (arg s 0 + 8 * i) 8

/-- A command that reads `n` bytes of its partition's DRAM: RESULT 2 where an error it cannot correct hides them (R197;
DESIGN CHOICE, log 82). -/
def readsDram (p a n : Nat) (run : State → MbAnswer × State) (s : State) : MbAnswer × State :=
  let (bad, s) := meetErrors p a n s
  if bad then ((2, []), s) else run s

/-- EXPOOL (R195): every frame of the list must fit its size and the DRAM. -/
def execExpool (s : State) : Host.Outcome State Fault Refusal :=
  mbStart 0x0012 .part false
    (fun s p => 1 ≤ arg s 1 && arg s 1 ≤ 4096 && arg s 2 ≤ 1 && inDram s p (arg s 0) (8 * arg s 1))
    tdiLocked
    (fun p s => readsDram p (arg s 0) (8 * arg s 1) (fun s =>
      let fs := poolFrames s p
      let n := frameSize (arg s 2)
      if fs.all fun f => f % n == 0 && inDram s p f n then
        ((0, []), updMem p (fun m => { m with pool := m.pool ++ fs.map fun f => (f, arg s 2 == 1) }) s)
      else ((2, []), s)) s) s

/-- COMPRESS (R195): what the page expands to is kept with its compressed frame (log 7). -/
def execCompress (s : State) : Host.Outcome State Fault Refusal :=
  mbStart 0x0013 .part false
    (fun s p =>
      let n := frameSize (arg s 1)
      arg s 1 ≤ 1 && arg s 0 % n == 0 && arg s 2 % n == 0 && inDram s p (arg s 0) n && inDram s p (arg s 2) n)
    tdiLocked
    (fun p s =>
      let n := frameSize (arg s 1)
      readsDram p (arg s 0) n (fun s =>
        let data := physBytes s p (arg s 0) n
        let c := (Config.compressed data).take n
        let s := healBytes p (arg s 2) c.length (physWrite p (arg s 2) c s)
        let new : CFrame := ⟨arg s 2, arg s 1 == 1, data⟩
        ((0, [(0, BitVec.ofNat 64 c.length)]),
          updMem p (fun m => { m with frames := m.frames.filter (·.frame != new.frame) ++ [new] }) s)) s) s

/-- PEERCOPY (R230): the old copy goes first. -/
def execPeercopy (s : State) : Host.Outcome State Fault Refusal :=
  mbStart 0x0014 .part false
    (fun s p => arg s 0 % 2 ^ 21 == 0 && arg s 1 % 2 ^ 21 == 0 && (arg s 1 == 0 || inDram s p (arg s 0) (arg s 1)))
    tdiLocked
    (doneBy fun p s => updMem p (fun m => { m with peerBase := arg s 0, peerSize := arg s 1, peer := [] }) s) s

/-! ## Logs and thresholds (R196, R197, R231, R266, R397) -/

/-- The limits of a ring's placement. -/
def ringArgs (size : Nat) (s : State) (p : Nat) : Bool :=
  arg s 0 % size == 0 && 6 ≤ arg s 1 && arg s 1 ≤ 20 && inDram s p (arg s 0) (size * 2 ^ arg s 1)

/-- The producer and consumer indices of a ring start at 0 (R397). -/
def zeroIndices (p idx : Nat) (s : State) : State :=
  physWriteNat p ((partAt s p).memory.cntPage + 8 * idx) 16 0 s

/-- The counts of rejected records stand in words 0 to 7 of the counter page (R266). -/
def writeCounts (p : Nat) (s : State) : State :=
  let m := (partAt s p).memory
  physWrite p m.cntPage ((List.range 8).flatMap fun k => leBytes 8 (tget 0 k m.errCounts)) s

/-- ERRLOG (R266, R397). -/
def execErrlog (s : State) : Host.Outcome State Fault Refusal :=
  mbStart 0x0020 .part false (fun s p => ringArgs 64 s p && arg s 2 % 4096 == 0 && inDram s p (arg s 2) 4096) neverLocked
    (doneBy fun p s =>
      let s := updMem p (fun m => { m with errlog := some ⟨arg s 0, arg s 1, false⟩, cntPage := arg s 2 }) s
      zeroIndices p 16 (writeCounts p s)) s

/-- A queue whose indices lie in the error log's counter page is placed (R397). -/
def placeQueue (idx : Nat) (put : RecRing → MemSys → MemSys) (p : Nat) (s : State) : MbAnswer × State :=
  if (partAt s p).memory.errlog.isNone then ((1, []), s)
  else ((0, []), zeroIndices p idx (updMem p (put ⟨arg s 0, arg s 1, false⟩) s))

/-- FAQ (R196, R397). -/
def execFaq (s : State) : Host.Outcome State Fault Refusal :=
  mbStart 0x0021 .part false (ringArgs 32) neverLocked (placeQueue 18 fun r m => { m with faq := some r }) s

/-- MIGQ (R231, R397). -/
def execMigq (s : State) : Host.Outcome State Fault Refusal :=
  mbStart 0x0022 .part false (ringArgs 32) neverLocked (placeQueue 20 fun r m => { m with migq := some r }) s

/-- CETHR (R197). -/
def execCethr (s : State) : Host.Outcome State Fault Refusal :=
  mbStart 0x0023 .part false (fun s _ => 1 ≤ arg s 0 && arg s 0 ≤ 65535) neverLocked
    (doneBy fun p s => updMem p (fun m => { m with cethr := arg s 0 }) s) s

/-! ## Phasers and places -/

/-- The phasers PHALLOT names. -/
def allotted (s : State) : List Nat := (List.range (arg s 1)).map (arg s 0 + ·)

/-- PHALLOT (R217). -/
def execPhallot (s : State) : Host.Outcome State Fault Refusal :=
  mbStart 0x0024 .part false (fun s _ => decide (arg s 0 + arg s 1 ≤ 1024)) tdiLocked
    (fun p s =>
      if (allotted s).any fun k => (phaserOf s k).owner != some p && !(phaserOf s k).members.isEmpty then ((1, []), s)
      else ((0, []), (allotted s).foldl (fun s k => setPhaser k { phaserOf s k with owner := some p } s) s)) s

/-- LATCHL (R41). -/
def execLatchl (s : State) : Host.Outcome State Fault Refusal :=
  mbStart 0x0030 .part false
    (fun s p => (physCore s.dev p (arg s 0)).isSome && (physCore s.dev p (arg s 1)).isSome) neverLocked
    (answerWith fun s p => BitVec.ofNat 64
      (latchDelay false ((physCore s.dev p (arg s 0)).getD 0) ((physCore s.dev p (arg s 1)).getD 0))) s

/-- The place of a physical core as PHYSMAP gives it (R15). -/
def placeWord (c : Nat) : Nat := c / 64 * 2 ^ 12 + c / 4 % 16 * 2 ^ 4 + c % 4

/-- PHYSMAP (R15). -/
def execPhysmap (s : State) : Host.Outcome State Fault Refusal :=
  mbStart 0x0031 .part false (fun _ _ => true) neverLocked
    (doneBy fun p s => bulkWrite 0 ((partCores s.dev p).flatMap fun c => leBytes 2 (placeWord c)) s) s

/-! ## Code objects and tasks -/

/-- SIGNER (R268). -/
def execSigner (s : State) : Host.Outcome State Fault Refusal :=
  mbStart 0x0040 .part false (fun s _ => decide (arg s 0 ≤ 15)) tdiLocked
    (doneBy fun p s => updHost p (fun h =>
      { h with signers := tset 0 (arg s 0) (BitVec.ofNat 456 (leNat (bulkRead s 0 57))) h.signers }) s) s

/-- LOAD (R270, R271): the load number counts every request; its invalidations complete as R192 states. -/
def execLoad (s : State) : Host.Outcome State Fault Refusal :=
  mbStart 0x0041 .part false (fun _ _ => true) neverLocked
    (fun p s =>
      let n := (partAt s p).host.attest.loads
      let s := updHost p (fun h => { h with attest := { h.attest with loads := n + 1 } }) s
      match loadObject p (arg s 0) n.toNat s with
      | (0, s) => ((0, [(0, n)]), updMb (fun m => { m with wait := some (now s, 0, 2 ^ 57) }) s)
      | (k, s) => ((5, [(0, BitVec.ofNat 64 k)]), s)) s

/-- CANCEL (R258). -/
def execCancel (s : State) : Host.Outcome State Fault Refusal :=
  mbStart 0x0042 .part false (fun _ _ => true) neverLocked
    (fun p s =>
      match taskOfId s p (arg s 0) with
      | none => ((1, []), s)
      | some (t, x) => ((0, []), cancelTask p t x s)) s

/-! ## Warm reset (R273, R274) -/

/-- Every core of a partition with its contexts starts again (R80, R254, R273). -/
def resetCores (p : Nat) (s : State) : State :=
  ((partDies s.dev p).flatMap fun die => (List.range 64).map fun c => 64 * die + c).foldl (fun s core =>
    setCore core Core.reset ([0, 1, 2, 3, 4].foldl (fun s sl => setCtx (ctxId core sl) Ctx.reset s) s)) s

/-- The memory side after a warm reset: compressed frames, errors, thresholds and the peer copy's region stay
(R273; DESIGN CHOICE where the spec is silent, log 36). -/
def MemSys.warm (m : MemSys) (ctrls : List Nat) : MemSys :=
  { MemSys.reset with
    frames := m.frames, dramErr := m.dramErr, cethr := m.cethr, ceCount := m.ceCount, peerBase := m.peerBase
    peerSize := m.peerSize, retrain := ctrls }

/-- The host side after a warm reset: PBASE, the pairs, the signers and the MSI-X and trace settings stay
(R247, R273; DESIGN CHOICE where the spec is silent, log 36). -/
def HostSide.warm (h : HostSide) : HostSide :=
  { h with
    attest := Attest.reset, segs := [], bells := [], tdi := .unlocked, leftUnlocked := false }

/-- The phasers of a partition start again, without owner (R217). -/
def resetPhasers (p : Nat) (s : State) : State :=
  updDev (fun d => { d with phasers := d.phasers.filter fun e => e.2.owner != some p }) s

/-- The DRAM of a partition whose TDI had left CONFIG_UNLOCKED is scrubbed to zero (R273), and what its compressed frames
held with it. -/
def scrubDram (p : Nat) (s : State) : State :=
  if (partAt s p).host.leftUnlocked then
    let rest (m : List Host.Cell) : List Host.Cell := m.filter fun c => c.1 / 2 ^ 57 != p
    updMem p (fun m => { m with frames := [] })
      { s with mem := rest s.mem, memBefore := s.memBefore.map rest }
  else s

/-- The session keys of a partition's pairs are destroyed, on either side of this device (R234, R273). -/
def dropKeys (p : Nat) (s : State) : State :=
  (List.range 4).foldl (fun s q => updHost q (fun h => { h with
    keys := h.keys.filter fun k => q != p && !(k.1 == ownFa s.dev && k.2.1 == p) }) s) s

/-- A partition's warm reset: its tasks end without a word or a message. -/
def warmPart (s : State) (p : Nat) : State :=
  let s := dropKeys p (scrubDram p (resetPhasers p (resetCores p s)))
  updPart p (fun x =>
    { launch := Launch.reset, memory := x.memory.warm (usableCtrls s.dev p), host := x.host.warm }) s

/-- Every fabric link retrains (R274): a port with lanes left comes up again with nothing in its buffers. -/
def retrainLinks (s : State) : State :=
  (List.range 95).foldl (fun s i =>
    let x := portOf s i
    setPort i { Port.reset i with
      lanes := x.lanes, up := x.lanes != 0, retraining := x.lanes != 0, delivered := x.delivered } s) s

/-- The partitions a command's TGT names. -/
def targetParts (s : State) (p : Nat) : List Nat := if p = 0xFF then List.range s.dev.parts else [p]

/-- WRESET (R272 to R274): the firmware image is loaded and verified again. -/
def execWreset (s : State) : Host.Outcome State Fault Refusal :=
  mbStart 0x0043 .either true (fun _ _ => true) neverLocked
    (doneBy fun p s =>
      let s := (targetParts s p).foldl warmPart s
      let s := if p = 0xFF then
          retrainLinks (updDev (fun d => { d with phasers := [] }) s)
        else s
      updDev loadFirmware s) s

/-! ## The non-volatile store and retirement -/

/-- BADADD (R198). -/
def execBadadd (s : State) : Host.Outcome State Fault Refusal :=
  mbStart 0x0050 .device false (fun s _ => arg s 0 % 65536 == 0) neverLocked
    (fun _ s =>
      if 8192 ≤ s.dev.badPages.length then ((1, []), s)
      else ((0, []), updDev (fun d => { d with badPages := d.badPages ++ [arg s 0] }) s)) s

/-- BADREAD (R198). -/
def execBadread (s : State) : Host.Outcome State Fault Refusal :=
  mbStart 0x0051 .device false (fun _ _ => true) neverLocked
    (fun _ s =>
      ((0, [(0, BitVec.ofNat 64 s.dev.badPages.length)]),
        bulkWrite 0 (((s.dev.badPages.drop (arg s 0)).take 7680).flatMap (leBytes 8)) s)) s

/-- The partition whose cores or memory a unit of RETIRE belongs to. -/
def retireDie (kind n : Nat) : Nat := if kind = 1 then n / 16 else if kind = 2 then n / 512 else n / 32

/-- A task is bound on a unit (R18): on a core of the quad; on memory, any task of its partition (DESIGN CHOICE, log 37). -/
def boundOn (s : State) (kind n : Nat) : Bool :=
  if kind = 1 then
    [4 * n, 4 * n + 1, 4 * n + 2, 4 * n + 3].any fun core => [0, 1, 2, 3].any fun sl =>
      (ctxOf s (ctxId core sl)).task.isSome
  else anyBound s (partOfDie s.dev (retireDie kind n))

/-- A pseudo-channel of a controller no longer counts. -/
def chanOff (k i : Nat) (d : Dev) : Dev := { d with chansOff := tmod 0 k (fun x => setBit x i true) d.chansOff }

/-- RETIRE (R18): a pseudo-channel is numbered 16 × controller + its place (DESIGN CHOICE, log 37). -/
def execRetire (s : State) : Host.Outcome State Fault Refusal :=
  mbStart 0x0052 .device false
    (fun s _ =>
      let n := arg s 1
      (arg s 0 == 1 && n < 64) || (arg s 0 == 2 && n < 2048) || (arg s 0 == 3 && n < 128)) neverLocked
    (fun _ s =>
      let n := arg s 1
      if boundOn s (arg s 0) n then ((1, []), s)
      else ((0, []), updDev (fun d => match arg s 0 with
        | 1 => { d with quads := setBit d.quads n false }
        | 2 => chanOff (n / 16) (n % 16) d
        | _ => (List.range 16).foldl (fun d i => chanOff n i d) d) s)) s

/-- COUNTERS (R179): eight words for each of 256 logical cores, then one for each controller (DESIGN CHOICE, log 38). -/
def execCounters (s : State) : Host.Outcome State Fault Refusal :=
  mbStart 0x0060 .part false (fun _ _ => true) neverLocked
    (doneBy fun p s => bulkWrite 0
      ((List.range (8 * 256 + 128)).flatMap fun i => wordBytes 8 (tget 0 i (partAt s p).memory.counters)) s) s

/-- PORTS (R228): peer address in bytes 0–7, lanes in 8–11, up in 12–15 (DESIGN CHOICE, log 38). -/
def execPorts (s : State) : Host.Outcome State Fault Refusal :=
  mbStart 0x0061 .device false (fun _ _ => true) neverLocked
    (doneBy fun _ s => bulkWrite 0
      ((List.range 95).flatMap fun i =>
        leBytes 8 (portPeer s.dev i) ++ leBytes 4 (portOf s i).lanes ++ leBytes 4 (if (portOf s i).up then 1 else 0)) s) s

/-- TRACE (R305). -/
def execTrace (s : State) : Host.Outcome State Fault Refusal :=
  mbStart 0x0062 .part false (fun s _ => arg s 0 % 4096 == 0 && arg s 2 ≤ 1) tdiLocked
    (doneBy fun p s => updHost p (fun h =>
      { h with traceBase := arg s 0, traceSize := arg s 1, traceOn := arg s 2 == 1 }) s) s

/-- FWPROV (R20, R272): a new image starts at the next reset (DEDUCED, log 39). -/
def execFwprov (s : State) : Host.Outcome State Fault Refusal :=
  mbStart 0x0070 .device true
    (fun s _ => arg s 1 ≤ 61440 && arg s 0 + arg s 1 ≤ 2 ^ 26 && arg s 2 ≤ 1) neverLocked
    (fun _ s =>
      let chunk := bulkRead s 0 (arg s 1)
      let s := updDev (fun d => { d with nvImage := tsetAll 0 (arg s 0) chunk d.nvImage }) s
      if arg s 2 = 1 then
        let s := updDev (fun d => { d with nvLen := arg s 0 + arg s 1 }) s
        ((if storeVerifies s.dev then 0 else 2, []), s)
      else ((0, []), s)) s

/-! ## The start and the end of a command -/

/-- The commands of R247 by OPC. -/
def knownOpcs : List Nat :=
  [1, 2, 3, 4, 0x10, 0x11, 0x12, 0x13, 0x14, 0x20, 0x21, 0x22, 0x23, 0x24, 0x30, 0x31, 0x40, 0x41, 0x42, 0x43, 0x50,
    0x51, 0x52, 0x60, 0x61, 0x62, 0x70]

/-- UNKNOWN_OPC (R246). -/
def execUnknownOpc (s : State) : Host.Outcome State Fault Refusal :=
  if mbBusy s || knownOpcs.contains (bits s.dev.mb.cmd 15 0) then .next s
  else .next (mbBegin (if s.dev.fwUp then 4 else 6, []) s)

/-- A write of MBGO (R246). -/
def mbGo (s : State) : Host.Outcome State Fault Refusal :=
  match bits s.dev.mb.cmd 15 0 with
  | 0x01 => execPartset s
  | 0x02 => execFabaddr s
  | 0x03 => execPbase s
  | 0x04 => execPair s
  | 0x10 => execXroot s
  | 0x11 => execXinval s
  | 0x12 => execExpool s
  | 0x13 => execCompress s
  | 0x14 => execPeercopy s
  | 0x20 => execErrlog s
  | 0x21 => execFaq s
  | 0x22 => execMigq s
  | 0x23 => execCethr s
  | 0x24 => execPhallot s
  | 0x30 => execLatchl s
  | 0x31 => execPhysmap s
  | 0x40 => execSigner s
  | 0x41 => execLoad s
  | 0x42 => execCancel s
  | 0x43 => execWreset s
  | 0x50 => execBadadd s
  | 0x51 => execBadread s
  | 0x52 => execRetire s
  | 0x60 => execCounters s
  | 0x61 => execPorts s
  | 0x62 => execTrace s
  | 0x70 => execFwprov s
  | _ => execUnknownOpc s

/-- An aligned 8-byte write to the mailbox (R245); any other offset ignores it. -/
def mbWrite (off : Nat) (v : W64) (s : State) : Host.Outcome State Fault Refusal :=
  if off = 0 then .next (updMb (fun m => { m with cmd := v }) s)
  else if off = 8 then mbGo s
  else if off = 0x18 then .next (updMb (fun m => { m with cfg := v &&& 0x80000000000007FF#64 }) s)
  else if 0x100 ≤ off ∧ off < 0x200 ∧ off % 8 = 0 then
    .next (updMb (fun m => { m with args := tset 0 ((off - 0x100) / 8) v m.args }) s)
  else if 0x1000 ≤ off ∧ off < 0x10000 ∧ off % 8 = 0 then .next (bulkWrite (off - 0x1000) (leBytes 8 v.toNat) s)
  else .next s

/-- The word an aligned 8-byte read of the mailbox gives (R245): all ones where there is no register. The zero field of
MBCMD reads 0 (R4); written otherwise, its command is a bad argument (R246, log 34). -/
def mbWord (s : State) (off : Nat) : W64 :=
  let m := s.dev.mb
  if off = 0 then m.cmd &&& 0xFFFFFFFF00FFFFFF#64
  else if off = 8 then 0
  else if off = 0x10 then m.stat
  else if off = 0x18 then m.cfg
  else if 0x100 ≤ off ∧ off < 0x200 then tget 0 ((off - 0x100) / 8) m.args
  else if 0x200 ≤ off ∧ off < 0x300 then tget 0 ((off - 0x200) / 8) m.rsp
  else if 0x1000 ≤ off ∧ off < 0x10000 then BitVec.ofNat 64 (leNat (bulkRead s (off - 0x1000) 8))
  else BitVec.allOnes 64

/-- A read of the mailbox (R245): any but an aligned one of 8 bytes reads as all ones. -/
def mbRead (off len : Nat) (s : State) : State :=
  send (.barData 0 (if len = 8 ∧ off % 8 = 0 then wordBytes 8 (mbWord s off) else List.replicate len 0xFF)) s

/-- A packet translated before a cycle through a page of a range has not performed (R192). -/
def stillUses (s : State) (core cycle lo hi : Nat) : Bool :=
  let k := coreOf s core
  (k.pkts.any fun x => x.stage == .issued && decide (x.issued ≤ cycle) && decide (x.va < hi) && decide (lo < x.va + 256)) ||
    k.cq.any fun c => c.held.any (·.meets lo hi)

/-- The effects of the command in progress are complete (R192, R274). -/
def commandDone (s : State) : Bool :=
  let m := s.dev.mb
  let p := bits m.run 23 16
  (m.wait.all fun w => !((partCores s.dev p).any fun core => stillUses s core w.1 w.2.1 w.2.2)) &&
    (bits m.run 15 0 != 0x43 || (targetParts s p).all fun q => (partAt s q).memory.retrain.isEmpty)

/-- MAILBOX_COMMAND_COMPLETE (R246): the response words, SEQ and RESULT, BUSY, and the message. -/
def execMailboxCommandComplete (s : State) : Host.Outcome State Fault Refusal :=
  match s.dev.mb.pending with
  | none => .next s
  | some (result, words) =>
    if commandDone s then
      let m := s.dev.mb
      let s := updMb (fun m =>
        { m with
          rsp := words.foldl (fun r w => tset 0 w.1 w.2 r) m.rsp
          stat := BitVec.ofNat 64 (bits m.run 63 32 * 2 ^ 16 + result), pending := none, wait := none }) s
      .next (if m.cfg.getLsbD 63 then msix 0 (bits m.cfg 10 0) s else s)
    else .next s

/-! ## Cold reset -/

/-- The ports after a cold reset: their lanes are the hardware's. -/
def coldPorts (ports : Sparse Port) : Sparse Port :=
  ports.foldl (fun m e => tset (Port.reset e.1) e.1 { Port.reset e.1 with lanes := e.2.lanes, up := e.2.lanes != 0 } m) []

/-- COLD_RESET (R198, R200, R272): everything starts again, but for the hardware's form and repairs and the
non-volatile store; the image is verified. The inputs to come and the model's own counts stand. -/
def execColdReset (s : State) : Host.Outcome State Fault Refusal :=
  .next { State.reset with
    dev := loadFirmware { Dev.reset with
      form := s.dev.form, quads := s.dev.quads, chansOff := s.dev.chansOff, ports := coldPorts s.dev.ports
      nvImage := s.dev.nvImage, nvLen := s.dev.nvLen, badPages := s.dev.badPages
      out := s.dev.out }
    inbox := s.inbox, ids := s.ids, free := s.free }

end Sys2Proof.Machine
end

