-- ==== Sys2Proof/Machine/Scalar.lean ====
section
/-! DEFINITION. The scalar integer instructions of the S slot (R275, R276, R280, R282, R286, R287, R298,
R304, R313, R321, R322, R335). -/

namespace Sys2Proof.Machine

/-- The source register A of an S syllable. -/
def srcA (f : SSyl) (c : Ctx) : W64 := sget c f.a.toNat
/-- The source register B of an S syllable. -/
def srcB (f : SSyl) (c : Ctx) : W64 := sget c f.b.toNat
/-- The immediate, sign-extended (R123). -/
def immS (f : SSyl) : W64 := f.imm.signExtend 64
/-- A source of the syllable is poisoned: A, and B when `two` (R224). -/
def srcPois (f : SSyl) (two : Bool) (c : Ctx) : Bool :=
  spois c f.a.toNat || (two && spois c f.b.toNat)

/-- An S instruction with one scalar result, no flag and no trap of its own (R275). -/
def scalarOp (e : Enc) (f : SSyl) (pois : Ctx → Bool) (val : Ctx → W64) (lat : Nat) (s : State) :
    Host.Outcome State Fault Refusal :=
  scalarStep e f (fun _ => []) (fun _ => [])
    (fun s => launchS f.d.toNat (val (cur s)) (pois (cur s)) lat s) s

/-- The two-source mould of R276. -/
def scalarBin (e : Enc) (f : SSyl) (op : W64 → W64 → W64) (lat : Nat) (s : State) :
    Host.Outcome State Fault Refusal :=
  scalarOp e f (srcPois f true) (fun c => op (srcA f c) (srcB f c)) lat s

/-- The one-source mould of R276. -/
def scalarUn (e : Enc) (f : SSyl) (op : W64 → W64) (s : State) : Host.Outcome State Fault Refusal :=
  scalarOp e f (srcPois f false) (fun c => op (srcA f c)) 1 s

/-- The shifts of R276: n = (s[B] + sext(IMM)) mod 64. -/
def scalarShift (e : Enc) (f : SSyl) (op : W64 → Nat → W64) (s : State) :
    Host.Outcome State Fault Refusal :=
  scalarOp e f (srcPois f true) (fun c => op (srcA f c) ((srcB f c + immS f).toNat % 64)) 1 s

/-- The number of leading zero bits below bit `n` (R276). -/
def clzFrom {w : Nat} (x : BitVec w) : Nat → Nat
  | 0 => 0
  | n + 1 => if x.getLsbD n then 0 else 1 + clzFrom x n

/-- The number of one bits below bit `n` (R276). -/
def popcFrom {w : Nat} (x : BitVec w) : Nat → Nat
  | 0 => 0
  | n + 1 => (if x.getLsbD n then 1 else 0) + popcFrom x n

/-- ADD (R276). -/
def execAdd (f : SSyl) (s : State) := scalarBin (enc (.add f)) f (· + ·) 1 s
/-- ADDI (R276). -/
def execAddi (f : SSyl) (s : State) := scalarUn (enc (.addi f)) f (· + immS f) s
/-- SUB (R276). -/
def execSub (f : SSyl) (s : State) := scalarBin (enc (.sub f)) f (· - ·) 1 s
/-- AND (R276). -/
def execAnd (f : SSyl) (s : State) := scalarBin (enc (.and f)) f (· &&& ·) 1 s
/-- OR (R276). -/
def execOr (f : SSyl) (s : State) := scalarBin (enc (.or f)) f (· ||| ·) 1 s
/-- XOR (R276). -/
def execXor (f : SSyl) (s : State) := scalarBin (enc (.xor f)) f (· ^^^ ·) 1 s
/-- ANDN (R276). -/
def execAndn (f : SSyl) (s : State) := scalarBin (enc (.andn f)) f (fun a b => a &&& ~~~b) 1 s
/-- SHL (R276). -/
def execShl (f : SSyl) (s : State) := scalarShift (enc (.shl f)) f (fun a n => a <<< n) s
/-- SHR (R276). -/
def execShr (f : SSyl) (s : State) := scalarShift (enc (.shr f)) f (fun a n => a >>> n) s
/-- SAR (R276). -/
def execSar (f : SSyl) (s : State) := scalarShift (enc (.sar f)) f (fun a n => a.sshiftRight n) s
/-- ROTR (R276). -/
def execRotr (f : SSyl) (s : State) := scalarShift (enc (.rotr f)) f (fun a n => a.rotateRight n) s
/-- MINI (R276). -/
def execMini (f : SSyl) (s : State) := scalarBin (enc (.mini f)) f (fun a b => if a.slt b then a else b) 1 s
/-- MAXI (R276). -/
def execMaxi (f : SSyl) (s : State) := scalarBin (enc (.maxi f)) f (fun a b => if a.slt b then b else a) 1 s
/-- MINZ (R276). -/
def execMinz (f : SSyl) (s : State) := scalarBin (enc (.minz f)) f (fun a b => if a.ult b then a else b) 1 s
/-- MAXZ (R276). -/
def execMaxz (f : SSyl) (s : State) := scalarBin (enc (.maxz f)) f (fun a b => if a.ult b then b else a) 1 s
/-- CLZ (R276). -/
def execClz (f : SSyl) (s : State) := scalarUn (enc (.clz f)) f (fun a => BitVec.ofNat 64 (clzFrom a 64)) s
/-- POPC (R276). -/
def execPopc (f : SSyl) (s : State) := scalarUn (enc (.popc f)) f (fun a => BitVec.ofNat 64 (popcFrom a 64)) s

/-- MUL (R322). -/
def execMul (f : SSyl) (s : State) := scalarBin (enc (.mul f)) f (· * ·) 3 s
/-- MULH: bits 127:64 of the signed product (R322). -/
def execMulh (f : SSyl) (s : State) :=
  scalarBin (enc (.mulh f)) f (fun a b => BitVec.ofInt 64 (a.toInt * b.toInt / 2 ^ 64)) 3 s
/-- MULHZ: bits 127:64 of the unsigned product (R322). -/
def execMulhz (f : SSyl) (s : State) :=
  scalarBin (enc (.mulhz f)) f (fun a b => BitVec.ofNat 64 (a.toNat * b.toNat / 2 ^ 64)) 3 s

/-- Signed division, truncated toward zero; by zero, quotient -1 and remainder 0 (R298). -/
def divSigned (rem : Bool) (a b : W64) : W64 :=
  if b = 0 then (if rem then 0 else BitVec.allOnes 64)
  else BitVec.ofInt 64 (if rem then a.toInt.tmod b.toInt else a.toInt.tdiv b.toInt)
/-- Unsigned division; by zero, quotient and remainder 2^64 - 1 (R298). -/
def divUnsigned (rem : Bool) (a b : W64) : W64 :=
  if b = 0 then BitVec.allOnes 64
  else BitVec.ofNat 64 (if rem then a.toNat % b.toNat else a.toNat / b.toNat)
/-- DIV (R298). -/
def execDiv (f : SSyl) (s : State) := scalarBin (enc (.div f)) f (divSigned (f.imm.getLsbD 0)) 12 s
/-- DIVZ (R298). -/
def execDivz (f : SSyl) (s : State) := scalarBin (enc (.divz f)) f (divUnsigned (f.imm.getLsbD 0)) 12 s

/-- RS of the bit-field forms (R282). -/
def bfReg (f : SSyl) : Bool := f.imm.getLsbD 15
/-- Offset and width of a bit-field form (R282). -/
def bfField (f : SSyl) (c : Ctx) : Nat × Nat :=
  if bfReg f then (bits (srcB f c) 6 0, bits (srcB f c) 14 8) else (bits f.imm 6 0, bits f.imm 14 8)
/-- The field BFX and BFXZ extract (R282). -/
def bfExtract (signed : Bool) (a : W64) (off wid : Nat) : W64 :=
  if off ≥ 64 || wid == 0 then 0
  else
    let w := min wid (64 - off)
    let x := a.toNat / 2 ^ off % 2 ^ w
    if signed && a.getLsbD (off + w - 1) then BitVec.ofNat 64 (x + 2 ^ 64 - 2 ^ w) else BitVec.ofNat 64 x
/-- The word BFI inserts a field into (R282). -/
def bfInsert (d a : W64) (off wid : Nat) : W64 :=
  let w := min wid (64 - off)
  let m := BitVec.ofNat 64 ((2 ^ w - 1) * 2 ^ off)
  (d &&& ~~~m) ||| ((a <<< off) &&& m)
/-- BFX (R282). -/
def execBfx (f : SSyl) (s : State) :=
  scalarOp (enc (.bfx f)) f (srcPois f (bfReg f))
    (fun c => bfExtract true (srcA f c) (bfField f c).1 (bfField f c).2) 1 s
/-- BFXZ (R282). -/
def execBfxz (f : SSyl) (s : State) :=
  scalarOp (enc (.bfxz f)) f (srcPois f (bfReg f))
    (fun c => bfExtract false (srcA f c) (bfField f c).1 (bfField f c).2) 1 s
/-- BFI (R282): s[D] is a source as it stands at issue; a field outside the word makes no write. -/
def execBfi (f : SSyl) (s : State) :=
  scalarStep (enc (.bfi f)) f (fun _ => []) (fun _ => [])
    (fun s =>
      let c := cur s
      let (off, wid) := bfField f c
      if off ≥ 64 || wid == 0 then s
      else launchS f.d.toNat (bfInsert (sget c f.d.toNat) (srcA f c) off wid)
        (srcPois f (bfReg f) c || spois c f.d.toNat) 1 s) s

/-- SEL (R335): a commit select, poisoned by its condition or the operand it delivers. -/
def execSel (f : SSyl) (s : State) :=
  let n := bits f.imm 5 0
  scalarOp (enc (.sel f)) f
    (fun c => spois c n || (if sget c n != 0 then spois c f.a.toNat else spois c f.b.toNat))
    (fun c => if sget c n != 0 then srcA f c else srcB f c) 1 s
/-- LI (R313). -/
def execLi (f : SSyl) (s : State) := scalarOp (enc (.li f)) f (fun _ => false) (fun _ => immS f) 1 s
/-- LIH (R313). -/
def execLih (f : SSyl) (s : State) :=
  scalarUn (enc (.lih f)) f (fun a => f.imm ++ a.extractLsb' 0 32) s
/-- MOV (R321). -/
def execMov (f : SSyl) (s : State) := scalarUn (enc (.mov f)) f id s
/-- MOV of a tile landing register (R321). -/
def execMovTl (f : SSyl) (s : State) :=
  scalarOp (enc (.movTl f)) f (fun _ => false) (fun c => tget 0 (bits f.imm 1 0) c.regs.tl) 1 s

/-- The conditions of R287. -/
def cmpHolds (cc : Nat) (a b : W64) : Bool :=
  match cc with
  | 0 => a == b
  | 1 => a != b
  | 2 => a.slt b
  | 3 => a.sle b
  | 4 => b.slt a
  | 5 => b.sle a
  | 6 => a.ult b
  | 7 => a.ule b
  | 8 => b.ult a
  | 9 => b.ule a
  | _ => a &&& b != 0
/-- The word of a truth value. -/
def boolWord (b : Bool) : W64 := if b then 1 else 0
/-- CMP (R287). -/
def execCmp (f : SSyl) (s : State) :=
  scalarBin (enc (.cmp f)) f (fun a b => boolWord (cmpHolds (bits f.imm 3 0) a b)) 1 s
/-- CMPI (R287): compares with sext(IMM[31:4]). -/
def execCmpi (f : SSyl) (s : State) :=
  scalarUn (enc (.cmpi f)) f
    (fun a => boolWord (cmpHolds (bits f.imm 3 0) a ((f.imm.extractLsb' 4 28).signExtend 64))) s
/-- GSET (R304): the guard is unresolved until the write lands; a write to g0 is discarded. -/
def execGset (f : SSyl) (s : State) :=
  scalarStep (enc (.gset f)) f (fun _ => []) (fun s => chk (spois (cur s) f.a.toNat) 0x06)
    (fun s =>
      let b := (srcA f (cur s) != 0) != f.imm.getLsbD 0
      if f.d = 0 then s
      else updCur (launch .guard f.d.toNat (if b then 1 else 0) false 0 0 none 1) s) s
/-- ADDR (R280). -/
def execAddr (f : SSyl) (s : State) :=
  scalarBin (enc (.addr f)) f
    (fun a b => a + (b <<< bits f.imm 5 0) + (f.imm.extractLsb' 8 24).signExtend 64) 1 s
/-- CCNR (R286): the CCN of the cycle of issue. -/
def execCcnr (f : SSyl) (s : State) :=
  scalarStep (enc (.ccnr f)) f (fun _ => []) (fun _ => []) (fun s => launchS f.d.toNat (ccnWord s) false 1 s) s

end Sys2Proof.Machine
end

