-- ==== Sys2Proof/Machine/ScalarFloat.lean ====
section
/-! DEFINITION. The scalar floating instructions (R299 to R302). -/

namespace Sys2Proof.Machine

/-- The scalar formats (R299, R302): 0 f32, 1 f16, 2 bf16, 3 i32, 4 i64, 5 z32, 6 z64. -/
def scalarFmt : Nat → Fmt
  | 0 => .flt f32
  | 1 => .flt f16
  | 2 => .flt bf16
  | 3 => .int true 32
  | 4 => .int true 64
  | 5 => .int false 32
  | _ => .int false 64

/-- The rounding of the scalar unit (R96, R299). -/
def scalarRnd (c : Ctx) : Rnd := ⟨engineMode c.ctl.rmode.toNat, false, 0, c.ctl.flush⟩
/-- The sign of an exact zero sum (R300). -/
def scalarRdn (c : Ctx) : Bool := engineMode c.ctl.rmode.toNat == 3

/-- A scalar floating instruction (R299): one result with flags, visible at t+n+4. -/
def floatStep (e : Enc) (f : SSyl) (pois : Ctx → Bool) (res : Ctx → Nat × FlagSet) (s : State) :
    Host.Outcome State Fault Refusal :=
  scalarStep e f (fun _ => []) (fun _ => [])
    (fun s =>
      let r := res (cur s)
      launchSF f.d.toNat (BitVec.ofNat 64 r.1) (pois (cur s)) r.2 4 s) s

/-- The value of a scalar register in a format. -/
def scalarVal (k n : Nat) (c : Ctx) : Val := decodeVal (scalarFmt k) (sget c n).toNat

/-- FADD (R300). -/
def execFadd (f : SSyl) (s : State) :=
  floatStep (enc (.fadd f)) f (srcPois f true)
    (fun c =>
      let k := bits f.imm 1 0
      roundVal (scalarFmt k) (scalarRnd c)
        (addVal (scalarRdn c) (scalarVal k f.a.toNat c) (scalarVal k f.b.toNat c))) s

/-- FMUL (R300). -/
def execFmul (f : SSyl) (s : State) :=
  floatStep (enc (.fmul f)) f (srcPois f true)
    (fun c =>
      let k := bits f.imm 1 0
      roundVal (scalarFmt k) (scalarRnd c) (mulVal (scalarVal k f.a.toNat c) (scalarVal k f.b.toNat c))) s

/-- FFMA (R300): d is s[D] as it stands at issue. -/
def execFfma (f : SSyl) (s : State) :=
  floatStep (enc (.ffma f)) f (fun c => srcPois f true c || spois c f.d.toNat)
    (fun c =>
      let k := bits f.imm 1 0
      roundVal (scalarFmt k) (scalarRnd c)
        (fmaVal (scalarRdn c) (scalarVal k f.a.toNat c) (scalarVal k f.b.toNat c)
          (scalarVal k f.d.toNat c))) s

/-- FCMP (R301). -/
def execFcmp (f : SSyl) (s : State) :=
  floatStep (enc (.fcmp f)) f (srcPois f true)
    (fun c =>
      let k := bits f.imm 1 0
      let a := scalarVal k f.a.toNat c
      let b := scalarVal k f.b.toNat c
      ((condHolds (bits f.imm 5 2) a b).toNat, flagIf (a.isSig || b.isSig) flagInv)) s

/-- A result of FCVT in s[D]: an i32 is sign-extended (R302). -/
def scalarResult (k x : Nat) : Nat := if k = 3 then ((BitVec.ofNat 32 x).signExtend 64).toNat else x

/-- FCVT (R302). -/
def execFcvt (f : SSyl) (s : State) :=
  floatStep (enc (.fcvt f)) f (srcPois f false)
    (fun c =>
      let src := bits f.imm 3 0
      let dst := bits f.imm 7 4
      let r := roundVal (scalarFmt dst) (scalarRnd c) (scalarVal src f.a.toNat c)
      (scalarResult dst r.1, r.2)) s

end Sys2Proof.Machine
end

