-- ==== Sys2Proof/Machine/Special.lean ====
section
/-! DEFINITION. The special functions (R365): the exact value, as a number with a mark for what lies below
its last bit. Roots and reciprocals are exact; powers and logarithms are computed to 256 fraction bits, far
below every rounding of R98 and every draw of R102 in the three formats (log 10). -/

namespace Sys2Proof.Machine

/-- The integer square root below 2^n, from the top bit down. -/
def isqrtFrom (x : Nat) : Nat → Nat → Nat
  | 0, r => r
  | n + 1, r =>
    let t := r + 2 ^ n
    isqrtFrom x n (if t * t ≤ x then t else r)

/-- The integer square root. -/
def isqrt (x : Nat) : Nat := isqrtFrom x (Nat.log2 x / 2 + 1) 0

/-- floor(ln 2 * 2^256). -/
def ln2Fix : Nat := 0xb17217f7d1cf79abc9e3b39803f2f6af40f343267298b62d8a0d175b8baafa2b

/-- The power series of e^x at fixed point: `t` the current term, `k` its number. -/
def expSeries (x : Nat) : Nat → Nat → Nat → Nat
  | 0, _, _ => 0
  | n + 1, k, t => t + expSeries x n (k + 1) (t * x / 2 ^ 256 / (k + 1))

/-- 2^f for a fraction f of 256 bits, in [1, 2), to 256 fraction bits. -/
def exp2Frac (f : Nat) : Nat := expSeries (f * ln2Fix / 2 ^ 256) 70 0 (2 ^ 256)

/-- The odd power series of artanh: `t` the current power, `k` its exponent. -/
def artanhSeries (z2 : Nat) : Nat → Nat → Nat → Nat
  | 0, _, _ => 0
  | n + 1, k, t => t / k + artanhSeries z2 n (k + 2) (t * z2 / 2 ^ 256)

/-- log2 of t = m / 2^j in [1, 2), to 256 fraction bits. -/
def log2Frac (m j : Nat) : Nat :=
  let z := (m - 2 ^ j) * 2 ^ 256 / (m + 2 ^ j)
  2 * artanhSeries (z * z / 2 ^ 256) 90 1 z * 2 ^ 256 / ln2Fix

/-- 2^x (R365). -/
def exp2Val (v : Val) : Val :=
  match v with
  | .nan n s => .nan n s
  | .inf n => if n then .zero false else .inf false
  | .num neg man exp _ =>
    if man = 0 then .num false 1 0 false
    else if (Nat.log2 man : Int) + exp ≥ 20 then .num false 1 (if neg then -(2 : Int) ^ 20 else 2 ^ 20) true
    else
      let whole : Int := Val.scaled (min exp 0) v / (2 : Int) ^ (0 - min exp 0).toNat
      let rest := (Val.scaled (min exp 0) v % (2 : Int) ^ (0 - min exp 0).toNat).toNat
      if rest = 0 then .num false 1 whole false
      else .num false (exp2Frac (rest * 2 ^ 256 / 2 ^ (0 - min exp 0).toNat)) (whole - 256) true

/-- log2 x (R365). -/
def log2Val (v : Val) : Val :=
  match v with
  | .nan n s => .nan n s
  | .inf n => if n then .nan false true else .inf false
  | .num neg man exp _ =>
    if man = 0 then .inf true
    else if neg then .nan false true
    else
      let j := Nat.log2 man
      let n : Int := (j : Int) + exp
      if man = 2 ^ j then Val.ofInt n
      else
        let t : Int := n * 2 ^ 256 + log2Frac man j
        if t < 0 then .num true (t.natAbs - 1) (-256) true else .num false t.toNat (-256) true

/-- 1 / x (R365). -/
def rcpVal (v : Val) : Val :=
  match v with
  | .nan n s => .nan n s
  | .inf n => .zero n
  | .num neg man exp _ =>
    if man = 0 then .inf neg
    else
      let k := Nat.log2 man + 120
      .num neg (2 ^ k / man) (-(k : Int) - exp) (2 ^ k % man != 0)

/-- The square root of a positive number, with `k` extra bits. -/
def sqrtNum (man : Nat) (exp : Int) : Val :=
  let (man, exp) := if exp % 2 = 0 then (man, exp) else (2 * man, exp - 1)
  let x := man * 2 ^ 200
  let r := isqrt x
  .num false r (exp / 2 - 100) (r * r != x)

/-- The square root (R365). -/
def sqrtVal (v : Val) : Val :=
  match v with
  | .nan n s => .nan n s
  | .inf n => if n then .nan false true else .inf false
  | .num neg man exp _ =>
    if man = 0 then .zero neg else if neg then .nan false true else sqrtNum man exp

/-- The reciprocal of the square root (R365). -/
def rsqVal (v : Val) : Val :=
  match v with
  | .nan n s => .nan n s
  | .inf n => if n then .nan false true else .zero false
  | .num neg man exp _ =>
    if man = 0 then .inf neg
    else if neg then .nan false true
    else
      let (man, exp) := if exp % 2 = 0 then (man, exp) else (2 * man, exp - 1)
      let k := Nat.log2 man + 120
      let r := isqrt (2 ^ (2 * k) / man)
      .num false r (-(k : Int) - exp / 2) (r * r * man != 2 ^ (2 * k))

end Sys2Proof.Machine
end

