-- ==== Sys2Proof/Machine/VecOps.lean ====
section
/-! DEFINITION. What every vector instruction shares (R346 to R348): active elements, kept elements,
landing, poison, and the draws of stochastic rounding. -/

namespace Sys2Proof.Machine

/-- What a vector instruction does to its destination registers, from D up. -/
structure VOut where
  rows : List Row
  pois : Bool
  flags : FlagSet
  subst : BitVec 16
  deriving DecidableEq, Repr

/-- The rows go in flight to registers D, D+1 and so on; the first carries the flags and the bypass. -/
def landRows (cl : Cluster) (d : Nat) (byp : Option Nat) (lat : Nat) (o : VOut) (c : Ctx) : Ctx :=
  match o.rows with
  | [] => c
  | r :: rs =>
    let c := launch (clFile cl) d r o.pois o.flags o.subst (byp.map (8 * clNum cl + ·)) lat c
    (rs.zipIdx 1).foldl (fun c x => launch (clFile cl) (d + x.2) x.1 o.pois 0 0 none lat c) c

/-- Some element is inactive. -/
def someInactive (n : Nat) (p : Pred) : Bool := (List.range n).any fun i => !govBit n p i

/-- The elements of a result (R346): computed where active, else kept or zero; with their flags. -/
def vElems (n : Nat) (p : Pred) (z : Bool) (old : Nat → Nat) (g : Nat → Nat × FlagSet) :
    List (Nat × FlagSet) :=
  (List.range n).map fun i => if govBit n p i then g i else (if z then 0 else old i, 0)

/-- A result of `n` elements in containers of `cw` bits over `k` registers from D (R105, R346), with the
poison of R224: `srcs` says that a source is poisoned. -/
def vResult (c : Ctx) (cl : Cluster) (f : VSyl) (k n cw : Nat) (srcs : Bool) (subst : BitVec 16)
    (g : Nat → Nat × FlagSet) : VOut :=
  let p := govPred c cl f.p.toNat
  let z := f.z == 1
  let d := f.d.toNat
  let es := vElems n p z (groupElem c cl d k cw) g
  { rows := (List.range k).map fun j => rowOf cw ((stride k j es).map (·.1))
    pois := srcs || govPois c cl f.p.toNat || (!z && someInactive n p && groupPois c cl d k)
    flags := flagsUnion (es.map (·.2))
    subst := if (List.range n).any (govBit n p) then subst else 0 }

/-- A vector syllable: no guard; it raises what its bits and `bad` raise, and otherwise acts. -/
def vecStep (cl : Cluster) (e : Enc) (raises : State → List Raise) (eff : Ctx → Ctx) (s : State) :
    Host.Outcome State Fault Refusal :=
  syllableStep cl.slot (encRaises e ++ raises s) (updCur eff) s

/-- A vector instruction with results in registers and no draw. -/
def vecOp (cl : Cluster) (e : Enc) (f : VSyl) (bad : Ctx → Bool) (byp : Option Nat) (lat : Nat)
    (out : Ctx → VOut) (s : State) : Host.Outcome State Fault Refusal :=
  vecStep cl e (fun s => chk (bad (cur s)) 0x01) (fun c => landRows cl f.d.toNat byp lat (out c) c) s

/-- The generator of a cluster (R100). -/
def genOf (c : Ctx) (cl : Cluster) : Row := tget 0 (clNum cl) c.regs.gen

/-- Advances a cluster's generator over the rows of `gs` (R101). -/
def setGen (cl : Cluster) (gs : List Row) (c : Ctx) : Ctx :=
  match gs.getLast? with
  | some g => { c with regs := { c.regs with gen := tset 0 (clNum cl) g c.regs.gen } }
  | none => c

/-- The steps a rounding instruction of `n` results takes: none unless its mode resolves to STO (R101). -/
def drawRows (c : Ctx) (cl : Cluster) (m : BitVec 4) (n : Nat) : List Row :=
  if modeOf c m = 5 then genSteps (ceilDiv n 128) (genOf c cl) else []

/-- The rounding of element `i` of a syllable. -/
def vRnd (c : Ctx) (m : BitVec 4) (gs : List Row) (i : Nat) : Rnd :=
  ⟨modeOf c m, satOf m, drawAt gs i, c.ctl.flush⟩

/-- A vector instruction that rounds `n` results when `floats` holds (R101, R348). -/
def vecRound (cl : Cluster) (e : Enc) (f : VSyl) (bad floats : Ctx → Bool) (count : Ctx → Nat)
    (byp : Option Nat) (lat : Nat) (out : Ctx → (Nat → Rnd) → VOut) (s : State) :
    Host.Outcome State Fault Refusal :=
  vecStep cl e (fun s => chk (bad (cur s)) 0x01)
    (fun c =>
      let gs := if floats c then drawRows c cl f.m (count c) else []
      landRows cl f.d.toNat byp lat (out c (vRnd c f.m gs)) (setGen cl gs c)) s

/-- Never. -/
def never (_ : Ctx) : Bool := false

/-- The result of an element-wise instruction on type T whose sources are A, and B and C when used. -/
def vSame (c : Ctx) (cl : Cluster) (f : VSyl) (nsrc : Nat) (g : Nat → Nat → Nat → Nat → Nat × FlagSet) : VOut :=
  let cw := (typeFmt f.t.toNat).container
  let a := srcRow c cl f.a.toNat
  let b := srcRow c cl f.b.toNat
  let d := srcRow c cl f.c.toNat
  vResult c cl f 1 (4096 / cw) cw
    (srcRowPois c cl f.a.toNat || (decide (nsrc ≥ 2) && srcRowPois c cl f.b.toNat) ||
      (decide (nsrc ≥ 3) && srcRowPois c cl f.c.toNat)) 0
    fun i => g i (elemAt cw a i) (elemAt cw b i) (elemAt cw d i)

end Sys2Proof.Machine
end

