-- ==== Sys2Proof/Machine/VecArith.lean ====
section
/-! DEFINITION. Vector arithmetic, minimum and maximum, bit operations, shifts and counts, rounding to
integral, compare and select, widening multiply, dot product, and the special functions (R349 to R356,
R365). -/

namespace Sys2Proof.Machine

/-- The element result of an arithmetic instruction: exact in integers, then wrapped or clamped; or exact
in values, then rounded once (R350). -/
def arithElem (t : Nat) (r : Rnd) (iop : Int → Int → Int → Int) (vop : Bool → Val → Val → Val → Val)
    (a b c : Nat) : Nat × FlagSet :=
  let fm := typeFmt t
  let d := decodeVal fm
  if fm.isInt then (fitInt fm r.sat (iop (d a).toInt (d b).toInt (d c).toInt), 0)
  else roundVal fm r (vop (r.mode == 3) (d a) (d b) (d c))

/-- VADD, VSUB, VMUL and VMAD (R349, R350). -/
def vArith (cl : Cluster) (e : Enc) (f : VSyl) (nsrc byp lat : Nat) (iop : Int → Int → Int → Int)
    (vop : Bool → Val → Val → Val → Val) (s : State) : Host.Outcome State Fault Refusal :=
  vecRound cl e f never (fun _ => decide (8 ≤ f.t.toNat))
    (fun _ => 4096 / (typeFmt f.t.toNat).container) (some byp) lat
    (fun c r => vSame c cl f nsrc fun i a b d => arithElem f.t.toNat (r i) iop vop a b d) s

/-- The first NaN keeps its own sign when an operand is negated (R103). -/
def subVal (rdn : Bool) (a b : Val) : Val := addVal rdn a (if b.isNan then b else b.flip)

/-- VADD (R349). -/
def execVadd (cl : Cluster) (f : VSyl) (s : State) :=
  vArith cl (enc (.vadd cl f)) f 2 0 2 (fun a b _ => a + b) (fun rdn a b _ => addVal rdn a b) s
/-- VSUB (R349). -/
def execVsub (cl : Cluster) (f : VSyl) (s : State) :=
  vArith cl (enc (.vsub cl f)) f 2 0 2 (fun a b _ => a - b) (fun rdn a b _ => subVal rdn a b) s
/-- VMUL (R349). -/
def execVmul (cl : Cluster) (f : VSyl) (s : State) :=
  vArith cl (enc (.vmul cl f)) f 2 1 4 (fun a b _ => a * b) (fun _ a b _ => mulVal a b) s
/-- VMAD (R349). -/
def execVmad (cl : Cluster) (f : VSyl) (s : State) :=
  vArith cl (enc (.vmad cl f)) f 3 1 4 (fun a b c => a * b + c) (fun rdn a b c => fmaVal rdn a b c) s

/-- The sign bit of a floating element cleared or inverted (R103). -/
def signBits (fm : Fmt) (invert : Bool) (a : Nat) : Nat :=
  let top := 2 ^ (fm.width - 1)
  let s := decide (top ≤ a % 2 ^ fm.width)
  if s then a % top else if invert then a % top + top else a % top

/-- VABS and VNEG (R350). -/
def vSign (cl : Cluster) (e : Enc) (f : VSyl) (invert : Bool) (s : State) :
    Host.Outcome State Fault Refusal :=
  vecOp cl e f never (some 0) 2
    (fun c => vSame c cl f 1 fun _ a _ _ =>
      let fm := typeFmt f.t.toNat
      if fm.isInt then
        let i := (decodeVal fm a).toInt
        (fitInt fm (satOf f.m) (if invert then -i else i.natAbs), 0)
      else (signBits fm invert a, 0)) s

/-- VABS (R349). -/
def execVabs (cl : Cluster) (f : VSyl) (s : State) := vSign cl (enc (.vabs cl f)) f false s
/-- VNEG (R349). -/
def execVneg (cl : Cluster) (f : VSyl) (s : State) := vSign cl (enc (.vneg cl f)) f true s

/-- Minimum or maximum of two elements of a type (R104). -/
def minMaxElem (t : Nat) (wantMax prop : Bool) (a b : Nat) : Nat × FlagSet :=
  let fm := typeFmt t
  pickMinMax wantMax prop (canonNan fm) (decodeVal fm a) (decodeVal fm b) a b

/-- VMIN, VMAX, VMINP and VMAXP (R349). -/
def vMinMax (cl : Cluster) (e : Enc) (f : VSyl) (wantMax prop : Bool) (s : State) :
    Host.Outcome State Fault Refusal :=
  vecOp cl e f never (some 0) 2
    (fun c => vSame c cl f 2 fun _ a b _ => minMaxElem f.t.toNat wantMax prop a b) s

/-- VMIN (R349). -/
def execVmin (cl : Cluster) (f : VSyl) (s : State) := vMinMax cl (enc (.vmin cl f)) f false false s
/-- VMAX (R349). -/
def execVmax (cl : Cluster) (f : VSyl) (s : State) := vMinMax cl (enc (.vmax cl f)) f true false s
/-- VMINP (R349). -/
def execVminp (cl : Cluster) (f : VSyl) (s : State) := vMinMax cl (enc (.vminp cl f)) f false true s
/-- VMAXP (R349). -/
def execVmaxp (cl : Cluster) (f : VSyl) (s : State) := vMinMax cl (enc (.vmaxp cl f)) f true true s
/-- VCLMP (R349, R350): min(max(a, b), c). -/
def execVclmp (cl : Cluster) (f : VSyl) (s : State) :=
  vecOp cl (enc (.vclmp cl f)) f never (some 0) 2
    (fun c => vSame c cl f 3 fun _ a b d =>
      let x := minMaxElem f.t.toNat true false a b
      let y := minMaxElem f.t.toNat false false x.1 d
      (y.1, x.2 ||| y.2)) s

/-! ## Bits, shifts and counts -/

/-- A bitwise instruction on container bits (R353). -/
def vBits (cl : Cluster) (e : Enc) (f : VSyl) (op : Nat → Nat → Nat) (s : State) :
    Host.Outcome State Fault Refusal :=
  vecOp cl e f never (some 0) 2 (fun c => vSame c cl f 2 fun _ a b _ => (op a b, 0)) s

/-- VAND (R353). -/
def execVand (cl : Cluster) (f : VSyl) (s : State) := vBits cl (enc (.vand cl f)) f (· &&& ·) s
/-- VOR (R353). -/
def execVor (cl : Cluster) (f : VSyl) (s : State) := vBits cl (enc (.vor cl f)) f (· ||| ·) s
/-- VXOR (R353). -/
def execVxor (cl : Cluster) (f : VSyl) (s : State) := vBits cl (enc (.vxor cl f)) f (· ^^^ ·) s
/-- VANDN (R353): a and not b. -/
def execVandn (cl : Cluster) (f : VSyl) (s : State) :=
  vBits cl (enc (.vandn cl f)) f (fun a b => a - (a &&& b)) s

/-- The shift count of R353: an immediate, or the element of B, mod the width. -/
def shiftCount (f : VSyl) (w b : Nat) : Nat := (if f.x.getLsbD 20 then bits f.x 4 0 else b) % w

/-- A shift (R353). -/
def vShift (cl : Cluster) (e : Enc) (f : VSyl) (op : Nat → Nat → Nat → Nat) (s : State) :
    Host.Outcome State Fault Refusal :=
  vecOp cl e f never (some 0) 2
    (fun c => vSame c cl f (if f.x.getLsbD 20 then 1 else 2) fun _ a b _ =>
      let w := (typeFmt f.t.toNat).width
      (op w a (shiftCount f w b) % 2 ^ w, 0)) s

/-- VSHL (R353). -/
def execVshl (cl : Cluster) (f : VSyl) (s : State) := vShift cl (enc (.vshl cl f)) f (fun _ a n => a * 2 ^ n) s
/-- VSHR (R353). -/
def execVshr (cl : Cluster) (f : VSyl) (s : State) := vShift cl (enc (.vshr cl f)) f (fun _ a n => a / 2 ^ n) s
/-- VSAR (R353). -/
def execVsar (cl : Cluster) (f : VSyl) (s : State) :=
  vShift cl (enc (.vsar cl f)) f
    (fun w a n => wrapInt w ((decodeVal (.int true w) a).toInt / (2 : Int) ^ n)) s

/-- VCLZ (R353). -/
def execVclz (cl : Cluster) (f : VSyl) (s : State) :=
  vecOp cl (enc (.vclz cl f)) f never (some 0) 2
    (fun c => vSame c cl f 1 fun _ a _ _ =>
      let w := (typeFmt f.t.toNat).width
      (clzFrom (BitVec.ofNat 32 a) w % 2 ^ w, 0)) s
/-- VPOPC (R353). -/
def execVpopc (cl : Cluster) (f : VSyl) (s : State) :=
  vecOp cl (enc (.vpopc cl f)) f never (some 0) 2
    (fun c => vSame c cl f 1 fun _ a _ _ =>
      let w := (typeFmt f.t.toNat).width
      (popcFrom (BitVec.ofNat 32 a) w % 2 ^ w, 0)) s

/-- Rounds a value to an integral one of its own format (R354). -/
def integralElem (fm : Fmt) (r : Rnd) (a : Nat) : Nat × FlagSet :=
  match decodeVal fm a with
  | .num neg man exp more =>
    let (q, frac, sh, more) := splitAt man exp 0 more
    let q' := if roundsUp r neg q frac sh more then q + 1 else q
    ((roundVal fm ⟨1, false, 0, 0⟩ (.num neg q' 0 false)).1, flagIf (frac != 0 || more) flagInx)
  | v => roundVal fm r v

/-- VFLR (R354). -/
def execVflr (cl : Cluster) (f : VSyl) (s : State) :=
  vecRound cl (enc (.vflr cl f)) f never (fun _ => true)
    (fun _ => 4096 / (typeFmt f.t.toNat).container) (some 0) 2
    (fun c r => vSame c cl f 1 fun i a _ _ => integralElem (typeFmt f.t.toNat) (r i) a) s

/-! ## Compare and select -/

/-- A predicate result goes in flight (R325, R355); flags land with it. -/
def landPred (cl : Cluster) (d : Nat) (v : Pred) (pois : Bool) (flags : FlagSet) (c : Ctx) : Ctx :=
  launch (clPred cl) (d % 8) (v.setWidth 4096) pois flags 0 none 2 c

/-- The poison of a predicate result (R224): `n` governing elements. -/
def predPois (c : Ctx) (cl : Cluster) (f : VSyl) (n : Nat) (srcs : Bool) : Bool :=
  srcs || govPois c cl f.p.toNat ||
    (f.z == 0 && someInactive n (govPred c cl f.p.toNat) && govPois c cl (f.d.toNat % 8))

/-- VCMP (R355). -/
def execVcmp (cl : Cluster) (f : VSyl) (s : State) :=
  vecStep cl (enc (.vcmp cl f)) (fun _ => [])
    (fun c =>
      let fm := typeFmt f.t.toNat
      let cw := fm.container
      let n := 4096 / cw
      let a := srcRow c cl f.a.toNat
      let b := srcRow c cl f.b.toNat
      let p := govPred c cl f.p.toNat
      let v (r : Row) (i : Nat) := decodeVal fm (elemAt cw r i)
      let sig := (List.range n).any fun i => govBit n p i && ((v a i).isSig || (v b i).isSig)
      landPred cl f.d.toNat
        (predWrite n p (f.z == 1) (govPred c cl (f.d.toNat % 8)) fun i => condHolds f.m.toNat (v a i) (v b i))
        (predPois c cl f n (srcRowPois c cl f.a.toNat || srcRowPois c cl f.b.toNat))
        (flagIf sig flagInv) c) s

/-- VSEL (R356), a commit select: poisoned by its predicates, or by an operand it delivers (R224). -/
def execVsel (cl : Cluster) (f : VSyl) (s : State) :=
  vecOp cl (enc (.vsel cl f)) f never (some 0) 2
    (fun c =>
      let n := 4096 / (typeFmt f.t.toNat).container
      let sp := bits f.x 2 0
      let sel := govPred c cl sp
      let p := govPred c cl f.p.toNat
      let some_ (b : Bool) := (List.range n).any fun i => govBit n p i && govBit n sel i == b
      let o := vSame c cl f 2 fun i a b _ => (if govBit n sel i then a else b, 0)
      { o with pois := govPois c cl f.p.toNat || govPois c cl sp ||
          (some_ true && srcRowPois c cl f.a.toNat) || (some_ false && srcRowPois c cl f.b.toNat) ||
          (f.z == 0 && someInactive n p && srcRowPois c cl f.d.toNat) }) s

/-! ## Widening multiply and dot product -/

/-- The source format of VMULW and VDOT4: T, or the register FR (R351, R352). -/
def prodFmt (c : Ctx) (f : VSyl) : Option Fmt := ctxFmt c f.fr f.t.toNat

/-- VMULW's checks on a format register (R88, R105, R351): valid, an allowed ratio, an aligned pair or
quad. -/
def vmulwBad (f : VSyl) (c : Ctx) : Bool :=
  match prodFmt c f with
  | none => true
  | some a =>
    let k := (typeFmt f.dfmt).container / a.container
    !(k == 2 || k == 4) || !groupOk f.d.toNat k

/-- VMULW (R351). -/
def execVmulw (cl : Cluster) (f : VSyl) (s : State) :=
  vecRound cl (enc (.vmulw cl f)) f (vmulwBad f) (fun _ => decide (8 ≤ f.dfmt))
    (fun c => 4096 / ((prodFmt c f).getD .scale).container) (some 1) 4
    (fun c r =>
      let fm := (prodFmt c f).getD .scale
      let df := typeFmt f.dfmt
      let cw := fm.container
      let k := df.container / cw
      let a := srcRow c cl f.a.toNat
      let b := srcRow c cl f.b.toNat
      let sv := srcRow c cl f.c.toNat
      vResult c cl f k (4096 / cw) df.container
        (srcRowPois c cl f.a.toNat || srcRowPois c cl f.b.toNat || (f.sc && srcRowPois c cl f.c.toNat)) 0
        fun i =>
          let x := sourceVal c.ctl.flush fm (elemAt cw a i)
          let y := sourceVal c.ctl.flush fm (elemAt cw b i)
          let x := if f.sc then scaleVal false (scaleByte sv f.ssel (i / 32)) x else x
          if df.isInt then (wrapInt df.width (x.toInt * y.toInt), 0) else roundVal df (r i) (mulVal x y)) s

/-- VDOT4 (R352): a sum of R products in each 32-bit lane, with the lane of C. -/
def execVdot4 (cl : Cluster) (f : VSyl) (s : State) :=
  vecOp cl (enc (.vdot4 cl f)) f (fun c => (prodFmt c f).isNone) (some 1) 4
    (fun c =>
      let fm := (prodFmt c f).getD .scale
      let cw := fm.container
      let n := 32 / cw
      let a := srcRow c cl f.a.toNat
      let b := srcRow c cl f.b.toNat
      let d := srcRow c cl f.c.toNat
      vResult c cl f 1 128 32
        (srcRowPois c cl f.a.toNat || srcRowPois c cl f.b.toNat || srcRowPois c cl f.c.toNat) 0
        fun l =>
          let ps := (List.range n).map fun j =>
            mulVal (sourceVal c.ctl.flush fm (elemAt cw a (n * l + j)))
              (sourceVal c.ctl.flush fm (elemAt cw b (n * l + j)))
          let acc := elemAt 32 d l
          if f.t.toNat < 8 then
            sumInt (.int true 32) (satOf f.m) ((decodeVal (.int true 32) acc).toInt :: ps.map Val.toInt)
          else sumF32 c.ctl.nbv.toNat (satOf f.m) c.ctl.flush (ps.map some) (some acc)) s

/-! ## Special functions -/

/-- A special function (R365). -/
def vSpecial (cl : Cluster) (e : Enc) (f : VSyl) (g : Val → Val) (s : State) :
    Host.Outcome State Fault Refusal :=
  vecRound cl e f never (fun _ => true) (fun _ => 4096 / (typeFmt f.t.toNat).container) (some 2) 8
    (fun c r => vSame c cl f 1 fun i a _ _ =>
      roundVal (typeFmt f.t.toNat) (r i) (g (decodeVal (typeFmt f.t.toNat) a))) s

/-- VEXP2 (R365). -/
def execVexp2 (cl : Cluster) (f : VSyl) (s : State) := vSpecial cl (enc (.vexp2 cl f)) f exp2Val s
/-- VLOG2 (R365). -/
def execVlog2 (cl : Cluster) (f : VSyl) (s : State) := vSpecial cl (enc (.vlog2 cl f)) f log2Val s
/-- VRCP (R365). -/
def execVrcp (cl : Cluster) (f : VSyl) (s : State) := vSpecial cl (enc (.vrcp cl f)) f rcpVal s
/-- VRSQ (R365). -/
def execVrsq (cl : Cluster) (f : VSyl) (s : State) := vSpecial cl (enc (.vrsq cl f)) f rsqVal s
/-- VSQRT (R365). -/
def execVsqrt (cl : Cluster) (f : VSyl) (s : State) := vSpecial cl (enc (.vsqrt cl f)) f sqrtVal s

end Sys2Proof.Machine
end

