-- ==== Sys2Proof/Machine/VecMove.lean ====
section
/-! DEFINITION. Vector moves, broadcasts, extraction and permutes (R357 to R359), and the predicate
operations (R325, R326). -/

namespace Sys2Proof.Machine

/-- The number of elements of a T code in a register (R346). -/
def tElems (f : VSyl) : Nat := 4096 / (typeFmt f.t.toNat).container

/-- VMOV (R357). -/
def execVmov (cl : Cluster) (f : VSyl) (s : State) :=
  vecOp cl (enc (.vmov cl f)) f never (some 0) 2 (fun c => vSame c cl f 1 fun _ a _ _ => (a, 0)) s

/-- The other cluster (R72). -/
def otherCl : Cluster → Cluster
  | .a => .b
  | .b => .a

/-- VMOVX (R357): register A of the other cluster. -/
def execVmovx (cl : Cluster) (f : VSyl) (s : State) :=
  vecOp cl (enc (.vmovx cl f)) f never (some 0) 2
    (fun c =>
      let cw := (typeFmt f.t.toNat).container
      vResult c cl f 1 (tElems f) cw (srcRowPois c (otherCl cl) f.a.toNat) 0
        fun i => (elemAt cw (srcRow c (otherCl cl) f.a.toNat) i, 0)) s

/-- VBCS (R357): the low bits of a scalar. -/
def execVbcs (cl : Cluster) (f : VSyl) (s : State) :=
  vecOp cl (enc (.vbcs cl f)) f never (some 7) 2
    (fun c =>
      let cw := (typeFmt f.t.toNat).container
      vResult c cl f 1 (tElems f) cw (spois c f.a.toNat) 0
        fun _ => ((sget c f.a.toNat).toNat % 2 ^ cw, 0)) s

/-- VBCL (R357): one element of A. -/
def execVbcl (cl : Cluster) (f : VSyl) (s : State) :=
  vecOp cl (enc (.vbcl cl f)) f never (some 0) 2
    (fun c =>
      let cw := (typeFmt f.t.toNat).container
      vResult c cl f 1 (tElems f) cw (srcRowPois c cl f.a.toNat) 0
        fun _ => (elemAt cw (srcRow c cl f.a.toNat) (bits f.x 9 0), 0)) s

/-- VEXT (R357): one element of A into a scalar register, sign-extended for i types. -/
def execVext (cl : Cluster) (f : VSyl) (s : State) :=
  vecStep cl (enc (.vext cl f)) (fun _ => [])
    (fun c =>
      let fm := typeFmt f.t.toNat
      let x := elemAt fm.container (srcRow c cl f.a.toNat) (bits f.x 9 0)
      let v := if fm.isInt then BitVec.ofInt 64 (decodeVal fm x).toInt else BitVec.ofNat 64 x
      launch .scalar f.d.toNat (v.setWidth 4096) (srcRowPois c cl f.a.toNat) 0 0 none 3 c) s

/-- VIOTA (R357). -/
def execViota (cl : Cluster) (f : VSyl) (s : State) :=
  vecOp cl (enc (.viota cl f)) f never (some 0) 2
    (fun c =>
      let cw := (typeFmt f.t.toNat).container
      vResult c cl f 1 (tElems f) cw (spois c f.a.toNat) 0
        fun i => (wrapInt cw ((sget c f.a.toNat).toNat + i * f.x.toInt), 0)) s

/-- The index registers VPERM reads (R358). -/
def permRegs (t : Nat) : Nat :=
  match (typeFmt t).container with
  | 8 => 2
  | 4 => 4
  | _ => 1

/-- VPERM (R358). -/
def execVperm (cl : Cluster) (f : VSyl) (s : State) :=
  vecOp cl (enc (.vperm cl f)) f never (some 3) 3
    (fun c =>
      let cw := (typeFmt f.t.toNat).container
      let n := tElems f
      let k := permRegs f.t.toNat
      vResult c cl f 1 n cw (srcRowPois c cl f.a.toNat || groupPois c cl f.b.toNat k) 0
        fun i =>
          let j := groupElem c cl f.b.toNat k (max cw 16) i
          if f.x.getLsbD 0 && decide (j ≥ n) then (0, 0)
          else (elemAt cw (srcRow c cl f.a.toNat) (j % n), 0)) s

/-- VROT (R358). -/
def execVrot (cl : Cluster) (f : VSyl) (s : State) :=
  vecOp cl (enc (.vrot cl f)) f never (some 3) 3
    (fun c =>
      let cw := (typeFmt f.t.toNat).container
      let n := tElems f
      vResult c cl f 1 n cw (srcRowPois c cl f.a.toNat) 0
        fun i => (elemAt cw (srcRow c cl f.a.toNat) ((i + bits f.x 9 0) % n), 0)) s

/-- A result over the pair D, D+1 viewed as one sequence of 2N elements, where element `i` of each half is
governed by bit `i` (R359, R371). -/
def pairResult (c : Ctx) (cl : Cluster) (f : VSyl) (gov : Nat → Bool) (srcs : Bool) (g : Nat → Nat) : VOut :=
  let cw := (typeFmt f.t.toNat).container
  let n := tElems f
  let d := f.d.toNat
  let half (h : Nat) := rowOf cw ((List.range n).map fun i =>
    if gov i then g (h * n + i)
    else if f.z == 1 then 0 else elemAt cw (srcRow c cl (d + h)) i)
  let kept := f.z == 0 && (List.range n).any fun i => !gov i
  { rows := [half 0, half 1]
    pois := srcs || govPois c cl f.p.toNat || (kept && groupPois c cl d 2)
    flags := 0
    subst := 0 }

/-- VZIP and VUZP (R359): `pick` gives the place in A followed by B of element `y` of the result. -/
def vZip (cl : Cluster) (e : Enc) (f : VSyl) (pick : Nat → Nat → Nat → Nat) (s : State) :
    Host.Outcome State Fault Refusal :=
  vecOp cl e f never (some 3) 3
    (fun c =>
      let cw := (typeFmt f.t.toNat).container
      let n := tElems f
      pairResult c cl f (govBit n (govPred c cl f.p.toNat))
        (srcRowPois c cl f.a.toNat || srcRowPois c cl f.b.toNat) fun y =>
          let x := pick n (2 ^ bits f.x 3 0) y
          if x < n then elemAt cw (srcRow c cl f.a.toNat) x
          else elemAt cw (srcRow c cl f.b.toNat) (x - n)) s

/-- VZIP (R359): groups of `g` alternate between A and B. -/
def execVzip (cl : Cluster) (f : VSyl) (s : State) :=
  vZip cl (enc (.vzip cl f)) f (fun n g y => y / g % 2 * n + y / g / 2 * g + y % g) s
/-- VUZP (R359): even groups to D, odd groups to D+1. -/
def execVuzp (cl : Cluster) (f : VSyl) (s : State) :=
  vZip cl (enc (.vuzp cl f)) f (fun n g y => (2 * (y % n / g) + y / n) * g + y % g) s

/-! ## Predicate operations -/

/-- PAND to PMOV (R325): bit by bit under P. -/
def predOp (cl : Cluster) (e : Enc) (f : VSyl) (two : Bool) (op : Pred → Pred → Pred) (s : State) :
    Host.Outcome State Fault Refusal :=
  vecStep cl e (fun _ => [])
    (fun c =>
      let p := govPred c cl f.p.toNat
      let old := govPred c cl (f.d.toNat % 8)
      let a := f.a.toNat % 8
      let b := f.b.toNat % 8
      let r := op (govPred c cl a) (govPred c cl b)
      landPred cl f.d.toNat ((r &&& p) ||| (if f.z = 1 then 0 else old &&& ~~~p))
        (govPois c cl a || (two && govPois c cl b) || govPois c cl f.p.toNat ||
          (f.z == 0 && p != BitVec.allOnes 512 && govPois c cl (f.d.toNat % 8))) 0 c) s

/-- PAND (R325). -/
def execPand (cl : Cluster) (f : VSyl) (s : State) := predOp cl (enc (.pand cl f)) f true (· &&& ·) s
/-- POR (R325). -/
def execPor (cl : Cluster) (f : VSyl) (s : State) := predOp cl (enc (.por cl f)) f true (· ||| ·) s
/-- PXOR (R325). -/
def execPxor (cl : Cluster) (f : VSyl) (s : State) := predOp cl (enc (.pxor cl f)) f true (· ^^^ ·) s
/-- PANDN (R325). -/
def execPandn (cl : Cluster) (f : VSyl) (s : State) :=
  predOp cl (enc (.pandn cl f)) f true (fun a b => a &&& ~~~b) s
/-- PMOV (R325). -/
def execPmov (cl : Cluster) (f : VSyl) (s : State) := predOp cl (enc (.pmov cl f)) f false (fun a _ => a) s

/-- PSET and PFIRST write element results (R326). -/
def predElems (cl : Cluster) (e : Enc) (f : VSyl) (pois : Ctx → Bool) (res : Ctx → Nat → Bool)
    (s : State) : Host.Outcome State Fault Refusal :=
  vecStep cl e (fun _ => [])
    (fun c =>
      landPred cl f.d.toNat
        (predWrite (tElems f) (govPred c cl f.p.toNat) (f.z == 1) (govPred c cl (f.d.toNat % 8)) (res c))
        (predPois c cl f (tElems f) (pois c)) 0 c) s

/-- PSET (R326): the first n elements. -/
def execPset (cl : Cluster) (f : VSyl) (s : State) :=
  predElems cl (enc (.pset cl f)) f (fun c => spois c f.a.toNat)
    (fun c i => decide ((i : Int) < (sget c f.a.toNat).toInt + f.x.toInt)) s

/-- PFIRST (R326): the first governed element true in A. -/
def execPfirst (cl : Cluster) (f : VSyl) (s : State) :=
  predElems cl (enc (.pfirst cl f)) f (fun c => govPois c cl (f.a.toNat % 8))
    (fun c =>
      let n := tElems f
      let first := (List.range n).find? fun i =>
        govBit n (govPred c cl f.p.toNat) i && govBit n (govPred c cl (f.a.toNat % 8)) i
      fun i => first == some i) s

/-- PCNT (R326): the count of elements true in A, into a scalar register. -/
def execPcnt (cl : Cluster) (f : VSyl) (s : State) :=
  vecStep cl (enc (.pcnt cl f)) (fun _ => [])
    (fun c =>
      let n := tElems f
      let a := govPred c cl (f.a.toNat % 8)
      let k := ((List.range n).filter (govBit n a)).length
      launch .scalar f.d.toNat (BitVec.ofNat 4096 k) (govPois c cl (f.a.toNat % 8)) 0 0 none 6 c) s

end Sys2Proof.Machine
end

