-- ==== Sys2Proof/Machine/VecCvt.lean ====
section
/-! DEFINITION. Conversions between formats, quantising with computed scales, and bin triples in registers
(R360 to R364). -/

namespace Sys2Proof.Machine

/-- The registers of a conversion (R105, R360): source registers, destination registers, elements; none for
a ratio of containers above 4. -/
def cvtShape (sf df : Fmt) : Option (Nat × Nat × Nat) :=
  let cs := sf.container
  let cd := df.container
  if cs ≤ cd then (if cd / cs ≤ 4 then some (1, cd / cs, 4096 / cs) else none)
  else if cs / cd ≤ 4 then some (cs / cd, 1, 4096 / cd) else none

/-- The source and destination formats of a conversion (R360). -/
def cvtFmts (c : Ctx) (f : VSyl) : Option (Fmt × Fmt) :=
  match ctxFmt c f.fr f.srcFmt, ctxFmt c f.fr f.dfmt with
  | some s, some d => some (s, d)
  | _, _ => none

/-- The registers of a conversion are a pair or a quad where they must be (R105, R346). -/
def cvtRegsOk (f : VSyl) (ks kd : Nat) : Bool :=
  (ks == 1 || groupOk f.a.toNat ks) && (kd == 1 || groupOk f.d.toNat kd)

/-- VCVT's checks on its formats (R86, R88, R360, R361). -/
def vcvtBad (f : VSyl) (c : Ctx) : Bool :=
  match cvtFmts c f with
  | none => true
  | some (sf, df) =>
    match cvtShape sf df with
    | none => true
    | some (ks, kd, _) =>
      !cvtRegsOk f ks kd || (f.sc && decide (sf.width > 8) && decide (df.width > 8))

/-- One element of VCVT (R361). -/
def cvtElem (flush : BitVec 3) (sf df : Fmt) (r : Rnd) (scale : Option Nat) (x : Nat) : Nat × FlagSet :=
  let v := sourceVal flush sf x
  match scale with
  | none => convertVal sf df r v
  | some s => roundVal df r (scaleVal (decide (sf.width > 8)) s v)

/-- A conversion with known formats (R360). -/
def cvtResult (c : Ctx) (cl : Cluster) (f : VSyl) (sf df : Fmt) (scaled : Bool)
    (g : Nat → Option Nat → Nat → Nat × FlagSet) : VOut :=
  match cvtShape sf df with
  | none => ⟨[], false, 0, 0⟩
  | some (ks, kd, n) =>
    vResult c cl f kd n df.container
      (groupPois c cl f.a.toNat ks || (scaled && srcRowPois c cl f.c.toNat)) (substOf f.srcFmt)
      fun i =>
        let r := g i (if scaled then some (scaleByte (srcRow c cl f.c.toNat) f.ssel (i / 32)) else none)
          (groupElem c cl f.a.toNat ks sf.container i)
        (r.1, r.2 ||| (if substOf f.srcFmt = 0 then 0 else flagSubst))

/-- The element count of a conversion (R360). -/
def cvtCount (c : Ctx) (f : VSyl) : Nat :=
  match cvtFmts c f with
  | some (sf, df) => 4096 / min sf.container df.container
  | none => 0

/-- VCVT (R360, R361). -/
def execVcvt (cl : Cluster) (f : VSyl) (s : State) :=
  vecRound cl (enc (.vcvt cl f)) f (vcvtBad f)
    (fun c => match cvtFmts c f with
      | some (sf, df) => !(sf.isInt && df.isInt && !f.sc)
      | none => false)
    (fun c => cvtCount c f) (some 1) 3
    (fun c r => match cvtFmts c f with
      | some (sf, df) => cvtResult c cl f sf df f.sc fun i sc x => cvtElem c.ctl.flush sf df (r i) sc x
      | none => ⟨[], false, 0, 0⟩) s

/-- The exponent of the smallest positive value of a floating format. -/
def lowExp (f : Flt) : Int := if f.subn then f.emin - f.m else f.emin

/-- The largest finite value of a floating format. -/
def maxVal (f : Flt) : Val := decodeFlt f (f.maxCode false)

/-- A value lies within a format's range. -/
def inRange (v : Val) (d : Flt) : Bool := !ltVal (maxVal d) v

/-- A floating format that holds every value of another one (R89, R362). -/
def fltHolds (s d : Flt) : Bool :=
  decide (s.m ≤ d.m) && inRange (maxVal s) d && decide (lowExp d ≤ lowExp s) &&
    decide (d.emin - d.m ≤ s.emin - s.m) && (d.sgn || !s.sgn) &&
    (s.spec != 1 || d.spec == 1) && (s.spec == 0 || d.spec != 0)

/-- A floating format holds every integer of `p` bits and its sign: -2^p too when signed. -/
def intHolds (signed : Bool) (p : Nat) (h : Flt) : Bool :=
  decide (p ≤ h.m + 1) && inRange (.ofInt (if signed then 2 ^ p else 2 ^ p - 1)) h && decide (lowExp h ≤ 0) &&
    (h.sgn || !signed)

/-- VWID's rule on DFMT (R362). -/
def widens (s d : Fmt) : Bool :=
  if s.isInt && d.isInt then
    decide ((intRange d).1 ≤ (intRange s).1) && decide ((intRange s).2 ≤ (intRange d).2)
  else
    match s, d with
    | .flt g, .flt h =>
      if g.e = 0 then intHolds g.sgn g.m h else fltHolds g h
    | .int signed w, .flt h => intHolds signed (if signed then w - 1 else w) h
    | .scale, .flt h => inRange (.num false 1 127 false) h && decide (lowExp h ≤ -127) && h.hasNan
    | _, _ => false

/-- VWID's checks (R362): a wider exact format in a container 2 or 4 times as wide. -/
def vwidBad (f : VSyl) (c : Ctx) : Bool :=
  match cvtFmts c f with
  | none => true
  | some (sf, df) =>
    match cvtShape sf df with
    | some (1, kd, _) => !(kd == 2 || kd == 4) || !cvtRegsOk f 1 kd || !widens sf df
    | _ => true

/-- VWID (R362): exact, but for the flush of a subnormal result, which sets its flags (R95; DEDUCED, log 61); a signalling
NaN sets INV. -/
def execVwid (cl : Cluster) (f : VSyl) (s : State) :=
  vecOp cl (enc (.vwid cl f)) f (vwidBad f) (some 1) 3
    (fun c => match cvtFmts c f with
      | some (sf, df) => cvtResult c cl f sf df false fun _ _ x =>
          convertVal sf df ⟨0, false, 0, c.ctl.flush⟩ (sourceVal c.ctl.flush sf x)
      | none => ⟨[], false, 0, 0⟩) s

/-- VNAR (R362): an integer pair or quad into a narrower integer type. -/
def execVnar (cl : Cluster) (f : VSyl) (s : State) :=
  vecOp cl (enc (.vnar cl f)) f never (some 1) 3
    (fun c =>
      let sf := typeFmt f.t.toNat
      let df := typeFmt f.dfmt
      cvtResult c cl f sf df false fun _ _ x =>
        (fitInt df (satOf f.m) (decodeVal sf x).toInt, 0)) s

/-- VSCL's checks (R363): a valid destination of width at most 8, at most 4 times narrower than T. -/
def vsclBad (f : VSyl) (c : Ctx) : Bool :=
  match ctxFmt c f.fr f.dfmt with
  | none => true
  | some df =>
    match cvtShape (typeFmt f.t.toNat) df with
    | none => true
    | some (ks, _, _) => decide (df.width > 8) || !(ks == 1 || groupOk f.a.toNat ks)

/-- VSCL's scale of block `j`: none when no element of it is active (R93, R363). -/
def vsclScale (c : Ctx) (cl : Cluster) (f : VSyl) (sf df : Fmt) (ks n j : Nat) : Option Nat :=
  let act := ((List.range 32).map (32 * j + ·)).filter fun i => govBit n (govPred c cl f.p.toNat) i
  if act.isEmpty then none
  else some (blockScale df (act.map fun i => decodeVal sf (groupElem c cl f.a.toNat ks sf.container i)))

/-- C with its written scale bytes (R91, R363). -/
def vsclScales (c : Ctx) (cl : Cluster) (f : VSyl) (scales : List (Option Nat)) : Row :=
  let old := srcRow c cl f.c.toNat
  rowOf 8 ((List.range 512).map fun k =>
    match scales[(k + 512 - 16 * f.ssel) % 512]? with
    | some (some s) => s
    | _ => elemAt 8 old k)

/-- VSCL (R363): D and C land in one cycle. -/
def execVscl (cl : Cluster) (f : VSyl) (s : State) :=
  vecStep cl (enc (.vscl cl f)) (fun s => chk (vsclBad f (cur s)) 0x01)
    (fun c =>
      let sf := typeFmt f.t.toNat
      match ctxFmt c f.fr f.dfmt with
      | none => c
      | some df =>
        match cvtShape sf df with
        | none => c
        | some (ks, _, n) =>
          let gs := drawRows c cl f.m n
          let scales := (List.range (n / 32)).map (vsclScale c cl f sf df ks n)
          let o := vResult c cl f 1 n df.container (groupPois c cl f.a.toNat ks) 0 fun i =>
            let q := match scales[i / 32]? with
              | some (some s) => s
              | _ => 255
            quantise df (vRnd c f.m gs i) q (decodeVal sf (groupElem c cl f.a.toNat ks sf.container i))
          let c' := landRows cl f.d.toNat (some 1) 3 o (setGen cl gs c)
          launch (clFile cl) f.c.toNat (vsclScales c cl f scales)
            (o.pois || srcRowPois c cl f.c.toNat) 0 0 none 3 c') s

/-! ## Bin triples in registers -/

/-- The control value's EMAX (R364). -/
def binEmax (v : W64) : Int := (v.extractLsb' 0 8).toInt
/-- The control value's GRP (R364). -/
def binGroup (v : W64) : Nat := bits v 10 8
/-- A non-zero zero field of the control value (R364). -/
def binBad (f : VSyl) (c : Ctx) : Bool := nzBits (sget c f.b.toNat) 63 11

/-- VBIN (R364): 16 records of 32 bytes from the group's elements. -/
def execVbin (cl : Cluster) (f : VSyl) (s : State) :=
  vecOp cl (enc (.vbin cl f)) f (binBad f) (some 1) 3
    (fun c =>
      let v := sget c f.b.toNat
      let p := govPred c cl f.p.toNat
      let q := binGroup v
      let on (j : Nat) := govBit 128 p (16 * q + j)
      let rs := (List.range 16).map fun j =>
        if on j then
          let r := splitBins (binEmax v) (decodeFlt f32 (elemAt 32 (srcRow c cl f.a.toNat) (16 * q + j)))
          (r.1.toNat, r.2)
        else (if f.z = 1 then 0 else elemAt 256 (srcRow c cl f.d.toNat) j, 0)
      { rows := [rowOf 256 (rs.map (·.1))]
        pois := srcRowPois c cl f.a.toNat || spois c f.b.toNat || govPois c cl f.p.toNat ||
          (f.z == 0 && ((List.range 16).any fun j => !on j) && srcRowPois c cl f.d.toNat)
        flags := flagsUnion (rs.map (·.2))
        subst := 0 }) s

/-- VUNBN (R364): the group's elements from 16 records; the other elements keep their values. -/
def execVunbn (cl : Cluster) (f : VSyl) (s : State) :=
  vecOp cl (enc (.vunbn cl f)) f (binBad f) (some 1) 3
    (fun c =>
      let v := sget c f.b.toNat
      let p := govPred c cl f.p.toNat
      let q := binGroup v
      let rs := (List.range 128).map fun i =>
        let old := elemAt 32 (srcRow c cl f.d.toNat) i
        if i / 16 = q then
          if govBit 128 p i then
            joinBins (binEmax v) (satOf f.m) c.ctl.flush
              (Triple.ofNat (elemAt 256 (srcRow c cl f.a.toNat) (i % 16)))
          else (if f.z = 1 then 0 else old, 0)
        else (old, 0)
      { rows := [rowOf 32 (rs.map (·.1))]
        pois := srcRowPois c cl f.a.toNat || spois c f.b.toNat || govPois c cl f.p.toNat ||
          srcRowPois c cl f.d.toNat
        flags := flagsUnion (rs.map (·.2))
        subst := 0 }) s

end Sys2Proof.Machine
end

