-- ==== Sys2Proof/Machine/VecRed.lean ====
section
/-! DEFINITION. The generator, reductions, scans and the compare-and-swap of lanes (R366 to R371). -/

namespace Sys2Proof.Machine

/-- VRNGS (R366): the generator changes at issue. -/
def execVrngs (cl : Cluster) (f : VSyl) (s : State) :=
  vecStep cl (enc (.vrngs cl f)) (fun s => chk (spois (cur s) f.a.toNat) 0x06)
    (fun c => setGen cl [genSeed ((sget c f.a.toNat).toNat % 2 ^ 32)] c) s

/-- The result of VRNG from a lane's new value (R367): z32, or an f32 in [0, 1). -/
def rngElem (t x : Nat) : Nat :=
  if t = 7 then x else (roundFlt f32 (.rne 0) (.num false (x / 256) (-24) false)).1

/-- VRNG (R367): every lane advances one step at issue. -/
def execVrng (cl : Cluster) (f : VSyl) (s : State) :=
  vecStep cl (enc (.vrng cl f)) (fun _ => [])
    (fun c =>
      let g := genStep (genOf c cl)
      landRows cl f.d.toNat (some 2) 8
        (vResult c cl f 1 128 32 false 0 fun i => (rngElem f.t.toNat (elemAt 32 g i), 0)) (setGen cl [g] c)) s

/-! ## Reductions -/

/-- The identity of a reduction (R368). -/
def redIdentity (fm : Fmt) (rop : Nat) : Nat :=
  let r (v : Val) := (roundVal fm (.rne 0) v).1
  if fm.isInt then
    match rop with
    | 1 => wrapInt fm.width (intRange fm).2
    | 2 => wrapInt fm.width (intRange fm).1
    | 3 => 2 ^ fm.width - 1
    | 5 => 1
    | _ => 0
  else
    match rop with
    | 1 => r (.inf false)
    | 2 => r (.inf true)
    | 5 => r (.num false 1 0 false)
    | _ => 0

/-- The linear product of R114, each product rounded to f32 (R95); a first term is no product yet. DEDUCED, log 49: R114
names RNE alone, so M[3] SAT saturates the result of f16 and bf16 and no f32 product. -/
def mulF32 (flush : BitVec 3) : List Val → Option Val × FlagSet → Option Val × FlagSet
  | [], a => a
  | v :: vs, (none, fl) => mulF32 flush vs (some v, fl)
  | v :: vs, (some a, fl) =>
    let r := rndF32 false flush (mulVal a v)
    mulF32 flush vs (some (decodeFlt f32 r.1), fl ||| r.2)

/-- Minimum or maximum of a list (R104, R114); NaNs alone give the positive canonical NaN. -/
def minMaxList (fm : Fmt) (wantMax : Bool) : List Nat → Nat × FlagSet
  | [] => (0, 0)
  | [x] => if (decodeVal fm x).isNan then (canonNan fm, flagIf (decodeVal fm x).isSig flagInv) else (x, 0)
  | x :: xs =>
    let r := minMaxList fm wantMax xs
    let q := pickMinMax wantMax false (canonNan fm) (decodeVal fm x) (decodeVal fm r.1) x r.1
    (q.1, q.2 ||| r.2)

/-- A REDUCTION of elements by K index, none where absent (R109, R110, R114, R368). -/
def reduceElems (c : Ctx) (fm : Fmt) (rop : Nat) (r : Rnd) (xs : List (Option Nat)) : Nat × FlagSet :=
  let present := xs.filterMap id
  if present.isEmpty then (redIdentity fm rop, 0)
  else if fm.isInt then
    let is := present.map fun x => (decodeVal fm x).toInt
    match rop with
    | 0 => sumInt fm r.sat is
    | 1 => minMaxList fm false present
    | 2 => minMaxList fm true present
    | 3 => (present.foldl (· &&& ·) (2 ^ fm.width - 1), 0)
    | 4 => (present.foldl (· ||| ·) 0, 0)
    | _ => (fitInt fm r.sat (is.foldl (· * ·) 1), 0)
  else
    let into (x : Nat × FlagSet) : Nat × FlagSet :=
      if fm = .flt f32 then x
      else
        let y := roundVal fm r (decodeFlt f32 x.1)
        (y.1, x.2 ||| y.2)
    match rop with
    | 0 => into (sumF32 c.ctl.nbv.toNat r.sat c.ctl.flush (xs.map fun x => x.map (decodeVal fm)) none)
    | 1 => minMaxList fm false present
    | 2 => minMaxList fm true present
    | _ =>
      let p := mulF32 c.ctl.flush (present.map (decodeVal fm)) (none, 0)
      let y := rndF32 false c.ctl.flush (p.1.getD (.zero false))
      into (y.1, p.2 ||| y.2)

/-- A reduction or scan rounds under its mode field: sums and products of f16 and bf16 (R110, R114). -/
def redRounds (f : VSyl) : Bool := (f.rop == 0 || f.rop == 5) && decide (9 ≤ f.t.toNat)

/-- A row with element 0 given, and every other bit zero. -/
def firstElem (cw x : Nat) : Row := rowOf cw [x]

/-- The poison of an instruction that keeps nothing. -/
def srcPoisP (c : Ctx) (cl : Cluster) (f : VSyl) : Bool :=
  srcRowPois c cl f.a.toNat || govPois c cl f.p.toNat

/-- VRED (R368): one result element, so one step of the generator under STO (R101). -/
def execVred (cl : Cluster) (f : VSyl) (s : State) :=
  vecRound cl (enc (.vred cl f)) f never (fun _ => redRounds f) (fun _ => 1) (some 3) 6
    (fun c r =>
      let fm := typeFmt f.t.toNat
      let n := tElems f
      let p := govPred c cl f.p.toNat
      let x := reduceElems c fm f.rop (r 0) ((List.range n).map fun i =>
        if govBit n p i then some (elemAt fm.container (srcRow c cl f.a.toNat) i) else none)
      { rows := [firstElem fm.container x.1], pois := srcPoisP c cl f, flags := x.2, subst := 0 }) s

/-- Element `x` ranks above `y` by key alone (R369): a NaN below every number. -/
def keyAbove (fm : Fmt) (x y : Nat) : Bool :=
  let a := decodeVal fm x
  let b := decodeVal fm y
  if a.isNan then false else if b.isNan then true else ltOrder b a

/-- The chosen element of a list with indices: the first of the highest (`up`) or lowest rank among
numbers (R369). -/
def ramPick (fm : Fmt) (up : Bool) : List (Nat × Nat) → Option (Nat × Nat)
  | [] => none
  | x :: xs =>
    match ramPick fm up xs with
    | none => if (decodeVal fm x.1).isNan then none else some x
    | some y =>
      if (decodeVal fm x.1).isNan then some y
      else if (if up then keyAbove fm y.1 x.1 else keyAbove fm x.1 y.1) then some y else some x

/-- VRAMX and VRAMN (R369). -/
def vRam (cl : Cluster) (e : Enc) (f : VSyl) (up : Bool) (s : State) : Host.Outcome State Fault Refusal :=
  vecOp cl e f never (some 3) 6
    (fun c =>
      let fm := typeFmt f.t.toNat
      let n := tElems f
      let p := govPred c cl f.p.toNat
      let act := ((List.range n).filter (govBit n p)).map fun i =>
        (elemAt fm.container (srcRow c cl f.a.toNat) i, i)
      let r := match ramPick fm up act with
        | some x => x
        | none => match act with
          | x :: _ => (canonNan fm, x.2)
          | [] => (0, 0xFFFFFFFF)
      { rows := [rowOf 32 [r.1, r.2]], pois := srcPoisP c cl f
        flags := flagIf (act.any fun x => (decodeVal fm x.1).isSig) flagInv, subst := 0 }) s

/-- VRAMX (R369). -/
def execVramx (cl : Cluster) (f : VSyl) (s : State) := vRam cl (enc (.vramx cl f)) f true s
/-- VRAMN (R369). -/
def execVramn (cl : Cluster) (f : VSyl) (s : State) := vRam cl (enc (.vramn cl f)) f false s

/-- The head of element `i`'s segment (R370). -/
def segHead (heads : Nat → Bool) : Nat → Nat
  | 0 => 0
  | i + 1 => if heads (i + 1) then i + 1 else segHead heads i

/-- VSCAN (R370): each element a separate reduction of its own prefix. -/
def execVscan (cl : Cluster) (f : VSyl) (s : State) :=
  vecRound cl (enc (.vscan cl f)) f never (fun _ => redRounds f) (fun _ => tElems f) (some 3) 8
    (fun c r =>
      let fm := typeFmt f.t.toNat
      let n := tElems f
      let p := govPred c cl f.p.toNat
      let seg := f.x.getLsbD 16
      let hp := bits f.x 15 13
      let heads (i : Nat) := seg && govBit n (govPred c cl hp) i
      vResult c cl f 1 n fm.container (srcRowPois c cl f.a.toNat || (seg && govPois c cl hp)) 0
        fun i =>
          let h := segHead heads i
          let len := if f.x.getLsbD 17 then i - h else i + 1 - h
          reduceElems c fm f.rop (r i) ((List.range len).map fun j =>
            if govBit n p (h + j) then some (elemAt fm.container (srcRow c cl f.a.toNat) (h + j)) else none)) s

/-! ## Compare-and-swap -/

/-- Lane `i` ranks at least as high as lane `j` (R371): by key, then by the lower companion. -/
def casHigher (fm : Fmt) (a b : Nat → Nat) (i j : Nat) : Bool :=
  if keyAbove fm (a i) (a j) then true
  else if keyAbove fm (a j) (a i) then false else decide (b i ≤ b j)

/-- VCAS (R371). -/
def execVcas (cl : Cluster) (f : VSyl) (s : State) :=
  vecOp cl (enc (.vcas cl f)) f never (some 0) 2
    (fun c =>
      let fm := typeFmt f.t.toNat
      let n := tElems f
      let dist := 2 ^ bits f.x 3 0
      let dir := bits f.x 7 4
      let p := govPred c cl f.p.toNat
      let a (i : Nat) := elemAt fm.container (srcRow c cl f.a.toNat) i
      let b (i : Nat) := elemAt fm.container (srcRow c cl f.b.toNat) i
      let low (x : Nat) := x - x / dist % 2 * dist
      pairResult c cl f (fun x => govBit n p (low x)) (srcRowPois c cl f.a.toNat || srcRowPois c cl f.b.toNat)
        fun y =>
          let x := y % n
          let i := low x
          let j := i + dist
          let desc := (dir == 15 || i / 2 ^ dir % 2 == 0) != f.x.getLsbD 8
          let stay := desc == casHigher fm a b i j
          let src := if (x == i) == stay then i else j
          if y < n then a src else b src) s

end Sys2Proof.Machine
end

