-- ==== Sys2Proof/Machine/Dispatch.lean ====
section
/-! DEFINITION. The one match from instructions to meanings, an arm per constructor of Instr. -/

namespace Sys2Proof.Machine

def exec (i : Instr) (s : State) : Host.Outcome State Fault Refusal :=
  match i with
  | .nop sl bits => Sys2Proof.Machine.execNop sl bits s
  | .hintRegion sl bits => Sys2Proof.Machine.execHintRegion sl bits s
  | .add f => Sys2Proof.Machine.execAdd f s
  | .addi f => Sys2Proof.Machine.execAddi f s
  | .sub f => Sys2Proof.Machine.execSub f s
  | .and f => Sys2Proof.Machine.execAnd f s
  | .or f => Sys2Proof.Machine.execOr f s
  | .xor f => Sys2Proof.Machine.execXor f s
  | .andn f => Sys2Proof.Machine.execAndn f s
  | .shl f => Sys2Proof.Machine.execShl f s
  | .shr f => Sys2Proof.Machine.execShr f s
  | .sar f => Sys2Proof.Machine.execSar f s
  | .rotr f => Sys2Proof.Machine.execRotr f s
  | .mini f => Sys2Proof.Machine.execMini f s
  | .maxi f => Sys2Proof.Machine.execMaxi f s
  | .minz f => Sys2Proof.Machine.execMinz f s
  | .maxz f => Sys2Proof.Machine.execMaxz f s
  | .clz f => Sys2Proof.Machine.execClz f s
  | .popc f => Sys2Proof.Machine.execPopc f s
  | .mul f => Sys2Proof.Machine.execMul f s
  | .mulh f => Sys2Proof.Machine.execMulh f s
  | .mulhz f => Sys2Proof.Machine.execMulhz f s
  | .div f => Sys2Proof.Machine.execDiv f s
  | .divz f => Sys2Proof.Machine.execDivz f s
  | .bfx f => Sys2Proof.Machine.execBfx f s
  | .bfxz f => Sys2Proof.Machine.execBfxz f s
  | .bfi f => Sys2Proof.Machine.execBfi f s
  | .sel f => Sys2Proof.Machine.execSel f s
  | .li f => Sys2Proof.Machine.execLi f s
  | .lih f => Sys2Proof.Machine.execLih f s
  | .mov f => Sys2Proof.Machine.execMov f s
  | .movTl f => Sys2Proof.Machine.execMovTl f s
  | .cmp f => Sys2Proof.Machine.execCmp f s
  | .cmpi f => Sys2Proof.Machine.execCmpi f s
  | .gset f => Sys2Proof.Machine.execGset f s
  | .addr f => Sys2Proof.Machine.execAddr f s
  | .fadd f => Sys2Proof.Machine.execFadd f s
  | .fmul f => Sys2Proof.Machine.execFmul f s
  | .ffma f => Sys2Proof.Machine.execFfma f s
  | .fcmp f => Sys2Proof.Machine.execFcmp f s
  | .fcvt f => Sys2Proof.Machine.execFcvt f s
  | .br f => Sys2Proof.Machine.execBr f s
  | .call f => Sys2Proof.Machine.execCall f s
  | .ret f => Sys2Proof.Machine.execRet f s
  | .loop f => Sys2Proof.Machine.execLoop f s
  | .loopi f => Sys2Proof.Machine.execLoopi f s
  | .brk f => Sys2Proof.Machine.execBrk f s
  | .ntreq f => Sys2Proof.Machine.execNtreq f s
  | .tileLanding cid => Sys2Proof.Machine.execTileLanding cid s
  | .sysr f => Sys2Proof.Machine.execSysr f s
  | .sysw f => Sys2Proof.Machine.execSysw f s
  | .lcbWrite f => Sys2Proof.Machine.execLcbWrite f s
  | .tebWrite f => Sys2Proof.Machine.execTebWrite f s
  | .nbvWrite f => Sys2Proof.Machine.execNbvWrite f s
  | .prioWrite f => Sys2Proof.Machine.execPrioWrite f s
  | .flagsWrite f => Sys2Proof.Machine.execFlagsWrite f s
  | .phtselWrite f => Sys2Proof.Machine.execPhtselWrite f s
  | .lstkWrite f => Sys2Proof.Machine.execLstkWrite f s
  | .trapaWrite f => Sys2Proof.Machine.execTrapaWrite f s
  | .ccnr f => Sys2Proof.Machine.execCcnr f s
  | .trap f => Sys2Proof.Machine.execTrap f s
  | .trapHsave f => Sys2Proof.Machine.execTrapHsave f s
  | .trapHload f => Sys2Proof.Machine.execTrapHload f s
  | .trapCres f => Sys2Proof.Machine.execTrapCres f s
  | .trapCabn f => Sys2Proof.Machine.execTrapCabn f s
  | .trapKill f => Sys2Proof.Machine.execTrapKill f s
  | .trapCancel f => Sys2Proof.Machine.execTrapCancel f s
  | .rft f => Sys2Proof.Machine.execRft f s
  | .tend f => Sys2Proof.Machine.execTend f s
  | .vadd cl f => Sys2Proof.Machine.execVadd cl f s
  | .vsub cl f => Sys2Proof.Machine.execVsub cl f s
  | .vmul cl f => Sys2Proof.Machine.execVmul cl f s
  | .vmad cl f => Sys2Proof.Machine.execVmad cl f s
  | .vmulw cl f => Sys2Proof.Machine.execVmulw cl f s
  | .vdot4 cl f => Sys2Proof.Machine.execVdot4 cl f s
  | .vabs cl f => Sys2Proof.Machine.execVabs cl f s
  | .vneg cl f => Sys2Proof.Machine.execVneg cl f s
  | .vmin cl f => Sys2Proof.Machine.execVmin cl f s
  | .vmax cl f => Sys2Proof.Machine.execVmax cl f s
  | .vminp cl f => Sys2Proof.Machine.execVminp cl f s
  | .vmaxp cl f => Sys2Proof.Machine.execVmaxp cl f s
  | .vclmp cl f => Sys2Proof.Machine.execVclmp cl f s
  | .vand cl f => Sys2Proof.Machine.execVand cl f s
  | .vor cl f => Sys2Proof.Machine.execVor cl f s
  | .vxor cl f => Sys2Proof.Machine.execVxor cl f s
  | .vandn cl f => Sys2Proof.Machine.execVandn cl f s
  | .vshl cl f => Sys2Proof.Machine.execVshl cl f s
  | .vshr cl f => Sys2Proof.Machine.execVshr cl f s
  | .vsar cl f => Sys2Proof.Machine.execVsar cl f s
  | .vclz cl f => Sys2Proof.Machine.execVclz cl f s
  | .vpopc cl f => Sys2Proof.Machine.execVpopc cl f s
  | .vflr cl f => Sys2Proof.Machine.execVflr cl f s
  | .vcmp cl f => Sys2Proof.Machine.execVcmp cl f s
  | .vsel cl f => Sys2Proof.Machine.execVsel cl f s
  | .vmov cl f => Sys2Proof.Machine.execVmov cl f s
  | .vmovx cl f => Sys2Proof.Machine.execVmovx cl f s
  | .vbcs cl f => Sys2Proof.Machine.execVbcs cl f s
  | .vbcl cl f => Sys2Proof.Machine.execVbcl cl f s
  | .vext cl f => Sys2Proof.Machine.execVext cl f s
  | .viota cl f => Sys2Proof.Machine.execViota cl f s
  | .vperm cl f => Sys2Proof.Machine.execVperm cl f s
  | .vrot cl f => Sys2Proof.Machine.execVrot cl f s
  | .vzip cl f => Sys2Proof.Machine.execVzip cl f s
  | .vuzp cl f => Sys2Proof.Machine.execVuzp cl f s
  | .vcvt cl f => Sys2Proof.Machine.execVcvt cl f s
  | .vwid cl f => Sys2Proof.Machine.execVwid cl f s
  | .vnar cl f => Sys2Proof.Machine.execVnar cl f s
  | .vscl cl f => Sys2Proof.Machine.execVscl cl f s
  | .vbin cl f => Sys2Proof.Machine.execVbin cl f s
  | .vunbn cl f => Sys2Proof.Machine.execVunbn cl f s
  | .vexp2 cl f => Sys2Proof.Machine.execVexp2 cl f s
  | .vlog2 cl f => Sys2Proof.Machine.execVlog2 cl f s
  | .vrcp cl f => Sys2Proof.Machine.execVrcp cl f s
  | .vrsq cl f => Sys2Proof.Machine.execVrsq cl f s
  | .vsqrt cl f => Sys2Proof.Machine.execVsqrt cl f s
  | .vrngs cl f => Sys2Proof.Machine.execVrngs cl f s
  | .vrng cl f => Sys2Proof.Machine.execVrng cl f s
  | .vred cl f => Sys2Proof.Machine.execVred cl f s
  | .vramx cl f => Sys2Proof.Machine.execVramx cl f s
  | .vramn cl f => Sys2Proof.Machine.execVramn cl f s
  | .vscan cl f => Sys2Proof.Machine.execVscan cl f s
  | .vcas cl f => Sys2Proof.Machine.execVcas cl f s
  | .pand cl f => Sys2Proof.Machine.execPand cl f s
  | .por cl f => Sys2Proof.Machine.execPor cl f s
  | .pxor cl f => Sys2Proof.Machine.execPxor cl f s
  | .pandn cl f => Sys2Proof.Machine.execPandn cl f s
  | .pmov cl f => Sys2Proof.Machine.execPmov cl f s
  | .pset cl f => Sys2Proof.Machine.execPset cl f s
  | .pfirst cl f => Sys2Proof.Machine.execPfirst cl f s
  | .pcnt cl f => Sys2Proof.Machine.execPcnt cl f s
  | .ld f => Sys2Proof.Machine.execLd f s
  | .ldSp f => Sys2Proof.Machine.execLdSp f s
  | .ldc f => Sys2Proof.Machine.execLdc f s
  | .lds f => Sys2Proof.Machine.execLds f s
  | .ldsSp f => Sys2Proof.Machine.execLdsSp f s
  | .ldt f => Sys2Proof.Machine.execLdt f s
  | .st f => Sys2Proof.Machine.execSt f s
  | .stc f => Sys2Proof.Machine.execStc f s
  | .sts f => Sys2Proof.Machine.execSts f s
  | .stt f => Sys2Proof.Machine.execStt f s
  | .stz f => Sys2Proof.Machine.execStz f s
  | .resultLanding cid => Sys2Proof.Machine.execResultLanding cid s
  | .timedLoadRowRead cid => Sys2Proof.Machine.execTimedLoadRowRead cid s
  | .timedStoreRowWrite cid => Sys2Proof.Machine.execTimedStoreRowWrite cid s
  | .mlw h o => Sys2Proof.Machine.execMlw h o s
  | .mma h o => Sys2Proof.Machine.execMma h o s
  | .mdrn h o => Sys2Proof.Machine.execMdrn h o s
  | .mdrc h o => Sys2Proof.Machine.execMdrc h o s
  | .mclr h o => Sys2Proof.Machine.execMclr h o s
  | .mwsw h o => Sys2Proof.Machine.execMwsw h o s
  | .mmsk h o => Sys2Proof.Machine.execMmsk h o s
  | .matrixCommandCompletion core => Sys2Proof.Machine.execMatrixCommandCompletion core s
  | .cpy h o => Sys2Proof.Machine.execCpy h o s
  | .cpw h o => Sys2Proof.Machine.execCpw h o s
  | .cpx h o => Sys2Proof.Machine.execCpx h o s
  | .cpmc h o => Sys2Proof.Machine.execCpmc h o s
  | .cpg h o => Sys2Proof.Machine.execCpg h o s
  | .cps h o => Sys2Proof.Machine.execCps h o s
  | .cpaa h o => Sys2Proof.Machine.execCpaa h o s
  | .cpld h o => Sys2Proof.Machine.execCpld h o s
  | .cpst h o => Sys2Proof.Machine.execCpst h o s
  | .amo h o => Sys2Proof.Machine.execAmo h o s
  | .vamo h o => Sys2Proof.Machine.execVamo h o s
  | .pft h o => Sys2Proof.Machine.execPft h o s
  | .strm h o => Sys2Proof.Machine.execStrm h o s
  | .strmGraphReplace core cmd => Sys2Proof.Machine.execStrmGraphReplace core cmd s
  | .invp h o => Sys2Proof.Machine.execInvp h o s
  | .shpl h o => Sys2Proof.Machine.execShpl h o s
  | .swait f => Sys2Proof.Machine.execSwait f s
  | .ssig f => Sys2Proof.Machine.execSsig f s
  | .sset f => Sys2Proof.Machine.execSset f s
  | .sfaa f => Sys2Proof.Machine.execSfaa f s
  | .scas f => Sys2Proof.Machine.execScas f s
  | .semaphoreUpdateApply core => Sys2Proof.Machine.execSemaphoreUpdateApply core s
  | .phreg f => Sys2Proof.Machine.execPhreg f s
  | .phdrp f => Sys2Proof.Machine.execPhdrp f s
  | .pharv f => Sys2Proof.Machine.execPharv f s
  | .phwt f => Sys2Proof.Machine.execPhwt f s
  | .phaw f => Sys2Proof.Machine.execPhaw f s
  | .pend f => Sys2Proof.Machine.execPend f s
  | .signOffSend cid => Sys2Proof.Machine.execSignOffSend cid s
  | .signOffArrival part task => Sys2Proof.Machine.execSignOffArrival part task s
  | .phaseStart part task => Sys2Proof.Machine.execPhaseStart part task s
  | .psel f => Sys2Proof.Machine.execPsel f s
  | .fence f => Sys2Proof.Machine.execFence f s
  | .yield f => Sys2Proof.Machine.execYield f s
  | .hint f => Sys2Proof.Machine.execHint f s
  | .selectedContextIssue core => Sys2Proof.Machine.execSelectedContextIssue core s
  | .timedCommandBegin core cmd => Sys2Proof.Machine.execTimedCommandBegin core cmd s
  | .untimedCommandBegin core cmd => Sys2Proof.Machine.execUntimedCommandBegin core cmd s
  | .copyCommandCompletion core cmd => Sys2Proof.Machine.execCopyCommandCompletion core cmd s
  | .packetIssue core => Sys2Proof.Machine.execPacketIssue core s
  | .packetReply core pkt => Sys2Proof.Machine.execPacketReply core pkt s
  | .packetPerform core pkt => Sys2Proof.Machine.execPacketPerform core pkt s
  | .correctableThresholdCrossed part granule => Sys2Proof.Machine.execCorrectableThresholdCrossed part granule s
  | .refreshLimitReached part ctrl => Sys2Proof.Machine.execRefreshLimitReached part ctrl s
  | .tlbWalkComplete part die page => Sys2Proof.Machine.execTlbWalkComplete part die page s
  | .compressedPageExpansion part page => Sys2Proof.Machine.execCompressedPageExpansion part page s
  | .accessCounterThreshold part die region => Sys2Proof.Machine.execAccessCounterThreshold part die region s
  | .scrubberPass core => Sys2Proof.Machine.execScrubberPass core s
  | .launchTaskRecord part ring => Sys2Proof.Machine.execLaunchTaskRecord part ring s
  | .launchNopRecord part ring => Sys2Proof.Machine.execLaunchNopRecord part ring s
  | .ringStampWaitExpiry part ring => Sys2Proof.Machine.execRingStampWaitExpiry part ring s
  | .gangBind part task => Sys2Proof.Machine.execGangBind part task s
  | .preemptionRequest part task => Sys2Proof.Machine.execPreemptionRequest part task s
  | .gangRebind part task => Sys2Proof.Machine.execGangRebind part task s
  | .taskCompletion part task => Sys2Proof.Machine.execTaskCompletion part task s
  | .supervisorEventDispatch core => Sys2Proof.Machine.execSupervisorEventDispatch core s
  | .doorbellWrite w => Sys2Proof.Machine.execDoorbellWrite w s
  | .dbcWrite req k v => Sys2Proof.Machine.execDbcWrite req k v s
  | .dbhWrite req k v => Sys2Proof.Machine.execDbhWrite req k v s
  | .dbignWrite req k => Sys2Proof.Machine.execDbignWrite req k s
  | .hostBar2Write part off data trusted => Sys2Proof.Machine.execHostBar2Write part off data trusted s
  | .hostBar2Read part off len trusted => Sys2Proof.Machine.execHostBar2Read part off len trusted s
  | .hostAtomicop r => Sys2Proof.Machine.execHostAtomicop r s
  | .msixVectorUnmask req vec => Sys2Proof.Machine.execMsixVectorUnmask req vec s
  | .ideIntegrityFailure part => Sys2Proof.Machine.execIdeIntegrityFailure part s
  | .spdmRequest part req => Sys2Proof.Machine.execSpdmRequest part req s
  | .flitReceive port seq crcOk payload => Sys2Proof.Machine.execFlitReceive port seq crcOk payload s
  | .linkAck port base bitmap nak => Sys2Proof.Machine.execLinkAck port base bitmap nak s
  | .linkRetrain port ok => Sys2Proof.Machine.execLinkRetrain port ok s
  | .gcmTagVerify port ok => Sys2Proof.Machine.execGcmTagVerify port ok s
  | .laneFailure port good => Sys2Proof.Machine.execLaneFailure port good s
  | .fabricResponseTimeout core pkt => Sys2Proof.Machine.execFabricResponseTimeout core pkt s
  | .remoteRequestArrival r => Sys2Proof.Machine.execRemoteRequestArrival r s
  | .powerLimiter overBudget => Sys2Proof.Machine.execPowerLimiter overBudget s
  | .controllerRetrainComplete part ctrl => Sys2Proof.Machine.execControllerRetrainComplete part ctrl s
  | .illegalOpcode sl bits => Sys2Proof.Machine.execIllegalOpcode sl bits s
  | .tdispRequest part target => Sys2Proof.Machine.execTdispRequest part target s
  | .phaserViewUpdate core ph => Sys2Proof.Machine.execPhaserViewUpdate core ph s
  | .partset => Sys2Proof.Machine.execPartset s
  | .fabaddr => Sys2Proof.Machine.execFabaddr s
  | .pbase => Sys2Proof.Machine.execPbase s
  | .pair => Sys2Proof.Machine.execPair s
  | .xroot => Sys2Proof.Machine.execXroot s
  | .xinval => Sys2Proof.Machine.execXinval s
  | .expool => Sys2Proof.Machine.execExpool s
  | .compress => Sys2Proof.Machine.execCompress s
  | .peercopy => Sys2Proof.Machine.execPeercopy s
  | .errlog => Sys2Proof.Machine.execErrlog s
  | .faq => Sys2Proof.Machine.execFaq s
  | .migq => Sys2Proof.Machine.execMigq s
  | .cethr => Sys2Proof.Machine.execCethr s
  | .phallot => Sys2Proof.Machine.execPhallot s
  | .latchl => Sys2Proof.Machine.execLatchl s
  | .physmap => Sys2Proof.Machine.execPhysmap s
  | .signer => Sys2Proof.Machine.execSigner s
  | .load => Sys2Proof.Machine.execLoad s
  | .cancel => Sys2Proof.Machine.execCancel s
  | .wreset => Sys2Proof.Machine.execWreset s
  | .badadd => Sys2Proof.Machine.execBadadd s
  | .badread => Sys2Proof.Machine.execBadread s
  | .retire => Sys2Proof.Machine.execRetire s
  | .counters => Sys2Proof.Machine.execCounters s
  | .ports => Sys2Proof.Machine.execPorts s
  | .trace => Sys2Proof.Machine.execTrace s
  | .fwprov => Sys2Proof.Machine.execFwprov s
  | .mailboxCommandComplete => Sys2Proof.Machine.execMailboxCommandComplete s
  | .coldReset => Sys2Proof.Machine.execColdReset s
  | .unknownOpc => Sys2Proof.Machine.execUnknownOpc s

end Sys2Proof.Machine
end

