-- ==== Sys2Proof/Machine/Release.lean ====
section
/-! DEFINITION. Releases (R205, R207, R209, R212): what one still waits for, and what it lets go. -/

namespace Sys2Proof.Machine

/-- The timed accesses named by their place in issue order have performed. -/
def storesDone (c : Ctx) (l : List Nat) : Bool :=
  l.all fun q => !(c.fly.stores.any (·.seq == q)) && !(c.fly.loads.any fun x => x.seq == q && x.data.isNone)

/-- A release with these scopes covers an access to memory (R205): one to storage in its scope, or a remote write within
its agent scope; `p` is the partition of the access's core, whose alias counts as its DRAM (R241). -/
def covers (s : State) (p agent : Nat) (store : BitVec 3) (write : Bool) (d : Dest) : Bool :=
  if d = .local p ∨ d = .window p then store.getLsbD 1
  else if write then withinScope s.dev agent d
  else store.getLsbD 2

/-- A packet has performed as far as a release of these scopes asks (R200, R205): one to another partition or device
once it is answered. -/
def pktDone (s : State) (p agent : Nat) (store : BitVec 3) (k : Pkt) : Bool :=
  !covers s p agent store (k.acc != 0) k.dest ||
    ((k.dest == .local p || k.dest == .window p) && k.stage == .performed)

/-- Where a command's packets go does not rest on rows it has still to read (R289, R372). -/
def Cmd.addressed (c : Cmd) : Bool := c.total.isSome || (c.kind != .cpg && c.kind != .cps && c.kind != .vamo)

/-- A release need not wait for packet `i`, still to issue (R205): the translation that stands now leads outside
(log 72). -/
def packetOutside (s : State) (core agent : Nat) (store : BitVec 3) (c : Cmd) (i : Nat) : Bool :=
  let p := partOfCore s.dev core
  match c.packetVa i with
  | none => true
  | some va =>
    ((leafOf s core c va).or (walk s p va)).any fun l => !covers s p agent store (c.packetAcc i != 0) (destOf s p l.pte (leafPa l va))

/-- Every packet of a command that a release covers has been issued: of one that has still to begin too. -/
def coveredIssued (s : State) (core agent : Nat) (store : BitVec 3) (c : Cmd) : Bool :=
  allIssued c || (c.addressed && (List.range (c.total.getD c.plans.length)).all fun i =>
    decide (i < c.next) || packetOutside s core agent store c i)

/-- The accesses of one earlier command have performed as far as a release asks (R205). -/
def cmdDone (s : State) (core agent : Nat) (store : BitVec 3) (n : Nat) : Bool :=
  let k := coreOf s core
  let p := partOfCore s.dev core
  let mem := store.getLsbD 1 || store.getLsbD 2 || agent ≥ 5
  let busyM := (k.mq.any fun m => m.id == n && (store.getLsbD 0 ||
      (m.kind == .mdrc && mem && !coveredIssued s core agent store m.copy))) ||
    (store.getLsbD 0 && k.mrun.any (·.cmd.id == n))
  !busyM && match k.cq.find? (·.id == n) with
    | none => true
    | some c =>
      (!store.getLsbD 0 || (!writesScratch c.kind && c.total.isSome)) &&
        (!mem || !usesMemory c.kind ||
          ((k.pkts.filter (·.cmd == n)).all (pktDone s p agent store) && coveredIssued s core agent store c))

/-- A release of the context is complete (R205): timed accesses are to the scratchpad. -/
def relDone (s : State) (id : Nat) (r : Release) : Bool :=
  (!r.store.getLsbD 0 || storesDone (ctxOf s id) r.stores) && r.cmds.all (cmdDone s (id / 5) r.agent r.store)

/-- The operations of a core that can reach the sync engine now do so, in order (R207, R218). -/
def phDrain (core : Nat) (s : State) : State :=
  (coreOf s core).phq.foldl (fun s o =>
    let q := (coreOf s core).phq
    match q.find? (·.id == o.id) with
    | some f =>
      if f = o && o.rel.all (relDone s o.id) then
        phApply o (updCore core (fun k => { k with phq := k.phq.erase o }) s)
      else s
    | none => s) s

/-- Releases that are complete let go what they guard (R205, R207, R209, R212). -/
def settleReleases (core : Nat) (s : State) : State :=
  let pend (id : Nat) (l : List Release) : List Release := l.filter fun r => !relDone s id r
  let s' := updCore core (fun k => { k with
    semq := k.semq.map fun u =>
      if u.rel.isEmpty then u
      else
        let l := pend (ctxId core u.slot) u.rel
        { u with rel := l, due := if l.isEmpty then max u.due (now s + 1) else u.due }
    mq := k.mq.map fun m =>
      if m.fences.isEmpty then m else { m with fences := pend (ctxId core m.slot) m.fences }
    cq := k.cq.map fun c =>
      { c with
        fences := pend (ctxId core c.slot) c.fences
        rel := c.rel.filter fun r => !relDone s (ctxId core c.slot) r } }) s
  [0, 1, 2, 3, 4].foldl (fun t sl =>
    let id := ctxId core sl
    if (ctxOf t id).fences.isEmpty then t else updCtx id (fun c => { c with fences := pend id c.fences }) t) s'

end Sys2Proof.Machine
end

