-- ==== Sys2Proof/Machine/Issue.lean ====
section
/-! DEFINITION. The issue of a bundle (R38, R39, R43, R45, R74, R122, R142, R249, R250, R316, R334): its fetch, its eight
syllables, the one cause it reports, and the position after it. -/

namespace Sys2Proof.Machine

/-! ## Fetch (R120, R191, R249, R254) -/

/-- A fault of a bundle's fetch (R249, R254). -/
def fetchEvent (s : State) (id cause : Nat) : Event :=
  let va := bundleVa (ctxOf s id)
  { cause := cause, slot := id % 5, async := false, fetch := true, detail := 0, va := va, syl := 15, val := va }

/-- The supervisor's bundles lie in the firmware image that was loaded, from its first byte (DEDUCED, log 23); none
beyond it. -/
def fetchSuper (s : State) (id : Nat) : Except Nat (BitVec 512) × State :=
  let at_ := 64 * (ctxOf s id).pos.pc
  if at_ + 64 ≤ s.dev.fwLen then
    (.ok (BitVec.ofNat 512 (leNat ((List.range 64).map fun i => tget 0 (at_ + i) s.dev.fw))), s)
  else (.error 0x08, s)

/-- The bundle a context issues next. -/
def fetch (s : State) (id : Nat) : Except Nat (BitVec 512) × State :=
  if id % 5 = 4 then fetchSuper s id else fetchTask s id

/-! ## The syllables -/

/-- A syllable that is neither a NOP nor a hint (R327, R344). -/
def busySyllable : Instr → Bool
  | .nop _ _ => false
  | .hintRegion _ _ => false
  | .hint _ => false
  | _ => true

/-- The marks of a bundle: a sill point (R40, R132), and the slots that hold more than a NOP or a hint. -/
def bundleMarks (b : BitVec 512) : Bundle :=
  { sill := sillBundle b
    busy := (decodeBundle b).foldl (fun m x => setBit m x.1.num (busySyllable x.2)) 0 }

/-- A candidate for the cause a bundle reports (R250): its slot, and the event. -/
abbrev Candidate := Nat × Event

/-- What the syllables have made of the state, and the causes they raise. A syllable that raises has no effect. -/
structure Syllables where
  s : State
  raised : List Candidate
  deriving DecidableEq, Repr

/-- The cause a syllable raised: that of a trapped task context, or of the supervisor's core being fenced. -/
def raisedEvent (id : Nat) (before after : State) : Option Event :=
  if id % 5 = 4 then
    if (coreOf after (id / 5)).sup.fenced && !(coreOf before (id / 5)).sup.fenced then
      some (fetchEvent before id 0x01)
    else none
  else if isTrapped (ctxOf after id) then (ctxOf after id).event
  else none

/-- One syllable of a bundle. -/
def runSyllable (id : Nat) (a : Syllables) (x : Slot × Instr) : Syllables :=
  match exec x.2 a.s with
  | .next t =>
    match raisedEvent id a.s t with
    | some e => { a with raised := a.raised ++ [(x.1.num, e)] }
    | none => { a with s := t }
  | _ => a

/-- A sill bundle lies outside every loop, or first in the body of the innermost loop that holds it (R43). -/
def sillPlaced (p : Pos) : Bool :=
  match p.loops.find? fun e => decide (e.start ≤ p.pc) && decide (p.pc ≤ e.stop) with
  | some e => e.start == p.pc
  | none => true

/-- What a sill mark raises (R43, R142): in a delay bundle, and where the conditions of a sill point do not hold. -/
def sillRaises (s : State) (b : BitVec 512) : List Candidate :=
  let id := curId s
  let c := cur s
  let ev (k : Nat) : List Candidate := [(7, issueEvent s 7 ⟨k, 0, 0⟩)]
  (if b.getLsbD 505 && inDelay c then ev 0x01 else []) ++
    if s.bnd.sill && (exposed s id || timedBusy s s.core s.slot || !sillPlaced c.pos) then ev 0x05 else []

/-- The cause a bundle reports (R250): the first in order, of equal ones that of the lowest slot. -/
def reported (l : List Candidate) : Option Event :=
  (leastBy (fun x => issueRank x.2.cause * 8 + x.1) l).map (·.2)

/-! ## The bundle -/

/-- A phase's first bundle begins it (R39, R42). -/
def enterPhase (c : Ctx) : Ctx :=
  if c.pos.fresh then { c with pos := { c.pos with fresh := false, inph := true } } else c

/-- The bypass registers hold what landed for this bundle alone, held or issued (R74). -/
def clearBypass (c : Ctx) : Ctx := { c with regs := { c.regs with byp := [], bypPois := 0 } }

/-- A context after its bundle has issued: the clock goes on (R39), and the position unless its phase or part has
ended. -/
def afterIssue (c : Ctx) : Ctx :=
  let c := clearBypass c
  let p := match c.status with
    | .transom _ => c.pos
    | .ended => c.pos
    | _ => nextPos c.pos
  { c with pos := { p with clk := c.pos.clk + 1 } }

/-- A bundle of the core has issued in this cycle. -/
def markIssued (core sl : Nat) (s : State) : State :=
  updCore core (fun k => { k with issuedAt := now s + 1, issuedBy := sl }) s

/-- An RFT that executes waits for the supervisor's results and transfers (R334, R256). -/
def rftWaits (s : State) (b : BitVec 512) : Bool :=
  match decodeSyl .s (syllable b .s) with
  | .rft f => isSuper s && guardOn f (cur s) && rftBusy s
  | _ => false

/-- The trap of a bundle takes nothing of it with it (R122, R250); a PEND or TEND with the schedule fault returns its
tiles (R40, R323). -/
def trapBundle (id : Nat) (e : Event) (b : BitVec 512) (s : State) : State :=
  let ends := opField .sy (syllable b .sy) == 0x10 || opField .s (syllable b .s) == 0x3E
  let s := if e.cause = 0x05 ∧ ends then returnTiles id s else s
  takeTrap id e s

/-- The supervisor's RFT has freed it: nothing is left to advance. -/
def stillThere (id : Nat) (s : State) : Bool := id % 5 != 4 || (ctxOf s id).status != .unbound

/-- The eight syllables of a bundle, and what becomes of it (R45, R122, R250). -/
def runBundle (b : BitVec 512) (s : State) : State :=
  let id := curId s
  let s := { s with bnd := bundleMarks b }
  let a := (decodeBundle b).foldl (runSyllable id) { s := updCtx id enterPhase s, raised := [] }
  match reported (a.raised ++ sillRaises s b) with
  | some e => trapBundle id e b s
  | none =>
    if s.bnd.sill && !isSuper s && eventPending s s.core then
      invoke s.core 7 7 (updCtx id (fun c => { clearBypass c with status := .waiting .sill false }) s)
    else if rftWaits s b then
      markIssued s.core s.slot (updCtx id (fun c =>
        { clearBypass c with pos := { c.pos with clk := c.pos.clk + 1 } }) s)
    else
      match (ctxOf a.s id).status with
      | .waiting w false => stall w (updCtx id clearBypass s)
      | _ =>
        let t := markIssued s.core s.slot a.s
        if stillThere id t then updCtx id afterIssue t else t

/-- THE ISSUE OF A BUNDLE by the context that holds a core's issue slot. -/
def issueBundle (core : Nat) (s : State) : State :=
  let sl := (coreOf s core).sel.cur
  let id := ctxId core sl
  match fetch { s with core := core, slot := sl } id with
  | (.error k, s) => takeTrap id (fetchEvent s id k) s
  | (.ok b, s) => runBundle b s

end Sys2Proof.Machine
end

