-- ==== Sys2Proof/Machine/Sched.lean ====
section
/-! DEFINITION. What the machine does next (log 40): within a CCN cycle the inputs that are due, the selector, the
bundles, the engines, the updates and the landings, in the order the spec's cycle rules ask for; then, of what the
spec leaves to no cycle, a free choice; and last the end of the cycle. -/

namespace Sys2Proof.Machine

/-- One step: of the table, a bundle of a core, or the end of the cycle. -/
inductive Action where
  | instr (i : Instr)
  | bundle (core : Nat)
  | tick
  deriving DecidableEq, Repr

/-- A number takes its place in a rising list. -/
def insertRising (n : Nat) : List Nat → List Nat
  | [] => [n]
  | m :: l => if n < m then n :: m :: l else if n = m then m :: l else m :: insertRising n l
/-- The cores in use, in order: those whose state is not as at reset, and those of contexts. -/
def liveCores (s : State) : List Nat :=
  (s.ctxs.map fun e => e.1 / 5).foldl (fun l c => insertRising c l) (s.cores.map (·.1))
/-- The contexts in use. -/
def liveCtxs (s : State) : List Nat := s.ctxs.map (·.1)
/-- The partitions. -/
def liveParts (s : State) : List Nat := List.range s.dev.parts

/-! ## The parts of a cycle -/

/-- No core has issued a bundle in this cycle: what becomes ready later in it is ready for the next, and so requests
of one cycle reach their sheaf in the order of the cores (R51). -/
def beforeBundles (s : State) : Bool := (liveCores s).all fun c => (coreOf s c).issuedAt != now s + 1

/-- A context can be given the issue slot (R46, R47). -/
def canSelect (s : State) (core : Nat) : Bool :=
  let k := (coreOf s core).sel
  beforeBundles s && ((issuer s core).isSome || (k.cur == 7 && k.sel == 7 && selectSlot s core 7 != 7))

/-- A core issues a bundle in this cycle (R45). -/
def canIssueBundle (s : State) (core : Nat) : Bool :=
  let k := coreOf s core
  decide (k.sel.cur < 5) && k.issuedAt != now s + 1 && (ctxOf s (ctxId core k.sel.cur)).status == .ready

/-- A timed command that this cycle discards before its bundle (R54, R212), if the bundle issues: otherwise the clock
does not reach its t+S (R251). -/
def dueDiscard (s : State) (core : Nat) : Option Nat :=
  match discardDue s core with
  | [] => none
  | l =>
    let t := issueBundle core s
    if canIssueBundle s core && (coreOf t core).issuedAt == now s + 1 then
      l.find? fun n => ((dueTimed t core).contains n) && match (coreOf t core).mq.find? (·.id == n), cmdOf t core n with
        | some m, _ => guardFalse (ctxOf t (ctxId core m.slot)) m.h
        | none, some q => guardFalse (ctxOf t (ctxId core q.slot)) q.h
        | none, none => false
    else none

/-- The untimed command of a core that its guard now discards (R55): its signal is of this cycle (R212). -/
def dueUntimedDiscard (s : State) (core : Nat) : Option Nat :=
  ((coreOf s core).cq.find? fun c =>
    untimedReady s core c && guardFalse (ctxOf s (ctxId core c.slot)) c.h).map (·.id)

/-- The untimed command of a core that begins now (R55). -/
def dueUntimed (s : State) (core : Nat) : Option Nat :=
  ((coreOf s core).cq.find? (untimedReady s core)).map (·.id)

/-- The SHPL of a core whose completion falls in this cycle (R339). -/
def dueShpl (s : State) (core : Nat) : Option Nat :=
  ((coreOf s core).cq.find? fun c => c.kind == .shpl && completeReady s core c).map (·.id)

/-- A sign-off reaches its root in this cycle (R41). -/
def arrivalDue (s : State) (x : Task) : Bool := x.signoffs.any fun o => !o.arrived && decide (o.arrive ≤ now s)

/-- A next phase begins in this cycle (R41). -/
def startDue (s : State) (x : Task) : Bool :=
  x.stage == .bound && (x.startAt.any (· ≤ now s) || x.signoffs.any fun o => o.start.any (· ≤ now s))

/-- The first task of a partition with a property. -/
def taskWith (s : State) (f : Task → Bool) : Option (Nat × Nat) :=
  (liveParts s).findSome? fun p =>
    ((partAt s p).launch.tasks.find? fun e => e.2.any f).map fun e => (p, e.1)

/-- The access counter of a partition that has reached its threshold (R231). -/
def dueAccess (s : State) : Option Action :=
  (liveParts s).findSome? fun p =>
    ((partAt s p).memory.acc.find? accReached).map fun x => .instr (.accessCounterThreshold p x.die x.region)

/-- What the rules place in this cycle, in order: none when the cycle has no more of it. -/
def nextTimed (s : State) : Option Action :=
  let cores := liveCores s
  let ctxs := liveCtxs s
  (taskWith s (startDue s)).map (fun t => .instr (.phaseStart t.1 t.2)) <|>
  (cores.find? fun c => (dueMatrix s c).isSome).map (fun c => .instr (.matrixCommandCompletion c)) <|>
  (cores.findSome? fun c => (dueShpl s c).map fun n => .instr (.copyCommandCompletion c n)) <|>
  (cores.find? (dispatchReady s)).map (fun c => .instr (.supervisorEventDispatch c)) <|>
  (cores.find? (canSelect s)).map (fun c => .instr (.selectedContextIssue c)) <|>
  (cores.findSome? fun c => (dueDiscard s c).map fun n => .instr (.timedCommandBegin c n)) <|>
  (cores.findSome? fun c => (dueUntimedDiscard s c).map fun n => .instr (.untimedCommandBegin c n)) <|>
  (cores.find? fun c => (dueUpdate s c).isSome).map (fun c => .instr (.semaphoreUpdateApply c)) <|>
  (cores.find? (canIssueBundle s)).map .bundle <|>
  (cores.findSome? fun c => ((dueTimed s c).head?).map fun n => .instr (.timedCommandBegin c n)) <|>
  (cores.findSome? fun c => ((coreOf s c).pkts.find? (timedOut s)).map fun x => .instr (.fabricResponseTimeout c x.id)) <|>
  (cores.findSome? fun c => (dueUntimed s c).map fun n => .instr (.untimedCommandBegin c n)) <|>
  (ctxs.find? fun id => (dueRead (ctxOf s id)).isSome).map (fun id => .instr (.timedLoadRowRead id)) <|>
  (ctxs.find? fun id => (dueWrite s id).isSome).map (fun id => .instr (.timedStoreRowWrite id)) <|>
  (ctxs.find? fun id => (dueLanding (ctxOf s id)).isSome).map (fun id => .instr (.resultLanding id)) <|>
  (ctxs.find? fun id => (dueTile (ctxOf s id)).isSome).map (fun id => .instr (.tileLanding id)) <|>
  (ctxs.find? (signOffReady s)).map (fun id => .instr (.signOffSend id)) <|>
  (taskWith s (arrivalDue s)).map (fun t => .instr (.signOffArrival t.1 t.2)) <|>
  dueAccess s <|>
  (cores.find? fun c => (scrubNext s c).isSome).map (fun c => .instr (.scrubberPass c))

/-! ## What no rule places in a cycle -/

/-- The copy engine's next steps on a core (R175, R176, R188). -/
def coreAsync (s : State) (core : Nat) : List Instr :=
  let k := coreOf s core
  (if (nextIssue s core).isSome then [Instr.packetIssue core] else []) ++
    ((k.pkts.filter (performReady s core)).map fun x => .packetPerform core x.id) ++
    ((k.pkts.filter (replyReady s core)).map fun x => .packetReply core x.id) ++
    ((k.cq.filter fun c => deliverReady s c || (c.kind != .shpl && completeReady s core c)).map fun c =>
      .copyCommandCompletion core c.id) ++
    ((k.cq.filter (replaceReady s core)).map fun c => .strmGraphReplace core c.id)

/-- The advances of phasers that a core's view has still to take (R219). -/
def viewAsync (s : State) (core : Nat) : List Instr :=
  ((s.dev.phasers.filter fun e =>
    (e.2.members.any fun m => m.1 / 5 == core) && tget 0 e.1 (coreOf s core).phView != e.2.cnt).map (·.1)).map
    (.phaserViewUpdate core)

/-- The next look at a ring (R27 to R30). -/
def ringAsync (s : State) (p : Nat) : List Instr :=
  (match nextRing s p with
   | none => []
   | some k =>
     match (readRecord p k s).1 with
     | some r => if bits r 19 16 = 0 then [.launchNopRecord p k] else [.launchTaskRecord p k]
     | none => [.launchTaskRecord p k]) ++
    ((List.range 8).filter (stampExpired s p)).map (.ringStampWaitExpiry p)

/-- What the task-graph unit can do with its tasks (R32, R35, R49, R50). -/
def taskAsync (s : State) (p : Nat) : List Instr :=
  ((partAt s p).launch.tasks.filterMap fun e => e.2.map fun x => (e.1, x)).flatMap fun e =>
    (if e.2.stage == .ready && (placement s p e.1).isSome then [Instr.gangBind p e.1] else []) ++
      (if e.2.stage == .preempted && (placement s p e.1).isSome then [.gangRebind p e.1] else []) ++
      (if (e.2.stage == .ready || e.2.stage == .preempted) && (victim s p e.1).isSome then
        [.preemptionRequest p e.1] else []) ++
      (if completable s e.2 then [.taskCompletion p e.1] else [])

/-- A packet at a controller of this device meets the refresh limit (R177). -/
def refreshAsync (s : State) (core : Nat) : List Instr :=
  (coreOf s core).pkts.filterMap fun x =>
    match x.dest with
    | .local q => if x.stage = .issued then some (.refreshLimitReached q (homeCtrl s q (x.pa / 256))) else none
    | _ => none

/-- The memory side's next steps (R192, R195, R197, R274). -/
def memAsync (s : State) (p : Nat) : List Instr :=
  let m := (partAt s p).memory
  (m.walks.map fun w => .tlbWalkComplete p w.1 w.2) ++ (m.expanding.map (.compressedPageExpansion p)) ++
    ((m.ceCount.filter fun e => m.cethr != 0 && decide (m.cethr ≤ e.2)).map fun e =>
      .correctableThresholdCrossed p e.1) ++
    m.retrain.map (.controllerRetrainComplete p)

/-- The links that retrain, either way (R228, R232). -/
def linkAsync (s : State) : List Instr :=
  (s.dev.ports.filter fun e => e.2.retraining).flatMap fun e => [.linkRetrain e.1 true, .linkRetrain e.1 false]

/-- Everything that may happen now in no given order. A device whose firmware has not verified starts no core
(R272); the task-graph unit, whose updates are atomics, comes before the writes of its cycle (R201). -/
def enabled (s : State) : List Instr :=
  ((liveCores s).flatMap fun c => coreAsync s c ++ viewAsync s c ++ refreshAsync s c) ++
    ((liveParts s).flatMap fun p => memAsync s p ++ if s.dev.fwUp && s.memBefore.isNone then ringAsync s p ++ taskAsync s p else []) ++
    linkAsync s ++
    if s.dev.mb.pending.isSome && commandDone s then [.mailboxCommandComplete] else []

/-- What the machine does next: what this cycle asks for, else a free choice among the rest and the end of the cycle
(log 5). -/
def pickNext (s : State) : Action × State :=
  match nextTimed s with
  | some a => (a, s)
  | none =>
    let l := enabled s
    if l.isEmpty then (.tick, s)
    else
      let (n, s) := choose (l.length + 1) s
      (((l[n]?).map .instr).getD .tick, s)

/-! ## The end of a cycle -/

/-- Publications whose cycle ends now set their tags (R69, R297): the engine's, the copy engine's, the gateway's,
then the stores'. -/
def settlePubs (core : Nat) (s : State) : State :=
  let due := (coreOf s core).st.pubs.filter fun x => decide (x.at_ ≤ now s)
  let sorted := (List.range 4).flatMap fun o => due.filter (·.ord == o)
  updStore core (fun st => { st with
    pubs := st.pubs.filter fun x => !decide (x.at_ ≤ now s)
    tags := sorted.foldl (fun m x => tset 0 x.tile x.tag m) st.tags }) s

/-- The ready time of a context that does not hold the issue slot (R46). -/
def ageCtx (id : Nat) (s : State) : State :=
  if id % 5 < 4 && isReady s id && (coreOf s (id / 5)).sel.cur != id % 5 then
    updCore (id / 5) (fun k => { k with sel := { k.sel with aged := tmod 0 (id % 5) (· + 1) k.sel.aged } }) s
  else s

/-- A choice made behind a context that could have kept the issue slot, and has not, counts from its invocation (R47). -/
def settleChoice (core : Nat) (s : State) : State :=
  let k := (coreOf s core).sel
  if k.cur = 7 ∧ k.keep < 5 ∧ k.invAt < now s then
    updCore core (fun k => { k with sel := { k.sel with keep := 7 }.chosen k.sel.sel 1 }) s
  else s

/-- The ports and lanes of a cycle are free again (R66). -/
def freePorts (core : Nat) (s : State) : State :=
  updCore core (fun k => { k with
    lanes := [], st := { k.st with rdUsed := [], wrUsed := [], scrubs := [], before := [] } }) s

/-- What a core's engines, publications and sync engine do at the end of a cycle: the ports timed accesses hold count
against the scrubber's pass (R80); the matrix engine's writes; the
untimed transfers in the ports and lanes it leaves (R66); releases, the sync engine's updates and publications. -/
def settleCore (core : Nat) (s : State) : State :=
  let s := gwWrites core (ceWrites core (ceReads core (matrixWrites core (countHeld core s))))
  settleReleases core (phDrain core (settlePubs core (copyFills core s)))

/-- THE END OF A CYCLE: the stores read their registers (R62), flags and shape records of engine commands land, the
engines write, releases, publications and the sync engine move on, boundary causes are taken (R250), CCN advances
(R200), waits see the semaphores' new values (R210), and the engines read for the new cycle. -/
def tick (s : State) : State :=
  let ids := liveCtxs s
  let s := ids.foldl (fun s id => updCtx id (fun c => settleLate (captureStores c)) s) s
  let s := (liveCores s).foldl (fun s c => settleCore c s) s
  let s := (liveCores s).foldl (fun s c => freePorts c (settleDeliveries c s)) s
  let s := (liveParts s).foldl (fun s p => settlePreempted p s) s
  let s := (liveCores s).foldl (fun s c => takeBridges c (coreOf s c).semq.length s) s
  let s := ids.foldl (fun s id => boundaryTrap id s) s
  let s := (liveCores s).foldl (fun s c => settleChoice c s) s
  let s := ids.foldl (fun s id => ageCtx id s) s
  let s := { s with ccn := s.ccn + 1, memBefore := none }
  (liveCores s).foldl (fun s c => copyReads c (matrixReads c (updCore c (fun k => { k with semView := k.sems }) s))) s

/-! ## Inputs -/

/-- The rows of the table that the world outside brings about. -/
def external : Instr → Bool
  | .doorbellWrite w => w.fromPort
  | .dbcWrite _ _ _ => true
  | .dbhWrite _ _ _ => true
  | .dbignWrite _ _ => true
  | .hostBar2Write _ _ _ _ => true
  | .hostBar2Read _ _ _ _ => true
  | .hostAtomicop _ => true
  | .msixVectorUnmask _ _ => true
  | .ideIntegrityFailure _ => true
  | .spdmRequest _ _ => true
  | .tdispRequest _ _ => true
  | .flitReceive _ _ _ _ => true
  | .linkAck _ _ _ _ => true
  | .gcmTagVerify _ _ => true
  | .laneFailure _ _ => true
  | .remoteRequestArrival _ => true
  | .powerLimiter _ => true
  | .coldReset => true
  | _ => false

/-- What an input does; one that is no input of the table does nothing. -/
def takeInput (i : Input) (s : State) : Host.Outcome State Fault Refusal :=
  match i with
  | .step i => if external i then exec i s else .next s
  | .mailbox off v => mbWrite off v s
  | .mailboxRead off len => .next (mbRead off len s)
  | .bar0Read p off len trusted => .next (bar0Read p off len trusted s)
  | .msixWrite p vec dword v trusted => .next (msixWrite p vec dword v trusted s)
  | .msixControl p enable mask => .next (msixControl p enable mask s)
  | .sramError core row word double => .next (strikeSram core row word double s)
  | .dramError p g double => .next (strikeDram p g double s)

/-- What an action does. -/
def runAction (a : Action) (s : State) : Host.Outcome State Fault Refusal :=
  match a with
  | .instr i => exec i s
  | .bundle core => .next (issueBundle core s)
  | .tick => .next (tick s)

/-- A peer's request can perform in this cycle: an atomic on bytes that no write of the cycle has changed (R201). -/
def requestFits (s : State) (r : RemoteReq) : Bool :=
  match r.op with
  | .atomic _ n _ _ => unwritten s r.part r.addr n
  | _ => true

/-- An input that is due can be taken in this cycle (R201). -/
def inputFits (s : State) : Input → Bool
  | .step (.hostAtomicop r) => unwritten s r.part r.off r.size
  | .step (.remoteRequestArrival r) => requestFits s r
  | .step (.gcmTagVerify port _) =>
    match (portOf s port).held with
    | (.request r, _) :: _ => requestFits s r
    | _ => true
  | _ => true

/-- An input brings a peer's write to a device alias (R241): as it comes, or as its tag verifies. -/
def aliasInput (s : State) : Input → Bool
  | .step (.remoteRequestArrival r) => inAlias r.addr && !r.held
  | .step (.gcmTagVerify port ok) =>
    match (portOf s port).held with
    | (.request r, _) :: _ => ok && inAlias r.addr
    | _ => false
  | _ => false

/-- An input is a doorbell write on the port. -/
def bellInput : Input → Bool
  | .step (.doorbellWrite w) => w.fromPort
  | _ => false

/-- The input taken now: the first that is due (log 4), but a port's doorbell write that is due goes before a peer's
access to a device alias (R241), and before an atomic that waits for the cycle's writes. -/
def nextInput (s : State) : Option (Nat × Input) :=
  let due := s.inbox.takeWhile fun x => decide (x.1 ≤ now s)
  match due.head? with
  | none => none
  | some x =>
    if inputFits s x.2 && !aliasInput s x.2 then some x
    else (due.find? fun y => bellInput y.2) <|> (if inputFits s x.2 then some x else none)

/-- One step of the machine: an input that is due, else what comes next. -/
def nextStep (s : State) : Host.Outcome State Fault Refusal :=
  match nextInput s with
  | some x => takeInput x.2 { s with inbox := s.inbox.erase x }
  | none =>
    let (a, s) := pickNext s
    runAction a s

/-! ## Placing one instruction -/

/-- The page tables that map the first 2 MiB of virtual addresses on the first 2 MiB of DRAM, readable, writable and
executable (R189, R190). -/
def identityPages (d : Dev) (pbase : Nat) (m : List Host.Cell) : List Host.Cell :=
  let ptr (a : Nat) : Nat := 1 + a / 512 * 2 ^ 64
  let leaf := 0x1F + (ownFa d + 65568 - pbase) % 65568 * 2 ^ 32
  memWrite (memWrite (memWrite m 0x200000 (leBytes 16 (ptr 0x210000))) 0x210000 (leBytes 16 (ptr 0x220000)))
    0x220000 (leBytes 16 leaf)

/-- Slot 0 of core 0 holds the issue slot, in a phase, at bundle 0 of a code of one bundle (R39, R45). -/
def placedCtx (c : Ctx) : Ctx :=
  { c with
    status := .ready
    pos := { Pos.reset with clk := c.pos.clk, inph := true, codeBase := 0, codeLen := 1 } }

/-- The state in which the next step issues a bundle of core 0 whose image is `w`: the bundle at the first bytes of
partition 0's DRAM, mapped there, and slot 0 of core 0 holding the issue slot. -/
def placeBundle (w : Nat) (s : State) : State :=
  let s := { s with
    inbox := [], memBefore := none
    mem := memWrite (identityPages s.dev (partAt s 0).host.pbase s.mem) 0 (leBytes 64 w) }
  let s := updMem 0 (fun m => { m with root := some 0x200000, tlb := [] }) s
  let s := updCore 0 (fun k => { k with issuedAt := 0, sel := { k.sel with cur := 0, sel := 0 } }) s
  updCtx 0 placedCtx s

end Sys2Proof.Machine
end

