-- ==== Sys2Proof/Machine/Step.lean ====
section
/-! DEFINITION. One step of the machine, and the state in which the next step runs a given instruction. -/

namespace Sys2Proof.Machine

/-- The state in which the next step fetches and runs the instruction whose bits are `w` (log 41). -/
def State.withFetchWord (s : State) (nbits w : Nat) : State := placeBundle (w % 2 ^ nbits) s

/-- One step (log 40). -/
def step (s : State) : Host.Outcome State Fault Refusal := nextStep s

end Sys2Proof.Machine
end

