-- ==== Sys2Proof/Safety/Frame.lean ====
section
/-! DEFINITION. The vocabulary of frames: what a step leaves as it was. -/

namespace Sys2Proof.Safety

open Sys2Proof.Machine

/-- Memory, the clock, the place of the issuing bundle and the inputs to come stand. -/
structure Still (s t : State) : Prop where
  bytes : ∀ a, memGet t.mem a = memGet s.mem a
  ccn : t.ccn = s.ccn
  place : t.core = s.core ∧ t.slot = s.slot ∧ t.bnd = s.bnd ∧ t.inbox = s.inbox

/-- Everything stands but the contexts, cores and partitions listed: every register, flag and control register of every
other context, every other core with its semaphores, storage and engines, every other partition, the device and every
byte of memory. -/
structure Frame (ctxs cores parts : List Nat) (s t : State) : Prop where
  ctx : ∀ j, j ∉ ctxs → ctxOf t j = ctxOf s j
  core : ∀ k, k ∉ cores → coreOf t k = coreOf s k
  part : ∀ p, p ∉ parts → partAt t p = partAt s p
  dev : t.dev = s.dev
  still : Still s t

/-- As Frame, where the device may change as well. -/
structure FrameDev (ctxs cores parts : List Nat) (s t : State) : Prop where
  ctx : ∀ j, j ∉ ctxs → ctxOf t j = ctxOf s j
  core : ∀ k, k ∉ cores → coreOf t k = coreOf s k
  part : ∀ p, p ∉ parts → partAt t p = partAt s p
  still : Still s t

/-- The next state of an instruction has a property. -/
def Answers (i : Instr) (s : State) (Q : State → Prop) : Prop := ∃ t, exec i s = .next t ∧ Q t

/-- Only the context whose bundle issues changes, and to this. -/
def IssuesTo (i : Instr) (s : State) (c : Ctx) : Prop :=
  Answers i s fun t => ctxOf t (curId s) = c ∧ Frame [curId s] [] [] s t

/-- A result goes in flight last in issue order; nothing else of the context changes (R74). -/
def flying (f : Flight) (c : Ctx) : Ctx :=
  { c with fly := { c.fly with flights := c.fly.flights ++ [{ f with seq := c.fly.seq }], seq := c.fly.seq + 1 } }

/-- A selector after a choice: no context holds the issue slot, the next issue is no earlier than 8 cycles on, and a slot
chosen with none that may keep the slot counts as the most recent and begins to age anew (R45 to R47). -/
structure Chose (cycle : Nat) (x y : Selector) : Prop where
  cur : y.cur = 7
  from_ : y.from_ = cycle + 8
  last : y.last = if y.keep = 7 ∧ y.sel < 4 then y.sel else x.last
  aged : ∀ j, tget 0 j y.aged = if y.keep = 7 ∧ y.sel < 4 ∧ j = y.sel then 0 else tget 0 j x.aged

/-- No context of a core holds its issue slot; its selector has chosen anew (R45, R46). Nothing else of the core
changes. -/
def Invoked (s t : State) (core : Nat) : Prop :=
  coreOf t core = { coreOf s core with sel := (coreOf t core).sel } ∧
    Chose (now s) (coreOf s core).sel (coreOf t core).sel

end Sys2Proof.Safety
end

