-- ==== Sys2Proof/Safety/Rounding.lean ====
section
/-! DEFINITION. Rounding as the spec words it (R95, R96, R98, R99, R102), over rational numbers: what an encoding stands
for, what rounding it to a spacing gives, and what is then delivered with which flags. -/

namespace Sys2Proof.Safety

open Sys2Proof.Machine

/-- The sign and the magnitude of a finite value that is held exactly. -/
def magnitudeOf : Val → Option (Bool × Rat)
  | .num neg m e false => some (neg, (m : Rat) * 2 ^ e)
  | _ => none

/-- The number a finite value held exactly is. -/
def numberOf (v : Val) : Option Rat := (magnitudeOf v).map fun p => if p.1 then -p.2 else p.2

/-- The exact value behind a computed one: the number itself, or one strictly between it and the next of its unit. -/
def StandsFor (v : Val) (neg : Bool) (a : Rat) : Prop :=
  match v with
  | .num n m e false => n = neg ∧ a = (m : Rat) * 2 ^ e
  | .num n m e true => n = neg ∧ (m : Rat) * 2 ^ e < a ∧ a < ((m : Rat) + 1) * 2 ^ e
  | _ => False

/-- What lies below the unit a value is kept to does not bear on a rounding at 2^u, nor on its 32-bit draw. -/
def FineFor (r : Rnd) (u : Int) : Val → Prop
  | .num _ _ e true => e < u ∧ (r.mode = 5 → e + 32 ≤ u)
  | _ => True

/-- A mode of R96 with a draw of 32 bits. -/
def Rounds (r : Rnd) : Prop := r.mode ≤ 5 ∧ r.draw < 2 ^ 32

/-- A magnitude of `q` spacings and the part `rest` of one more goes up (R96, R102). -/
def GoesUp (r : Rnd) (neg : Bool) (q : Nat) (rest : Rat) : Prop :=
  match r.mode with
  | 0 => 1 / 2 < rest ∨ rest = 1 / 2 ∧ q % 2 = 1
  | 1 => False
  | 2 => neg = false ∧ 0 < rest
  | 3 => neg = true ∧ 0 < rest
  | 4 => 1 / 2 ≤ rest
  | _ => (2 : Int) ^ 32 ≤ (rest * 2 ^ 32).floor + r.draw

/-- The magnitude `a` rounded to a spacing of 2^u is `y`. -/
def RoundedTo (r : Rnd) (neg : Bool) (u : Int) (a y : Rat) : Prop :=
  ∃ (q : Nat) (rest : Rat), a = ((q : Rat) + rest) * 2 ^ u ∧ 0 ≤ rest ∧ rest < 1 ∧
    (GoesUp r neg q rest ∧ y = ((q : Rat) + 1) * 2 ^ u ∨ ¬GoesUp r neg q rest ∧ y = (q : Rat) * 2 ^ u)

/-- A floating format that has an exponent field (R83, R87). -/
def HasExponent (f : Flt) : Prop := 1 ≤ f.e ∧ f.spec ≤ 2 ∧ (f.spec = 1 → 2 ≤ f.e ∧ 1 ≤ f.m)

/-- The exponent of the smallest normal (R83). -/
def smallestNormal (f : Flt) : Int := 1 - f.bias

/-- The spacing 2^u of a format about `a`: that of its binade, and of the subnormals below the smallest normal (R98). -/
def SpacedBy (f : Flt) (a : Rat) (u : Int) : Prop :=
  ∃ e : Int, (2 : Rat) ^ e ≤ a ∧ a < 2 ^ (e + 1) ∧ u = max e (smallestNormal f) - f.m

/-- `g` is the largest finite value of a format (R98). -/
def GreatestOf (f : Flt) (g : Rat) : Prop :=
  (∃ c n, c < 2 ^ f.width ∧ magnitudeOf (decodeFlt f c) = some (n, g)) ∧
    ∀ c n b, c < 2 ^ f.width → magnitudeOf (decodeFlt f c) = some (n, b) → b ≤ g

/-- What an overflow delivers (R98): MAX under SAT, under RTZ, and in the direction away from infinity under RUP and RDN;
else INF, which is MAX in a format with neither infinity nor NaN. -/
def OverflowsTo (f : Flt) (r : Rnd) (neg : Bool) (g : Rat) (code : Nat) : Prop :=
  let greatest := magnitudeOf (decodeFlt f code) = some (neg, g)
  if r.sat = true ∨ r.mode = 1 ∨ (r.mode = 2 ∧ neg = true) ∨ (r.mode = 3 ∧ neg = false) then greatest
  else
    match f.spec with
    | 1 => decodeFlt f code = .inf neg
    | 2 => decodeFlt f code = .nan neg false
    | _ => greatest

/-- FLUSH or SUBN = 0 makes subnormal results of the format zero (R83, R94, R95). -/
def Flushes (f : Flt) (r : Rnd) : Prop :=
  f.subn = false ∨ (f = f32 ∧ r.flush.getLsbD 1 = true) ∨ ((f = f16 ∨ f = bf16) ∧ r.flush.getLsbD 2 = true)

/-- The encoding and flags that R98 gives the exact magnitude `a` with its sign. -/
def RoundsInto (f : Flt) (r : Rnd) (neg : Bool) (a : Rat) (out : Nat × FlagSet) : Prop :=
  ∀ u y g, SpacedBy f a u → RoundedTo r neg u a y → GreatestOf f g →
    let low : Rat := 2 ^ smallestNormal f
    (g < y → OverflowsTo f r neg g out.1 ∧ out.2 = flagOvf ||| flagInx) ∧
    (y ≤ g →
      (0 < y ∧ y < low ∧ Flushes f r →
        magnitudeOf (decodeFlt f out.1) = some (neg, 0) ∧ out.2 = flagUnf ||| flagInx) ∧
      (¬(0 < y ∧ y < low ∧ Flushes f r) → magnitudeOf (decodeFlt f out.1) = some (neg, y) ∧
        (y = a → out.2 = 0) ∧ (y ≠ a → low ≤ a → out.2 = flagInx) ∧ (y ≠ a → a < low → out.2 = flagUnf ||| flagInx)))

/-- The encoding and flags that R99 gives the exact magnitude `a` with its sign in an integer type: rounded to an
integer, then saturated with the invalid flag. -/
def RoundsToInteger (signed : Bool) (w : Nat) (r : Rnd) (neg : Bool) (a : Rat) (out : Nat × FlagSet) : Prop :=
  ∀ y, RoundedTo r neg 0 a y →
    let i : Rat := if neg then -y else y
    let lo : Rat := if signed then -(2 ^ (w - 1)) else 0
    let hi : Rat := if signed then 2 ^ (w - 1) - 1 else 2 ^ w - 1
    let is (v : Rat) : Prop := numberOf (decodeVal (.int signed w) out.1) = some v
    (i < lo → is lo ∧ out.2 = flagInv) ∧ (hi < i → is hi ∧ out.2 = flagInv) ∧
      (lo ≤ i → i ≤ hi → is i ∧ (y = a → out.2 = 0) ∧ (y ≠ a → out.2 = flagInx))

end Sys2Proof.Safety
end

