-- ==== Sys2Proof/Safety/Sums.lean ====
section
/-! DEFINITION. The sums of R111 to R113 as the spec words them: terms by K index, groups, the value of a group under each
numeric behaviour version, and the accumulation of the groups. -/

namespace Sys2Proof.Safety

open Sys2Proof.Machine

/-- One rounding into f32, RNE (R110), and the value delivered. -/
def roundedF32 (sat : Bool) (flush : BitVec 3) (v : Val) : Nat × FlagSet := roundFlt f32 ⟨0, sat, 0, flush⟩ v

/-- A node of version 1's tree (R112): level `l`, index `j`, over the positions of a group. -/
def treeValue (flush : BitVec 3) (p : Nat → Option Val) : Nat → Nat → Option Val × FlagSet
  | 0, j => (p j, 0)
  | l + 1, j =>
    let a := treeValue flush p l (2 * j)
    let b := treeValue flush p l (2 * j + 1)
    let sum : Option Val :=
      match a.1, b.1 with
      | some x, some y => some (addVal false x y)
      | some x, none => some x
      | none, y => y
    match sum with
    | none => (none, a.2 ||| b.2)
    | some v =>
      let r := roundedF32 false flush v
      (some (decodeFlt f32 r.1), a.2 ||| b.2 ||| r.2)

/-- |p| truncated at weight 2^u, in multiples of 2^u (R113). -/
def truncated (u : Int) : Val → Int
  | .num neg m e _ => let q := ((m : Rat) * 2 ^ (e - u)).floor; if neg then -q else q
  | _ => 0

/-- A term differs from its truncation at 2^u. -/
def truncates (u : Int) (v : Val) : Bool := numberOf v != some ((truncated u v : Rat) * 2 ^ u)

/-- The group value of versions 2 and 3 (R113) over present terms without a NaN, with alignment width `w`. -/
def alignedValue (w : Nat) (ps : List Val) : Option Val × FlagSet :=
  let logs := (ps.filter fun v => !v.isZero).map Val.log2
  if ps = [] then (none, 0)
  else if ps.contains (.inf false) && ps.contains (.inf true) then (some (.nan false false), flagInv)
  else if ps.contains (.inf false) then (some (.inf false), 0)
  else if ps.contains (.inf true) then (some (.inf true), 0)
  else if logs = [] then (some (.zero (ps.all Val.neg)), 0)
  else
    let top := logs.foldl max (logs.headD 0)
    let u := top - w + 1
    let q := (ps.map (truncated u)).sum
    (some (if q = 0 then .zero false else .num (decide (q < 0)) q.natAbs u false),
     flagIf (ps.any (truncates u)) flagInx)

/-- One group joins the accumulator (R111): an absent group leaves it, the first one is rounded, each later one is added
exactly and rounded once. -/
def joinGroup (sat : Bool) (flush : BitVec 3) (acc : Option Nat × FlagSet) (q : Option Val × FlagSet) :
    Option Nat × FlagSet :=
  match q.1 with
  | none => (acc.1, acc.2 ||| q.2)
  | some v =>
    let r := roundedF32 sat flush (match acc.1 with
      | none => v
      | some a => addVal false (decodeFlt f32 a) v)
    (some r.1, acc.2 ||| q.2 ||| r.2)

/-- The sum of the terms `p k` with `k` below `n` and an initial accumulator, as f32 bits (R111 to R113). A version
of 0 adds as 3 does (DESIGN CHOICE, log 77). -/
def sumOf (nbv : Nat) (sat : Bool) (flush : BitVec 3) (n : Nat) (p : Nat → Option Val) (acc : Option Nat) :
    Nat × FlagSet :=
  let g := if nbv = 1 then 16 else if nbv = 2 then 32 else 64
  let term (k : Nat) : Option Val := if k < n then p k else none
  let present := (List.range n).filterMap p
  let value (i : Nat) : Option Val × FlagSet :=
    if nbv = 1 then treeValue flush (fun j => term (16 * i + j)) 4 0
    else alignedValue (if nbv = 2 then 40 else 64) ((List.range g).filterMap fun j => term (g * i + j))
  let signals := (present ++ (acc.map (decodeFlt f32)).toList).any Val.isSig
  match present.find? Val.isNan with
  | some v =>
    if nbv = 1 then
      let r := ((List.range ((n + g - 1) / g)).map value).foldl (joinGroup sat flush) (acc, 0)
      (r.1.getD 0, r.2)
    else (f32.withSign v.neg f32.nanCode, flagIf signals flagInv)
  | none =>
    let r := ((List.range ((n + g - 1) / g)).map value).foldl (joinGroup sat flush) (acc, 0)
    (r.1.getD 0, r.2)

end Sys2Proof.Safety
end

