-- ==== Sys2Proof/Safety/Vector.lean ====
section
/-! DEFINITION. What the vector instructions compute, element by element (R346 to R371): integers in whole numbers,
floating elements by the one rounding of the machine (R98). -/

namespace Sys2Proof.Safety

open Sys2Proof Sys2Proof.Machine

/-- The whole number an integer element stands for (R82). -/
def elemInt (signed : Bool) (w x : Nat) : Int :=
  if signed ∧ 2 ^ (w - 1) ≤ x % 2 ^ w then (x % 2 ^ w : Nat) - 2 ^ w else (x % 2 ^ w : Nat)

/-- An element of `w` bits from an exact result: its low bits, or with SAT the nearest value it can hold (R350). -/
def elemFit (signed sat : Bool) (w : Nat) (v : Int) : Nat :=
  let lo : Int := if signed then -2 ^ (w - 1) else 0
  let hi : Int := if signed then 2 ^ (w - 1) - 1 else 2 ^ w - 1
  ((if sat then max lo (min hi v) else v) % 2 ^ w).toNat

/-- An element-wise vector instruction: the format of its results, their number and the registers they fill, the cycles
to visibility, the bypass register, result `i` with its flags, whether a source is poisoned, the bits it may set in
SUBST, and the generator it leaves when it draws. -/
structure VecRow where
  cl : Cluster
  f : VSyl
  dst : Fmt
  n : Nat
  k : Nat
  lat : Nat
  byp : Nat
  elem : Nat → Nat × FlagSet
  pois : Bool
  subst : BitVec 16
  gen : Option Row

/-- The generator `n` steps on (R100). -/
def genAfter : Nat → Row → Row
  | 0, g => g
  | n + 1, g => genAfter n (genStep g)

/-- The mode a syllable rounds in (R96). -/
def roundMode (c : Ctx) (f : VSyl) : Nat := if bits f.m 2 0 = 6 then c.ctl.rmode.toNat else bits f.m 2 0

/-- How result `i` is rounded: stochastic rounding draws word `i` of the generator's next rows (R96, R101). -/
def roundingOf (c : Ctx) (cl : Cluster) (f : VSyl) (i : Nat) : Rnd :=
  { mode := roundMode c f, sat := f.m.getLsbD 3, flush := c.ctl.flush
    draw := if roundMode c f = 5 then elemAt 32 (genAfter (i / 128 + 1) (genOf c cl)) (i % 128) else 0 }

/-- The generator after `n` rounded results: as many steps as they take rows of 128 draws (R101). -/
def drawnGen (c : Ctx) (cl : Cluster) (f : VSyl) (n : Nat) : Option Row :=
  if roundMode c f = 5 then some (genAfter ((n + 127) / 128) (genOf c cl)) else none

/-- The row of an instruction on type T with one destination register. -/
def rowT (c : Ctx) (cl : Cluster) (f : VSyl) (nsrc lat byp : Nat) (draws : Bool)
    (elem : Nat → Nat → Nat → Nat → Nat × FlagSet) : VecRow :=
  let fm := typeFmt f.t.toNat
  let x (src : BitVec 6) (i : Nat) := elemAt fm.container (srcRow c cl src.toNat) i
  { cl := cl, f := f, dst := fm, n := 4096 / fm.container, k := 1, lat := lat, byp := byp
    elem := fun i => elem i (x f.a i) (x f.b i) (x f.c i)
    pois := [f.a, f.b, f.c].take nsrc |>.any fun r => srcRowPois c cl r.toNat
    subst := 0, gen := if draws then drawnGen c cl f (4096 / fm.container) else none }

/-- An arithmetic instruction (R349, R350). -/
def rowArith (c : Ctx) (cl : Cluster) (f : VSyl) (nsrc lat byp : Nat) (iop : Int → Int → Int → Int)
    (vop : Bool → Val → Val → Val → Val) : VecRow :=
  let t := f.t.toNat
  let w := (typeFmt t).width
  rowT c cl f nsrc lat byp (decide (8 ≤ t)) fun i a b d =>
    if t < 8 then
      (elemFit (t < 4) (f.m.getLsbD 3) w (iop (elemInt (t < 4) w a) (elemInt (t < 4) w b) (elemInt (t < 4) w d)), 0)
    else
      let v := decodeVal (typeFmt t)
      roundVal (typeFmt t) (roundingOf c cl f i) (vop (roundMode c f == 3) (v a) (v b) (v d))

/-- A minimum or maximum of two elements of a type (R104). -/
def elemBest (t : Nat) (wantMax prop : Bool) (a b : Nat) : Nat × FlagSet :=
  if t < 8 then
    let w := (typeFmt t).width
    let le := decide (elemInt (t < 4) w a ≤ elemInt (t < 4) w b)
    (if le = wantMax then b else a, 0)
  else pickMinMax wantMax prop (canonNan (typeFmt t)) (decodeVal (typeFmt t) a) (decodeVal (typeFmt t) b) a b

/-- A special function (R365). -/
def rowSpecial (c : Ctx) (cl : Cluster) (f : VSyl) (g : Val → Val) : VecRow :=
  let fm := typeFmt f.t.toNat
  rowT c cl f 1 8 2 true fun i a _ _ => roundVal fm (roundingOf c cl f i) (g (decodeVal fm a))

/-- A conversion of `n` elements between registers of two formats (R105, R360). -/
def rowCvt (c : Ctx) (cl : Cluster) (f : VSyl) (sf df : Fmt) (scaled : Bool) (gen : Option Row)
    (g : Nat → Option Nat → Nat → Nat × FlagSet) : VecRow :=
  let ks := max 1 (sf.container / df.container)
  let later := decide (32 ≤ f.srcFmt)
  { cl := cl, f := f, dst := df, n := 4096 / min sf.container df.container, k := max 1 (df.container / sf.container)
    lat := 3, byp := 1
    elem := fun i =>
      let x := elemAt sf.container (srcRow c cl (f.a.toNat + i % ks)) (i / ks)
      let q := if scaled then some (elemAt 8 (srcRow c cl f.c.toNat) ((16 * f.ssel + i / 32) % 512)) else none
      ((g i q x).1, (g i q x).2 ||| if later then flagSubst else 0)
    pois := ((List.range ks).any fun j => srcRowPois c cl (f.a.toNat + j)) || (scaled && srcRowPois c cl f.c.toNat)
    subst := if later then BitVec.ofNat 16 (2 ^ (f.srcFmt - 32)) else 0
    gen := gen }

/-- The number of one bits of a number below 2^`w`. -/
def onesBelow (w x : Nat) : Nat := ((List.range w).filter fun n => x.testBit n).length

/-- What each element-wise vector instruction computes in a context whose formats it accepts; none for the others. -/
def vecRow (i : Instr) (c : Ctx) : Option VecRow :=
  let width (f : VSyl) := (typeFmt f.t.toNat).width
  let size (f : VSyl) := (typeFmt f.t.toNat).container
  let shifted (f : VSyl) (b : Nat) : Nat := (if f.x.getLsbD 20 then bits f.x 4 0 else b) % width f
  let row (cl : Cluster) (n : BitVec 6) := srcRow c cl n.toNat
  match i with
  | .vadd cl f => some (rowArith c cl f 2 2 0 (fun a b _ => a + b) fun rdn a b _ => addVal rdn a b)
  | .vsub cl f => some (rowArith c cl f 2 2 0 (fun a b _ => a - b) fun rdn a b _ => subVal rdn a b)
  | .vmul cl f => some (rowArith c cl f 2 4 1 (fun a b _ => a * b) fun _ a b _ => mulVal a b)
  | .vmad cl f => some (rowArith c cl f 3 4 1 (fun a b d => a * b + d) fun rdn a b d => fmaVal rdn a b d)
  | .vmulw cl f =>
    if vmulwBad f c then none
    else
      let fm := (ctxFmt c f.fr f.t.toNat).getD .scale
      let df := typeFmt f.dfmt
      let cw := fm.container
      some { cl := cl, f := f, dst := df, n := 4096 / cw, k := df.container / cw, lat := 4, byp := 1
             elem := fun i =>
               let x := sourceVal c.ctl.flush fm (elemAt cw (row cl f.a) i)
               let y := sourceVal c.ctl.flush fm (elemAt cw (row cl f.b) i)
               let x := if f.sc then scaleVal false (elemAt 8 (row cl f.c) ((16 * f.ssel + i / 32) % 512)) x else x
               if f.dfmt < 8 then (((x.toInt * y.toInt) % 2 ^ df.width).toNat, 0)
               else roundVal df (roundingOf c cl f i) (mulVal x y)
             pois := srcRowPois c cl f.a.toNat || srcRowPois c cl f.b.toNat || (f.sc && srcRowPois c cl f.c.toNat)
             subst := 0, gen := if 8 ≤ f.dfmt then drawnGen c cl f (4096 / cw) else none }
  | .vdot4 cl f =>
    match ctxFmt c f.fr f.t.toNat with
    | none => none
    | some fm =>
      let cw := fm.container
      let term (r : Row) (j : Nat) := sourceVal c.ctl.flush fm (elemAt cw r j)
      some { cl := cl, f := f, dst := .int true 32, n := 128, k := 1, lat := 4, byp := 1
             elem := fun l =>
               let ps := (List.range (32 / cw)).map fun j =>
                 mulVal (term (row cl f.a) (32 / cw * l + j)) (term (row cl f.b) (32 / cw * l + j))
               let acc := elemAt 32 (row cl f.c) l
               if f.t.toNat < 8 then
                 let sum := (ps.map Val.toInt).foldl (· + ·) (elemInt true 32 acc)
                 (elemFit true (f.m.getLsbD 3) 32 sum, if sum < -2 ^ 31 ∨ 2 ^ 31 ≤ sum then flagOvf else 0)
               else sumOf c.ctl.nbv.toNat (f.m.getLsbD 3) c.ctl.flush ps.length (fun j => ps[j]?) (some acc)
             pois := srcRowPois c cl f.a.toNat || srcRowPois c cl f.b.toNat || srcRowPois c cl f.c.toNat
             subst := 0, gen := none }
  | .vabs cl f =>
    some (rowT c cl f 1 2 0 false fun _ a _ _ =>
      let w := width f
      if f.t.toNat < 8 then
        (elemFit (f.t.toNat < 4) (f.m.getLsbD 3) w (elemInt (f.t.toNat < 4) w a).natAbs, 0)
      else (a % 2 ^ (w - 1), 0))
  | .vneg cl f =>
    some (rowT c cl f 1 2 0 false fun _ a _ _ =>
      let w := width f
      if f.t.toNat < 8 then (elemFit (f.t.toNat < 4) (f.m.getLsbD 3) w (-elemInt (f.t.toNat < 4) w a), 0)
      else ((a + 2 ^ (w - 1)) % 2 ^ w, 0))
  | .vmin cl f => some (rowT c cl f 2 2 0 false fun _ a b _ => elemBest f.t.toNat false false a b)
  | .vmax cl f => some (rowT c cl f 2 2 0 false fun _ a b _ => elemBest f.t.toNat true false a b)
  | .vminp cl f => some (rowT c cl f 2 2 0 false fun _ a b _ => elemBest f.t.toNat false true a b)
  | .vmaxp cl f => some (rowT c cl f 2 2 0 false fun _ a b _ => elemBest f.t.toNat true true a b)
  | .vclmp cl f =>
    some (rowT c cl f 3 2 0 false fun _ a b d =>
      let x := elemBest f.t.toNat true false a b
      ((elemBest f.t.toNat false false x.1 d).1, x.2 ||| (elemBest f.t.toNat false false x.1 d).2))
  | .vand cl f => some (rowT c cl f 2 2 0 false fun _ a b _ => (a &&& b, 0))
  | .vor cl f => some (rowT c cl f 2 2 0 false fun _ a b _ => (a ||| b, 0))
  | .vxor cl f => some (rowT c cl f 2 2 0 false fun _ a b _ => (a ^^^ b, 0))
  | .vandn cl f => some (rowT c cl f 2 2 0 false fun _ a b _ => (a &&& (b ^^^ (2 ^ size f - 1)), 0))
  | .vshl cl f =>
    some (rowT c cl f (if f.x.getLsbD 20 then 1 else 2) 2 0 false fun _ a b _ =>
      (a * 2 ^ shifted f b % 2 ^ width f, 0))
  | .vshr cl f =>
    some (rowT c cl f (if f.x.getLsbD 20 then 1 else 2) 2 0 false fun _ a b _ => (a / 2 ^ shifted f b, 0))
  | .vsar cl f =>
    some (rowT c cl f (if f.x.getLsbD 20 then 1 else 2) 2 0 false fun _ a b _ =>
      (elemFit true false (width f) (elemInt true (width f) a / 2 ^ shifted f b), 0))
  | .vclz cl f =>
    some (rowT c cl f 1 2 0 false fun _ a _ _ => (if a = 0 then width f else width f - 1 - Nat.log2 a, 0))
  | .vpopc cl f => some (rowT c cl f 1 2 0 false fun _ a _ _ => (onesBelow (width f) a, 0))
  | .vflr cl f =>
    some (rowT c cl f 1 2 0 true fun i a _ _ => integralElem (typeFmt f.t.toNat) (roundingOf c cl f i) a)
  | .vsel cl f =>
    let n := 4096 / size f
    let sel (i : Nat) := govBit n (govPred c cl (bits f.x 2 0)) i
    let act (i : Nat) := govBit n (govPred c cl f.p.toNat) i
    let used (b : Bool) := (List.range n).any fun i => act i && sel i == b
    let r := rowT c cl f 0 2 0 false fun i a b _ => (if sel i then a else b, 0)
    some { r with pois := govPois c cl (bits f.x 2 0) || (used true && srcRowPois c cl f.a.toNat) ||
                    (used false && srcRowPois c cl f.b.toNat) }
  | .vmov cl f => some (rowT c cl f 1 2 0 false fun _ a _ _ => (a, 0))
  | .vmovx cl f =>
    let other : Cluster := if cl = .a then .b else .a
    let r := rowT c cl f 0 2 0 false fun i _ _ _ => (elemAt (size f) (row other f.a) i, 0)
    some { r with pois := srcRowPois c other f.a.toNat }
  | .vbcs cl f =>
    let r := rowT c cl f 0 2 7 false fun _ _ _ _ => ((sget c f.a.toNat).toNat % 2 ^ size f, 0)
    some { r with pois := spois c f.a.toNat }
  | .vbcl cl f => some (rowT c cl f 1 2 0 false fun _ _ _ _ => (elemAt (size f) (row cl f.a) (bits f.x 9 0), 0))
  | .viota cl f =>
    let r := rowT c cl f 0 2 0 false fun i _ _ _ =>
      ((((sget c f.a.toNat).toNat + i * f.x.toInt : Int) % 2 ^ size f).toNat, 0)
    some { r with pois := spois c f.a.toNat }
  | .vperm cl f =>
    let n := 4096 / size f
    let k := if size f = 8 then 2 else if size f = 4 then 4 else 1
    let idx (i : Nat) := elemAt (max (size f) 16) (srcRow c cl (f.b.toNat + i % k)) (i / k)
    let r := rowT c cl f 1 3 3 false fun i _ _ _ =>
      (if f.x.getLsbD 0 ∧ n ≤ idx i then 0 else elemAt (size f) (row cl f.a) (idx i % n), 0)
    some { r with pois := r.pois || (List.range k).any fun j => srcRowPois c cl (f.b.toNat + j) }
  | .vrot cl f =>
    some (rowT c cl f 1 3 3 false fun i _ _ _ =>
      (elemAt (size f) (row cl f.a) ((i + bits f.x 9 0) % (4096 / size f)), 0))
  | .vcvt cl f =>
    if vcvtBad f c then none
    else
      (cvtFmts c f).map fun x =>
        rowCvt c cl f x.1 x.2 f.sc
          (if x.1.isInt && x.2.isInt && !f.sc then none
           else drawnGen c cl f (4096 / min x.1.container x.2.container))
          fun i q e => cvtElem c.ctl.flush x.1 x.2 (if x.1.isInt && x.2.isInt && !f.sc then
            { roundingOf c cl f i with draw := 0 } else roundingOf c cl f i) q e
  | .vwid cl f =>
    if vwidBad f c then none
    else
      (cvtFmts c f).map fun x =>
        rowCvt c cl f x.1 x.2 false none fun _ _ e =>
          convertVal x.1 x.2 ⟨0, false, 0, c.ctl.flush⟩ (sourceVal c.ctl.flush x.1 e)
  | .vnar cl f =>
    let sf := typeFmt f.t.toNat
    let df := typeFmt f.dfmt
    some (rowCvt c cl f sf df false none fun _ _ e =>
      (elemFit (f.dfmt < 4) (f.m.getLsbD 3) df.width (elemInt (f.t.toNat < 4) sf.width e), 0))
  | .vexp2 cl f => some (rowSpecial c cl f exp2Val)
  | .vlog2 cl f => some (rowSpecial c cl f log2Val)
  | .vrcp cl f => some (rowSpecial c cl f rcpVal)
  | .vrsq cl f => some (rowSpecial c cl f rsqVal)
  | .vsqrt cl f => some (rowSpecial c cl f sqrtVal)
  | .vrng cl f =>
    let g := genStep (genOf c cl)
    let r := rowT c cl f 0 8 2 false fun i _ _ _ => (rngElem f.t.toNat (elemAt 32 g i), 0)
    some { r with gen := some g }
  | .vscan cl f =>
    let n := 4096 / size f
    let seg := f.x.getLsbD 16
    let hp := bits f.x 15 13
    let act (i : Nat) := govBit n (govPred c cl f.p.toNat) i
    let start (i : Nat) := segHead (fun j => seg && govBit n (govPred c cl hp) j) i
    let r := rowT c cl f 1 8 3 (redRounds f) fun i _ _ _ =>
      let rnd := if redRounds f then roundingOf c cl f i else { roundingOf c cl f i with draw := 0 }
      reduceElems c (typeFmt f.t.toNat) f.rop rnd
        ((List.range ((if f.x.getLsbD 17 then i else i + 1) - start i)).map fun j =>
          if act (start i + j) then some (elemAt (size f) (row cl f.a) (start i + j)) else none)
    some { r with pois := r.pois || (seg && govPois c cl hp) }
  | _ => none

/-- Results in flight, one register after another: their elements, kept or zero where not active (R105, R346), with the
poison of R224; the flags, the bits of SUBST and the bypass go with the first. -/
structure ElementsFly (r : VecRow) (c d : Ctx) : Prop where
  /-- The registers, in order, and when they land. -/
  landings : (d.fly.flights.drop c.fly.flights.length).map (fun x => (x.file, x.reg, x.land, x.slow, x.seq)) =
    (List.range r.k).map fun j =>
      (clFile r.cl, r.f.d.toNat + j, c.pos.clk + r.lat - 1, false, c.fly.seq + j)
  /-- Result `i` stands in register `i mod k`, at element `i / k`. -/
  values : ∀ i, i < r.n → ∀ x, (d.fly.flights.drop c.fly.flights.length)[i % r.k]? = some x →
    elemAt r.dst.container x.val (i / r.k) =
      if govBit r.n (govPred c r.cl r.f.p.toNat) i then (r.elem i).1 % 2 ^ r.dst.container
      else if r.f.z = 1 then 0
      else elemAt r.dst.container (vget c (32 * clNum r.cl + (r.f.d.toNat + i % r.k))) (i / r.k)
  /-- The poison of the sources, of the governing predicate, and of a destination that keeps elements. -/
  poison : ∀ x ∈ d.fly.flights.drop c.fly.flights.length, x.pois =
    (r.pois || govPois c r.cl r.f.p.toNat ||
      (r.f.z != 1 && ((List.range r.n).any fun i => !govBit r.n (govPred c r.cl r.f.p.toNat) i) &&
        (List.range r.k).any fun j => srcRowPois c r.cl (r.f.d.toNat + j)))
  /-- The flags of the active elements, none of a poisoned result. -/
  flags : (d.fly.flights.drop c.fly.flights.length).map (fun x => (x.flags, x.subst, x.byp)) =
    (List.range r.k).map fun j =>
      if j ≠ 0 then (0, 0, none)
      else
        ((if (d.fly.flights.drop c.fly.flights.length).any (·.pois) then 0
          else flagsUnion ((List.range r.n).map fun i =>
            if govBit r.n (govPred c r.cl r.f.p.toNat) i then (r.elem i).2 else 0)),
         (if (d.fly.flights.drop c.fly.flights.length).any (·.pois) then 0
          else if (List.range r.n).any (govBit r.n (govPred c r.cl r.f.p.toNat)) then r.subst else 0),
         some (8 * clNum r.cl + r.byp))
  /-- Nothing else of the context changes, but for the generator of stochastic rounding and of VRNG. -/
  rest : d = { c with
    fly := { c.fly with flights := c.fly.flights ++ d.fly.flights.drop c.fly.flights.length, seq := c.fly.seq + r.k }
    regs := { c.regs with gen := match r.gen with
      | some g => tset 0 (clNum r.cl) g c.regs.gen
      | none => c.regs.gen } }

/-! ## Pairs, reductions, bins, predicates and scalar results -/

/-- The other vector instructions: register by register of the results, its file and number, the size of its elements
with each of them, and its poison; the flags, the cycles to visibility, the bypass, and the generator it leaves. -/
structure PlainRow where
  cl : Cluster
  regs : List (RegFile × Nat)
  size : Nat → Nat
  elem : Nat → Nat → Nat
  pois : Nat → Bool
  flags : FlagSet
  lat : Nat
  byp : Nat → Option Nat
  gen : Option Row

/-- The pair D, D+1 seen as one sequence of 2N elements under a governing predicate (R359, R371). -/
def rowPair (c : Ctx) (cl : Cluster) (f : VSyl) (lat byp : Nat) (gov : Nat → Bool) (val : Nat → Nat) : PlainRow :=
  let cw := (typeFmt f.t.toNat).container
  let n := 4096 / cw
  let d := f.d.toNat
  let kept := f.z != 1 && (List.range n).any fun i => !gov i
  { cl := cl, regs := [(clFile cl, d), (clFile cl, d + 1)], size := fun _ => cw
    elem := fun j i =>
      if gov i then val (j * n + i) else if f.z = 1 then 0 else elemAt cw (srcRow c cl (d + j)) i
    pois := fun _ => srcRowPois c cl f.a.toNat || srcRowPois c cl f.b.toNat || govPois c cl f.p.toNat ||
      (kept && (srcRowPois c cl d || srcRowPois c cl (d + 1)))
    flags := 0, lat := lat, byp := fun j => if j = 0 then some (8 * clNum cl + byp) else none, gen := none }

/-- One destination register of elements of a size. -/
def rowOne (cl : Cluster) (f : VSyl) (cw lat byp : Nat) (pois : Bool) (flags : FlagSet) (elem : Nat → Nat) : PlainRow :=
  { cl := cl, regs := [(clFile cl, f.d.toNat)], size := fun _ => cw, elem := fun _ i => elem i % 2 ^ cw, pois := fun _ => pois
    flags := flags, lat := lat, byp := fun _ => some (8 * clNum cl + byp), gen := none }

/-- A predicate, bit by bit, under P (R75, R325, R355): `res` for the bits of active elements. -/
def rowPred (c : Ctx) (cl : Cluster) (f : VSyl) (srcs : Bool) (flags : FlagSet) (active : Nat → Bool) (whole : Bool)
    (res : Nat → Bool) : PlainRow :=
  let d := f.d.toNat % 8
  { cl := cl, regs := [(clPred cl, d)], size := fun _ => 1
    elem := fun _ j =>
      if j < 512 ∧ (if active j then res j else f.z != 1 && (govPred c cl d).getLsbD j) = true then 1 else 0
    pois := fun _ => srcs || govPois c cl f.p.toNat || (f.z != 1 && !whole && govPois c cl d)
    flags := flags, lat := 2, byp := fun _ => none, gen := none }

/-- Bit by bit on predicates (R325). -/
def rowBits (c : Ctx) (cl : Cluster) (f : VSyl) (two : Bool) (op : Bool → Bool → Bool) : PlainRow :=
  let p := govPred c cl f.p.toNat
  let a := govPred c cl (f.a.toNat % 8)
  let b := govPred c cl (f.b.toNat % 8)
  rowPred c cl f (govPois c cl (f.a.toNat % 8) || (two && govPois c cl (f.b.toNat % 8))) 0 p.getLsbD
    ((List.range 512).all p.getLsbD) fun j => op (a.getLsbD j) (b.getLsbD j)

/-- Element results into a predicate (R75): element `i` of `n` fills its share of the bits, and two 4-bit elements
share one. -/
def rowElems (c : Ctx) (cl : Cluster) (f : VSyl) (srcs : Bool) (flags : FlagSet) (res : Nat → Bool) : PlainRow :=
  let n := 4096 / (typeFmt f.t.toNat).container
  let p := govPred c cl f.p.toNat
  let e (j : Nat) := if n ≤ 512 then j * n / 512 else 2 * j
  rowPred c cl f srcs flags (fun j => govBit n p (e j)) ((List.range n).all (govBit n p)) fun j =>
    if n ≤ 512 then res (e j) else res (e j) && res (e j + 1)

/-- A result in a scalar register. -/
def rowScalar (cl : Cluster) (f : VSyl) (lat : Nat) (pois : Bool) (v : Int) : PlainRow :=
  { cl := cl, regs := [(.scalar, f.d.toNat)], size := fun _ => 64
    elem := fun _ i => if i = 0 then (v % 2 ^ 64).toNat else 0
    pois := fun _ => pois, flags := 0, lat := lat, byp := fun _ => none, gen := none }

/-- The condition of R355 on two elements of a type. -/
def elemCond (t cc a b : Nat) : Bool :=
  if t < 8 then
    let w := (typeFmt t).width
    let x := elemInt (t < 4) w a
    let y := elemInt (t < 4) w b
    match cc with
    | 0 => decide (x = y)
    | 1 => decide (x ≠ y)
    | 2 => decide (x < y)
    | 3 => decide (x ≤ y)
    | 4 => decide (y < x)
    | _ => decide (y ≤ x)
  else condHolds cc (decodeVal (typeFmt t) a) (decodeVal (typeFmt t) b)

/-- What the vector instructions with pairs, reductions, bins, predicates or a scalar as their result compute in a
context whose operands they accept; none for the others. -/
def plainRow (i : Instr) (c : Ctx) : Option PlainRow :=
  let fmt (f : VSyl) := typeFmt f.t.toNat
  let size (f : VSyl) := (typeFmt f.t.toNat).container
  let count (f : VSyl) := 4096 / (typeFmt f.t.toNat).container
  let row (cl : Cluster) (n : BitVec 6) := srcRow c cl n.toNat
  let act (cl : Cluster) (f : VSyl) (i : Nat) := govBit (4096 / (typeFmt f.t.toNat).container) (govPred c cl f.p.toNat) i
  let srcs (cl : Cluster) (f : VSyl) := srcRowPois c cl f.a.toNat || govPois c cl f.p.toNat
  let both (cl : Cluster) (f : VSyl) (x : Nat) :=
    if x < count f then elemAt (size f) (row cl f.a) x else elemAt (size f) (row cl f.b) (x - count f)
  match i with
  | .vzip cl f =>
    let g := 2 ^ bits f.x 3 0
    some (rowPair c cl f 3 3 (act cl f) fun y =>
      both cl f ((if y / g % 2 = 0 then 0 else count f) + y / g / 2 * g + y % g))
  | .vuzp cl f =>
    let g := 2 ^ bits f.x 3 0
    let n := count f
    some (rowPair c cl f 3 3 (act cl f) fun y =>
      if y < n then both cl f (2 * (y / g) * g + y % g) else both cl f ((2 * ((y - n) / g) + 1) * g + y % g))
  | .vcas cl f =>
    let s := 2 ^ bits f.x 3 0
    let dir := bits f.x 7 4
    let first (x : Nat) := if x / s % 2 = 1 then x - s else x
    let key (x : Nat) := elemAt (size f) (row cl f.a) x
    let comp (x : Nat) := elemAt (size f) (row cl f.b) x
    let up (i : Nat) := !keyAbove (fmt f) (key (i + s)) (key i) &&
      (keyAbove (fmt f) (key i) (key (i + s)) || decide (comp i ≤ comp (i + s)))
    let desc (i : Nat) := (decide (dir = 15) || decide (i / 2 ^ dir % 2 = 0)) != f.x.getLsbD 8
    some (rowPair c cl f 2 0 (fun x => act cl f (first x)) fun y =>
      let x := y % count f
      let i := first x
      let hi := if up i then i else i + s
      let lo := if up i then i + s else i
      let from_ := if (desc i == (x == i)) then hi else lo
      if y < count f then key from_ else comp from_)
  | .vred cl f =>
    let rnd := if redRounds f then roundingOf c cl f 0 else { roundingOf c cl f 0 with draw := 0 }
    let r := reduceElems c (fmt f) f.rop rnd ((List.range (count f)).map fun i =>
      if act cl f i then some (elemAt (size f) (row cl f.a) i) else none)
    some { rowOne cl f (size f) 6 3 (srcs cl f) r.2 (fun i => if i = 0 then r.1 else 0) with
      gen := if redRounds f then drawnGen c cl f 1 else none }
  | .vramx cl f =>
    let l := ((List.range (count f)).filter (act cl f)).map fun i => (elemAt (size f) (row cl f.a) i, i)
    let r := (ramPick (fmt f) true l).getD (if l.isEmpty then (0, 2 ^ 32 - 1) else (canonNan (fmt f), (l.headD (0, 0)).2))
    some (rowOne cl f 32 6 3 (srcs cl f) (flagIf (l.any fun x => (decodeVal (fmt f) x.1).isSig) flagInv)
      fun i => if i = 0 then r.1 else if i = 1 then r.2 else 0)
  | .vramn cl f =>
    let l := ((List.range (count f)).filter (act cl f)).map fun i => (elemAt (size f) (row cl f.a) i, i)
    let r := (ramPick (fmt f) false l).getD (if l.isEmpty then (0, 2 ^ 32 - 1) else (canonNan (fmt f), (l.headD (0, 0)).2))
    some (rowOne cl f 32 6 3 (srcs cl f) (flagIf (l.any fun x => (decodeVal (fmt f) x.1).isSig) flagInv)
      fun i => if i = 0 then r.1 else if i = 1 then r.2 else 0)
  | .vbin cl f =>
    if binBad f c then none
    else
      let v := sget c f.b.toNat
      let on (j : Nat) := govBit 128 (govPred c cl f.p.toNat) (16 * binGroup v + j)
      let r (j : Nat) := splitBins (binEmax v) (decodeFlt f32 (elemAt 32 (row cl f.a) (16 * binGroup v + j)))
      some (rowOne cl f 256 3 1
        (srcRowPois c cl f.a.toNat || spois c f.b.toNat || govPois c cl f.p.toNat ||
          (f.z != 1 && ((List.range 16).any fun j => !on j) && srcRowPois c cl f.d.toNat))
        (flagsUnion ((List.range 16).map fun j => if on j then (r j).2 else 0))
        fun j => if on j then (r j).1.toNat else if f.z = 1 then 0 else elemAt 256 (srcRow c cl f.d.toNat) j)
  | .vunbn cl f =>
    if binBad f c then none
    else
      let v := sget c f.b.toNat
      let on (i : Nat) := decide (i / 16 = binGroup v) && govBit 128 (govPred c cl f.p.toNat) i
      let r (i : Nat) := joinBins (binEmax v) (f.m.getLsbD 3) c.ctl.flush
        (Triple.ofNat (elemAt 256 (row cl f.a) (i % 16)))
      some (rowOne cl f 32 3 1
        (srcRowPois c cl f.a.toNat || spois c f.b.toNat || govPois c cl f.p.toNat || srcRowPois c cl f.d.toNat)
        (flagsUnion ((List.range 128).map fun i => if on i then (r i).2 else 0))
        fun i =>
          if on i then (r i).1
          else if i / 16 = binGroup v ∧ f.z = 1 then 0 else elemAt 32 (srcRow c cl f.d.toNat) i)
  | .vscl cl f =>
    if vsclBad f c then none
    else
      let df := (ctxFmt c f.fr f.dfmt).getD .scale
      let ks := max 1 (size f / df.container)
      let n := 4096 / df.container
      let gov (i : Nat) := govBit n (govPred c cl f.p.toNat) i
      let x (i : Nat) := decodeVal (fmt f) (elemAt (size f) (srcRow c cl (f.a.toNat + i % ks)) (i / ks))
      let acts (j : Nat) := (List.range 32).filter fun e => gov (32 * j + e)
      let scale (j : Nat) := blockScale df ((acts j).map fun e => x (32 * j + e))
      let r (i : Nat) := quantise df (roundingOf c cl f i) (scale (i / 32)) (x i)
      let bad := ((List.range ks).any fun j => srcRowPois c cl (f.a.toNat + j)) || govPois c cl f.p.toNat ||
        (f.z != 1 && ((List.range n).any fun i => !gov i) && srcRowPois c cl f.d.toNat)
      some { cl := cl, regs := [(clFile cl, f.d.toNat), (clFile cl, f.c.toNat)]
             size := fun j => if j = 0 then df.container else 8
             elem := fun j i =>
               if j = 0 then
                 if gov i then (r i).1 % 2 ^ df.container
                 else if f.z = 1 then 0 else elemAt df.container (srcRow c cl f.d.toNat) i
               else
                 let b := (i + 512 - 16 * f.ssel) % 512
                 if b < n / 32 ∧ !(acts b).isEmpty then scale b % 256 else elemAt 8 (srcRow c cl f.c.toNat) i
             pois := fun j => bad || (j != 0 && srcRowPois c cl f.c.toNat)
             flags := flagsUnion ((List.range n).map fun i => if gov i then (r i).2 else 0)
             lat := 3, byp := fun j => if j = 0 then some (8 * clNum cl + 1) else none, gen := drawnGen c cl f n }
  | .vcmp cl f =>
    let a (i : Nat) := elemAt (size f) (row cl f.a) i
    let b (i : Nat) := elemAt (size f) (row cl f.b) i
    let sig (i : Nat) := (decodeVal (fmt f) (a i)).isSig || (decodeVal (fmt f) (b i)).isSig
    some (rowElems c cl f (srcRowPois c cl f.a.toNat || srcRowPois c cl f.b.toNat)
      (flagIf ((List.range (count f)).any fun i => act cl f i && sig i) flagInv)
      fun i => elemCond f.t.toNat f.m.toNat (a i) (b i))
  | .pand cl f => some (rowBits c cl f true (· && ·))
  | .por cl f => some (rowBits c cl f true (· || ·))
  | .pxor cl f => some (rowBits c cl f true (· != ·))
  | .pandn cl f => some (rowBits c cl f true fun a b => a && !b)
  | .pmov cl f => some (rowBits c cl f false fun a _ => a)
  | .pset cl f =>
    let n : Int := max 0 (min ((sget c f.a.toNat).toInt + f.x.toInt) (count f))
    some (rowElems c cl f (spois c f.a.toNat) 0 fun i => decide ((i : Int) < n))
  | .pfirst cl f =>
    let hit (i : Nat) := act cl f i && govBit (count f) (govPred c cl (f.a.toNat % 8)) i
    some (rowElems c cl f (govPois c cl (f.a.toNat % 8)) 0 fun i => hit i && !(List.range i).any hit)
  | .vext cl f =>
    let x := elemAt (size f) (row cl f.a) (bits f.x 9 0)
    some (rowScalar cl f 3 (srcRowPois c cl f.a.toNat) (if f.t.toNat < 4 then elemInt true (fmt f).width x else x))
  | .pcnt cl f =>
    some (rowScalar cl f 6 (govPois c cl (f.a.toNat % 8))
      ((List.range (count f)).filter (govBit (count f) (govPred c cl (f.a.toNat % 8)))).length)
  | .vrngs cl f =>
    if spois c f.a.toNat then none
    else
      some { cl := cl, regs := [], size := fun _ => 1, elem := fun _ _ => 0, pois := fun _ => false, flags := 0, lat := 0
             byp := fun _ => none, gen := some (genSeed ((sget c f.a.toNat).toNat % 2 ^ 32)) }
  | _ => none

/-- The results of the row are in flight, register by register and element by element; nothing else of the context
changes, but for the generator. -/
structure PlainFly (r : PlainRow) (c d : Ctx) : Prop where
  landings : (d.fly.flights.drop c.fly.flights.length).map (fun x => (x.file, x.reg, x.land, x.slow, x.seq)) =
    r.regs.zipIdx.map fun x => (x.1.1, x.1.2, c.pos.clk + r.lat - 1, false, c.fly.seq + x.2)
  values : ∀ j x, (d.fly.flights.drop c.fly.flights.length)[j]? = some x → ∀ i, i < 4096 / r.size j →
    elemAt (r.size j) x.val i = r.elem j i
  marks : (d.fly.flights.drop c.fly.flights.length).map (fun x => (x.pois, x.flags, x.subst, x.byp)) =
    (List.range r.regs.length).map fun j =>
      (r.pois j, if j = 0 ∧ r.pois 0 = false then r.flags else 0, 0, r.byp j)
  rest : d = { c with
    fly := { c.fly with
      flights := c.fly.flights ++ d.fly.flights.drop c.fly.flights.length, seq := c.fly.seq + r.regs.length }
    regs := { c.regs with gen := match r.gen with
      | some g => tset 0 (clNum r.cl) g c.regs.gen
      | none => c.regs.gen } }

/-- The families of the element-wise and plain vector instructions, in the order of the tables above: arithmetic, bits
of elements, moves, conversions and special functions; pairs, reductions with bins and scales, predicates, scalars. -/
inductive VecFamily where
  | arith | elemBits | move | convert | pair | reduce | predicate | scalar
  deriving DecidableEq, Repr

/-- The family of a vector instruction; none for any other. -/
def vecFamily (i : Instr) : Option VecFamily :=
  match i with
  | .vadd _ _ => some .arith
  | .vsub _ _ => some .arith
  | .vmul _ _ => some .arith
  | .vmad _ _ => some .arith
  | .vmulw _ _ => some .arith
  | .vdot4 _ _ => some .arith
  | .vabs _ _ => some .arith
  | .vneg _ _ => some .arith
  | .vmin _ _ => some .arith
  | .vmax _ _ => some .arith
  | .vminp _ _ => some .arith
  | .vmaxp _ _ => some .arith
  | .vclmp _ _ => some .arith
  | .vand _ _ => some .elemBits
  | .vor _ _ => some .elemBits
  | .vxor _ _ => some .elemBits
  | .vandn _ _ => some .elemBits
  | .vshl _ _ => some .elemBits
  | .vshr _ _ => some .elemBits
  | .vsar _ _ => some .elemBits
  | .vclz _ _ => some .elemBits
  | .vpopc _ _ => some .elemBits
  | .vsel _ _ => some .move
  | .vmov _ _ => some .move
  | .vmovx _ _ => some .move
  | .vbcs _ _ => some .move
  | .vbcl _ _ => some .move
  | .viota _ _ => some .move
  | .vperm _ _ => some .move
  | .vrot _ _ => some .move
  | .vflr _ _ => some .convert
  | .vcvt _ _ => some .convert
  | .vwid _ _ => some .convert
  | .vnar _ _ => some .convert
  | .vexp2 _ _ => some .convert
  | .vlog2 _ _ => some .convert
  | .vrcp _ _ => some .convert
  | .vrsq _ _ => some .convert
  | .vsqrt _ _ => some .convert
  | .vrng _ _ => some .convert
  | .vscan _ _ => some .convert
  | .vzip _ _ => some .pair
  | .vuzp _ _ => some .pair
  | .vcas _ _ => some .pair
  | .vred _ _ => some .reduce
  | .vramx _ _ => some .reduce
  | .vramn _ _ => some .reduce
  | .vbin _ _ => some .reduce
  | .vunbn _ _ => some .reduce
  | .vscl _ _ => some .reduce
  | .vcmp _ _ => some .predicate
  | .pand _ _ => some .predicate
  | .por _ _ => some .predicate
  | .pxor _ _ => some .predicate
  | .pandn _ _ => some .predicate
  | .pmov _ _ => some .predicate
  | .pset _ _ => some .predicate
  | .pfirst _ _ => some .predicate
  | .vext _ _ => some .scalar
  | .pcnt _ _ => some .scalar
  | .vrngs _ _ => some .scalar
  | _ => none


end Sys2Proof.Safety
end

