-- ==== Sys2Proof/Safety/Elements.lean ====
section
/-! DEFINITION. What the functions of single elements compute, over rational, real and whole numbers: decoding (R83,
R94), conditions, minimum and maximum (R104, R301), integral values and conversions (R99, R354, R361), the special
functions (R365), the generator (R100, R367), reductions and ranks (R114, R368, R369), bins (R116, R119) and block
scales (R93). -/

namespace Sys2Proof.Safety

open Sys2Proof Sys2Proof.Machine

/-- The floating types of the vector clusters (R82). -/
def vectorFloats : List Flt := [f32, bf16, f16]

/-! ## Encodings and order -/

/-- An encoding of a format with an exponent field stands for its sign, and for (1 + man / 2^m) * 2^(ef - bias), or below
the smallest normal for man / 2^m * 2^(1 - bias), a zero where SUBN = 0 (R83, R87). -/
def DecodesByFields : Prop :=
  ∀ (f : Flt) (x : Nat), HasExponent f →
    let man : Rat := (x % 2 ^ f.m : Nat)
    let ef := x / 2 ^ f.m % 2 ^ f.e
    let neg := f.sgn && decide (x / 2 ^ (f.m + f.e) % 2 = 1)
    let top := ef = 2 ^ f.e - 1 ∧ (f.spec = 1 ∨ f.spec = 2 ∧ x % 2 ^ f.m = 2 ^ f.m - 1)
    (¬top → ef ≠ 0 → magnitudeOf (decodeFlt f x) = some (neg, (1 + man / 2 ^ f.m) * 2 ^ ((ef : Int) - f.bias))) ∧
    (ef = 0 → magnitudeOf (decodeFlt f x) = some (neg, if f.subn then man / 2 ^ f.m * 2 ^ (1 - f.bias) else 0)) ∧
    (top → f.spec = 1 → x % 2 ^ f.m = 0 → decodeFlt f x = .inf neg) ∧
    (top → f.spec = 1 → x % 2 ^ f.m ≠ 0 → decodeFlt f x = .nan neg (decide (x % 2 ^ f.m < 2 ^ (f.m - 1)))) ∧
    (top → f.spec = 2 → decodeFlt f x = .nan neg false)

/-- NARI makes a subnormal source of a format of 8 bits or fewer a zero of its sign (R94, R95). -/
def SourcesFlush : Prop :=
  ∀ (flush : BitVec 3) (f : Flt) (x : Nat) (neg : Bool) (q : Rat), HasExponent f →
    magnitudeOf (decodeFlt f x) = some (neg, q) → magnitudeOf (sourceVal flush (.flt f) x) =
      some (neg, if flush.getLsbD 0 = true ∧ f.width ≤ 8 ∧ q < 2 ^ smallestNormal f then 0 else q)

/-- The order of numbers and infinities, with -0 equal to +0 (R301). -/
def Less (a b : Val) : Prop :=
  match a, b with
  | .inf n, .inf n' => n = true ∧ n' = false
  | .inf n, .num _ _ _ _ => n = true
  | .num _ _ _ _, .inf n => n = false
  | .num _ _ _ _, .num _ _ _ _ => ∃ x y, numberOf a = some x ∧ numberOf b = some y ∧ x < y
  | _, _ => False

/-- Two values are the same number or infinity. -/
def Equals (a b : Val) : Prop :=
  (∃ n, a = .inf n ∧ b = .inf n) ∨ ∃ x, numberOf a = some x ∧ numberOf b = some x

/-- The order with -0 below +0 (R104, R369). -/
def RankLess (a b : Val) : Prop :=
  Less a b ∨ magnitudeOf a = some (true, 0) ∧ magnitudeOf b = some (false, 0)

/-- The tables of R301 and R355. -/
def ConditionsByTable : Prop :=
  ∀ (fm : Fmt) (x y : Nat),
    let a := decodeVal fm x
    let b := decodeVal fm y
    let un := a.isNan = true ∨ b.isNan = true
    (condHolds 0 a b = true ↔ Equals a b) ∧ (condHolds 1 a b = true ↔ ¬Equals a b) ∧
    (condHolds 2 a b = true ↔ Less a b) ∧ (condHolds 3 a b = true ↔ Less a b ∨ Equals a b) ∧
    (condHolds 4 a b = true ↔ Less b a) ∧ (condHolds 5 a b = true ↔ Less b a ∨ Equals a b) ∧
    (condHolds 6 a b = true ↔ un) ∧ (condHolds 7 a b = true ↔ ¬un)

/-- The table of R104: `prop` for the forms that carry a NaN. -/
def MinMaxByTable : Prop :=
  ∀ (f : Flt) (x y : Nat) (wantMax prop : Bool), f ∈ vectorFloats →
    let a := decodeFlt f x
    let b := decodeFlt f y
    let canon := canonNan (.flt f)
    let r := pickMinMax wantMax prop canon a b x y
    decodeFlt f canon = .nan false false ∧
    r.2 = (if a.isSig = true ∨ b.isSig = true then flagInv else 0) ∧
    (a.isNan = true → b.isNan = true → r.1 = canon) ∧
    (a.isNan = true → b.isNan = false → r.1 = if prop then canon else y) ∧
    (a.isNan = false → b.isNan = true → r.1 = if prop then canon else x) ∧
    (RankLess a b → r.1 = if wantMax then y else x) ∧
    (RankLess b a → r.1 = if wantMax then x else y) ∧
    (a.isNan = false → b.isNan = false → ¬RankLess a b → ¬RankLess b a → r.1 = x)

/-! ## Integral values and conversions -/

/-- VFLR (R354): a finite element becomes the integer its mode gives, with its sign; infinities and NaNs pass (R103). -/
def IntegralByMode : Prop :=
  ∀ (f : Flt) (r : Rnd) (a : Nat), f ∈ vectorFloats → Rounds r →
    let out := integralElem (.flt f) r a
    (∀ neg x y, magnitudeOf (decodeFlt f a) = some (neg, x) → RoundedTo r neg 0 x y →
      magnitudeOf (decodeFlt f out.1) = some (neg, y) ∧ out.2 = if y = x then 0 else flagInx) ∧
    (∀ n, decodeFlt f a = .inf n → decodeFlt f out.1 = .inf n ∧ out.2 = 0) ∧
    (∀ n s, decodeFlt f a = .nan n s → decodeFlt f out.1 = .nan n false ∧ out.2 = if s then flagInv else 0)

/-- The signedness and width of an integer format: a type, or a register with EXP = 0 (R82, R88). -/
def integerOf : Fmt → Option (Bool × Nat)
  | .int s w => some (s, w)
  | .flt f => if f.e = 0 then some (f.sgn, f.m + f.sgn.toNat) else none
  | .scale => none

/-- Conversions (R99, R361): between integer formats the value wraps or is clamped, with no flag; any other value is
rounded into the destination. A scale byte multiplies a narrow source by 2^(s - 127) and a wide one by 2^(127 - s); 0xFF
makes the positive canonical NaN. -/
def ConvertsByTable : Prop :=
  (∀ (sf df : Fmt) (r : Rnd) (x : Nat) (i : Int), numberOf (decodeVal sf x) = some (i : Rat) →
    (∀ a signed w, integerOf sf = some a → integerOf df = some (signed, w) → 1 ≤ w →
      convertVal sf df r (decodeVal sf x) = (elemFit signed r.sat w i, 0)) ∧
    (integerOf sf = none ∨ integerOf df = none → convertVal sf df r (decodeVal sf x) = roundVal df r (decodeVal sf x))) ∧
  (∀ (flush : BitVec 3) (sf df : Fmt) (r : Rnd) (x : Nat),
    cvtElem flush sf df r none x = convertVal sf df r (sourceVal flush sf x)) ∧
  (∀ (flush : BitVec 3) (sf df : Fmt) (r : Rnd) (s x : Nat) (neg : Bool) (q : Rat),
    magnitudeOf (sourceVal flush sf x) = some (neg, q) → ∃ v, cvtElem flush sf df r (some s) x = roundVal df r v ∧
      (s = 255 → v = .nan false false) ∧
      (s < 255 → magnitudeOf v = some (neg, q * 2 ^ (if 8 < sf.width then 127 - (s : Int) else (s : Int) - 127))))

/-! ## Special functions (R365) -/

/-- A value is held exactly where `equal` holds of it, and else lies, in its last place, below a number of which `below`
says what is less: 64 bits at the least stand before that place. -/
def Pinned (v : Val) (neg : Bool) (below equal : Rat → Prop) : Prop :=
  match v with
  | .num n m e false => n = neg ∧ equal ((m : Rat) * 2 ^ e)
  | .num n m e true =>
    n = neg ∧ 2 ^ 64 ≤ m ∧ below ((m : Rat) * 2 ^ e) ∧ ¬below (((m : Rat) + 1) * 2 ^ e) ∧ ¬equal (((m : Rat) + 1) * 2 ^ e)
  | _ => False

/-- The reciprocal and the roots of a finite number: the exact value, by the products and squares that define it. -/
def RootsExact : Prop :=
  ∀ (f : Flt) (a : Nat) (neg : Bool) (x : Rat), f ∈ vectorFloats → magnitudeOf (decodeFlt f a) = some (neg, x) →
    let v := decodeFlt f a
    (0 < x → Pinned (rcpVal v) neg (fun y => y * x < 1) fun y => y * x = 1) ∧
    (0 < x → neg = false →
      Pinned (sqrtVal v) false (fun y => y * y < x) (fun y => y * y = x) ∧
      Pinned (rsqVal v) false (fun y => y * y * x < 1) fun y => y * y * x = 1)

/-- The number a value's last place lies at. -/
def placeOf (v : Val) : Option Rat :=
  match v with
  | .num n m e _ => some ((if n then -(m : Rat) else m) * 2 ^ e)
  | _ => none

/-- Powers and logarithms: exact where R365 says so, and elsewhere within 2^-30 of the real number, of an exponent below
2^20 (the precision is the model's reading, log 10). -/
def PowersClose : Prop :=
  ∀ (f : Flt) (a : Nat) (neg : Bool) (m : Rat), f ∈ vectorFloats → magnitudeOf (decodeFlt f a) = some (neg, m) →
    let v := decodeFlt f a
    let x : Rat := if neg then -m else m
    (∀ i : Int, x = i → m < 2 ^ 20 → exp2Val v = .num false 1 i false) ∧
    (m < 2 ^ 20 → ∃ y, placeOf (exp2Val v) = some y ∧ |(y : Real) - Real.rpow 2 x| ≤ 2 ^ (-30 : Int) * Real.rpow 2 x) ∧
    (∀ i : Int, x = 2 ^ i → log2Val v = Val.ofInt i) ∧
    (0 < x → ∃ y, placeOf (log2Val v) = some y ∧ |(y : Real) - Real.logb 2 x| ≤ 2 ^ (-30 : Int))

/-- The special cases of R365: zeros, infinities, NaNs and negative numbers. -/
def SpecialsByTable : Prop :=
  (∀ n e, let zero : Val := .num n 0 e false
    exp2Val zero = .num false 1 0 false ∧ log2Val zero = .inf true ∧ rcpVal zero = .inf n ∧ rsqVal zero = .inf n ∧
      sqrtVal zero = .zero n) ∧
  (∀ m e, m ≠ 0 → let below : Val := .num true m e false
    log2Val below = .nan false true ∧ rsqVal below = .nan false true ∧ sqrtVal below = .nan false true) ∧
  (∀ n, let inf : Val := .inf n
    exp2Val inf = (if n then .zero false else .inf false) ∧ rcpVal inf = .zero n ∧
      log2Val inf = (if n then .nan false true else .inf false) ∧
      rsqVal inf = (if n then .nan false true else .zero false) ∧
      sqrtVal inf = if n then .nan false true else .inf false) ∧
  (∀ n s, let nan : Val := .nan n s
    exp2Val nan = nan ∧ log2Val nan = nan ∧ rcpVal nan = nan ∧ rsqVal nan = nan ∧ sqrtVal nan = nan)

/-! ## The generator (R100, R367) -/

/-- A seeded lane, a lane's step, and the element a draw gives. -/
def GeneratorByRule : Prop :=
  (∀ seed i, seed < 2 ^ 32 → i < 128 →
    let x := seed ^^^ (i * 0x9E3779B9 % 2 ^ 32)
    elemAt 32 (genSeed seed) i = if x = 0 then 0x6D2B79F5 else x) ∧
  (∀ (g : Row) i, i < 128 →
    let x := elemAt 32 g i
    let y := x ^^^ (x * 2 ^ 13 % 2 ^ 32)
    let z := y ^^^ (y / 2 ^ 17)
    elemAt 32 (genStep g) i = z ^^^ (z * 2 ^ 5 % 2 ^ 32)) ∧
  (∀ x, x < 2 ^ 32 → rngElem 7 x = x ∧
    magnitudeOf (decodeFlt f32 (rngElem 8 x)) = some (false, ((x / 2 ^ 8 : Nat) : Rat) * 2 ^ (-24 : Int)))

/-! ## Reductions and ranks -/

/-- The product of R114: the first term, and each later one multiplied in and rounded to f32 (R95). -/
def productOf (flush : BitVec 3) (v : Val) (vs : List Val) : Val × FlagSet :=
  vs.foldl (fun a w =>
    let r := roundedF32 false flush (mulVal a.1 w)
    (decodeFlt f32 r.1, a.2 ||| r.2)) (v, 0)

/-- Reductions of the present elements in the order of their index (R110, R114, R368): the identity of none; integers in
whole numbers; floats by the sums of the version, by R104, or by the linear product; f16 and bf16 rounded once from f32. -/
def ReducesByRule : Prop :=
  (∀ (c : Ctx) (signed : Bool) (w rop : Nat) (r : Rnd) (xs : List (Option Nat)), 2 ≤ w → rop < 6 →
    (∀ x ∈ xs.filterMap id, x < 2 ^ w) →
    let l := xs.filterMap id
    let out := reduceElems c (.int signed w) rop r xs
    let ints := l.map (elemInt signed w)
    let lo : Int := if signed then -2 ^ (w - 1) else 0
    let hi : Int := if signed then 2 ^ (w - 1) - 1 else 2 ^ w - 1
    (l = [] → out = ([0, elemFit signed false w hi, elemFit signed false w lo, 2 ^ w - 1, 0, 1].getD rop 0, 0)) ∧
    (l ≠ [] →
      (rop = 0 → out = (elemFit signed r.sat w ints.sum, if ints.sum < lo ∨ hi < ints.sum then flagOvf else 0)) ∧
      (rop = 1 → out.1 ∈ l ∧ out.2 = 0 ∧ ∀ x ∈ l, elemInt signed w out.1 ≤ elemInt signed w x) ∧
      (rop = 2 → out.1 ∈ l ∧ out.2 = 0 ∧ ∀ x ∈ l, elemInt signed w x ≤ elemInt signed w out.1) ∧
      (rop = 3 → out.2 = 0 ∧ ∀ b, b < w → out.1.testBit b = l.all fun x => x.testBit b) ∧
      (rop = 4 → out.2 = 0 ∧ ∀ b, out.1.testBit b = l.any fun x => x.testBit b) ∧
      (rop = 5 → out = (elemFit signed r.sat w ints.prod, 0)))) ∧
  (∀ (c : Ctx) (f : Flt) (rop : Nat) (r : Rnd) (xs : List (Option Nat)), f ∈ vectorFloats → Rounds r →
    let l := xs.filterMap id
    let out := reduceElems c (.flt f) rop r xs
    let nan (x : Nat) := (decodeFlt f x).isNan
    let into (x : Nat × FlagSet) : Nat × FlagSet :=
      if f = f32 then x else ((roundFlt f r (decodeFlt f32 x.1)).1, x.2 ||| (roundFlt f r (decodeFlt f32 x.1)).2)
    let best (up : Bool) : Prop :=
      out.2 = (if l.any fun x => (decodeFlt f x).isSig then flagInv else 0) ∧ (l.all nan = true → out.1 = canonNan (.flt f)) ∧
      (l.all nan = false → out.1 ∈ l ∧ nan out.1 = false ∧ ∀ x ∈ l, nan x = false →
        if up then ¬RankLess (decodeFlt f out.1) (decodeFlt f x) else ¬RankLess (decodeFlt f x) (decodeFlt f out.1))
    (l = [] → out.2 = 0 ∧ (rop = 0 → magnitudeOf (decodeFlt f out.1) = some (false, 0)) ∧
      (rop = 1 → decodeFlt f out.1 = .inf false) ∧ (rop = 2 → decodeFlt f out.1 = .inf true) ∧
      (rop = 5 → magnitudeOf (decodeFlt f out.1) = some (false, 1))) ∧
    (l ≠ [] →
      (rop = 0 → out = into (sumOf c.ctl.nbv.toNat r.sat c.ctl.flush xs.length
        (fun k => (xs.getD k none).map (decodeFlt f)) none)) ∧
      (rop = 1 → best false) ∧ (rop = 2 → best true)) ∧
    (∀ v vs, l.map (decodeFlt f) = v :: vs → rop = 5 →
      let p := productOf c.ctl.flush v vs
      let y := roundedF32 false c.ctl.flush p.1
      out = into (y.1, p.2 ||| y.2)))

/-- Ranks (R369, R371): a NaN below every number; the chosen element is the first of the highest, or lowest, number. -/
def RanksByRule : Prop :=
  ∀ (fm : Fmt), fm ∈ vectorFloats.map Fmt.flt ∨ (∃ s w, fm = .int s w) →
    let v (x : Nat) := decodeVal fm x
    (∀ x y, keyAbove fm x y = true ↔ (v x).isNan = false ∧ ((v y).isNan = true ∨ RankLess (v y) (v x))) ∧
    ∀ (up : Bool) (l : List (Nat × Nat)),
      let above (x y : Nat) : Prop := if up then RankLess (v y) (v x) else RankLess (v x) (v y)
      (ramPick fm up l = none ↔ ∀ x ∈ l, (v x.1).isNan = true) ∧
      (∀ x, ramPick fm up l = some x → ∃ before after, l = before ++ x :: after ∧ (v x.1).isNan = false ∧
        (∀ y ∈ before, (v y.1).isNan = false → above x.1 y.1) ∧
        ∀ y ∈ after, (v y.1).isNan = false → ¬above y.1 x.1)

/-! ## Bins and block scales -/

/-- The split of an f32 value under Emax (R116) and the recombination of a triple (R119). -/
def BinsByRule : Prop :=
  (∀ (emax : Int) (a : Nat), -128 ≤ emax → emax ≤ 127 →
    let v := decodeFlt f32 a
    let r := splitBins emax v
    let bins (i j k : Int) (stat : Nat) : Prop := r.1.b0.toInt = i ∧ r.1.b1.toInt = j ∧ r.1.b2.toInt = k ∧ r.1.stat.toNat = stat
    ((v.isNan = true ∨ v.isInf = true) → bins 0 0 0 2 ∧ r.2 = flagInv ||| flagBinov) ∧
    ∀ neg x, magnitudeOf v = some (neg, x) →
      let sign : Int := if neg then -1 else 1
      let q := (x / 2 ^ (emax - 119)).floor
      (2 ^ (emax + 1) ≤ x → bins (sign * (2 ^ 40 - 1)) (sign * (2 ^ 40 - 1)) (sign * (2 ^ 40 - 1)) 2 ∧ r.2 = flagBinov) ∧
      (x < 2 ^ (emax + 1) → bins (sign * (q / 2 ^ 80)) (sign * (q / 2 ^ 40 % 2 ^ 40)) (sign * (q % 2 ^ 40)) 0 ∧
        r.2 = if (q : Rat) * 2 ^ (emax - 119) = x then 0 else flagInx)) ∧
  (∀ (emax : Int) (sat : Bool) (flush : BitVec 3) (z : Triple),
    let t := z.b0.toInt * 2 ^ 80 + z.b1.toInt * 2 ^ 40 + z.b2.toInt
    (z.stat ≠ 0 → decodeFlt f32 (joinBins emax sat flush z).1 = .nan false false ∧ (joinBins emax sat flush z).2 = flagBinov) ∧
    (z.stat = 0 → t = 0 → joinBins emax sat flush z = (0, 0)) ∧
    (z.stat = 0 → t ≠ 0 → RoundsInto f32 ⟨0, sat, 0, flush⟩ (decide (t < 0)) ((t.natAbs : Rat) * 2 ^ (emax - 119))
      (joinBins emax sat flush z)))

/-- `k` is the exponent of a destination's largest finite value (R93). -/
def LargestExponent (dst : Fmt) (k : Int) : Prop :=
  match dst with
  | .int signed w => k = if signed then (w : Int) - 2 else (w : Int) - 1
  | .flt f => ∃ g, GreatestOf f g ∧ (2 : Rat) ^ k ≤ g ∧ g < 2 ^ (k + 1)
  | .scale => False

/-- The scale byte of a block and its elements (R93). -/
def ScalesByRule : Prop :=
  (∀ (dst : Fmt) (xs : List Nat) (k : Int), LargestExponent dst k → (∀ f, dst = .flt f → HasExponent f) →
    let vs := xs.map (decodeFlt f32)
    let s := blockScale dst vs
    ((∃ v ∈ vs, v.isNan = true ∨ v.isInf = true) → s = 255) ∧
    ((∀ v ∈ vs, ∃ n, magnitudeOf v = some (n, 0)) → s = 127) ∧
    (∀ a n e, (∃ v ∈ vs, magnitudeOf v = some (n, a)) → (∀ v ∈ vs, ∃ m b, magnitudeOf v = some (m, b) ∧ b ≤ a) →
      (2 : Rat) ^ e ≤ a → a < 2 ^ (e + 1) → (s : Int) = max 0 (min 254 (e - k + 127)))) ∧
  (∀ (dst : Fmt) (r : Rnd) (s : Nat) (v : Val) (neg : Bool) (x : Rat), magnitudeOf v = some (neg, x) →
    (s = 255 → quantise dst r s v = (0, 0)) ∧
    (s < 255 → ∃ w, magnitudeOf w = some (neg, x / 2 ^ ((s : Int) - 127)) ∧
      let y := roundVal dst { r with sat := true } w
      ((∀ g n, dst ≠ .int g n) → quantise dst r s v = y) ∧
      (∀ g n, dst = .int g n → quantise dst r s v = (y.1, if y.2 &&& flagInv = 0 then y.2 else flagOvf ||| flagInx))))

end Sys2Proof.Safety
end

