-- ==== Sys2Proof/Safety/Scalar.lean ====
section
/-! DEFINITION. What the scalar instructions compute, in whole numbers (R275 to R335), beside the machine's own
definitions of them in words. -/

namespace Sys2Proof.Safety

open Sys2Proof Sys2Proof.Machine

/-- The guard of an S syllable is resolved, and lets the syllable execute (R76, R123). -/
def Executes (f : SSyl) (c : Ctx) : Prop :=
  gresolved c f.g.toNat = true ∧ gget c f.g.toNat = (f.gn == 0)

/-- The guard of an S syllable is resolved, and does not let the syllable execute (R123). -/
def Skips (f : SSyl) (c : Ctx) : Prop :=
  gresolved c f.g.toNat = true ∧ gget c f.g.toNat = (f.gn == 1)

/-- A scalar instruction with one result: its syllable, the registers whose poison its result takes, the result modulo
2^64, and the cycles to its visibility. -/
structure ScalarRow where
  f : SSyl
  srcs : List Nat
  val : Int
  lat : Nat

/-- Bit `n` of each of 64 places is one. -/
def onesOf (f : Nat → Bool) : Int := ((List.range 64).map fun n => if f n then (2 : Int) ^ n else 0).sum

/-- The conditions of R287 on two words. -/
def compares (cc : Nat) (a b : W64) : Bool :=
  match cc with
  | 0 => decide (a.toNat = b.toNat)
  | 1 => decide (a.toNat ≠ b.toNat)
  | 2 => decide (a.toInt < b.toInt)
  | 3 => decide (a.toInt ≤ b.toInt)
  | 4 => decide (a.toInt > b.toInt)
  | 5 => decide (a.toInt ≥ b.toInt)
  | 6 => decide (a.toNat < b.toNat)
  | 7 => decide (a.toNat ≤ b.toNat)
  | 8 => decide (a.toNat > b.toNat)
  | 9 => decide (a.toNat ≥ b.toNat)
  | _ => (List.range 64).any fun n => a.toNat.testBit n && b.toNat.testBit n

/-- A quotient or remainder of whole numbers, truncated toward zero; by zero, as R298 has it. -/
def divided (f : SSyl) (a b byZero : Int) : Int :=
  let rem := bits f.imm 0 0 = 1
  if b = 0 then (if rem then byZero else -1) else if rem then a.tmod b else a.tdiv b

/-- A field of a word from bit `off`, of `wid` bits or as many as are left; outside the word, or of no width, 0 (R282). -/
def fieldOf (signed : Bool) (a : Nat) (off wid : Nat) : Int :=
  let w := min wid (64 - off)
  let x : Int := a / 2 ^ off % 2 ^ w
  if off ≥ 64 ∨ wid = 0 then 0 else if signed ∧ 2 * x ≥ 2 ^ w then x - 2 ^ w else x

/-- The low `w` bits of a number, sign-extended to `n` bits. -/
def signExtended (w n x : Nat) : Nat := if 2 ^ (w - 1) ≤ x % 2 ^ w then x % 2 ^ w + 2 ^ n - 2 ^ w else x % 2 ^ w

/-- What each scalar instruction with one result computes; none for the others. -/
def scalarRow (i : Instr) (s : State) : Option ScalarRow :=
  let c := cur s
  let u (n : BitVec 6) : Nat := (sget c n.toNat).toNat
  let v (n : BitVec 6) : Int := (sget c n.toNat).toInt
  let two (f : SSyl) := [f.a.toNat, f.b.toNat]
  let one (f : SSyl) := [f.a.toNat]
  let places (f : SSyl) : Nat := ((v f.b + f.imm.toInt) % 64).toNat
  let field (f : SSyl) : Nat × Nat :=
    if bits f.imm 15 15 = 1 then (u f.b % 2 ^ 7, u f.b / 2 ^ 8 % 2 ^ 7) else (bits f.imm 6 0, bits f.imm 14 8)
  let fieldSrcs (f : SSyl) := if bits f.imm 15 15 = 1 then two f else one f
  let truth (p : Bool) : Int := if p then 1 else 0
  match i with
  | .add f => some ⟨f, two f, v f.a + v f.b, 1⟩
  | .addi f => some ⟨f, one f, v f.a + f.imm.toInt, 1⟩
  | .sub f => some ⟨f, two f, v f.a - v f.b, 1⟩
  | .and f => some ⟨f, two f, onesOf fun n => (u f.a).testBit n && (u f.b).testBit n, 1⟩
  | .or f => some ⟨f, two f, onesOf fun n => (u f.a).testBit n || (u f.b).testBit n, 1⟩
  | .xor f => some ⟨f, two f, onesOf fun n => (u f.a).testBit n != (u f.b).testBit n, 1⟩
  | .andn f => some ⟨f, two f, onesOf fun n => (u f.a).testBit n && !(u f.b).testBit n, 1⟩
  | .shl f => some ⟨f, two f, u f.a * 2 ^ places f, 1⟩
  | .shr f => some ⟨f, two f, (u f.a / 2 ^ places f : Nat), 1⟩
  | .sar f => some ⟨f, two f, v f.a / 2 ^ places f, 1⟩
  | .rotr f => some ⟨f, two f, onesOf fun n => (u f.a).testBit ((n + places f) % 64), 1⟩
  | .mini f => some ⟨f, two f, min (v f.a) (v f.b), 1⟩
  | .maxi f => some ⟨f, two f, max (v f.a) (v f.b), 1⟩
  | .minz f => some ⟨f, two f, min (u f.a) (u f.b), 1⟩
  | .maxz f => some ⟨f, two f, max (u f.a) (u f.b), 1⟩
  | .clz f => some ⟨f, one f, if u f.a = 0 then 64 else 63 - Nat.log2 (u f.a), 1⟩
  | .popc f => some ⟨f, one f, ((List.range 64).filter fun n => (u f.a).testBit n).length, 1⟩
  | .mul f => some ⟨f, two f, v f.a * v f.b, 3⟩
  | .mulh f => some ⟨f, two f, v f.a * v f.b / 2 ^ 64, 3⟩
  | .mulhz f => some ⟨f, two f, (u f.a * u f.b / 2 ^ 64 : Nat), 3⟩
  | .div f => some ⟨f, two f, divided f (v f.a) (v f.b) 0, 12⟩
  | .divz f => some ⟨f, two f, divided f (u f.a) (u f.b) (-1), 12⟩
  | .bfx f => some ⟨f, fieldSrcs f, fieldOf true (u f.a) (field f).1 (field f).2, 1⟩
  | .bfxz f => some ⟨f, fieldSrcs f, fieldOf false (u f.a) (field f).1 (field f).2, 1⟩
  | .sel f =>
    let n := bits f.imm 5 0
    if sget c n ≠ 0 then some ⟨f, [n, f.a.toNat], u f.a, 1⟩ else some ⟨f, [n, f.b.toNat], u f.b, 1⟩
  | .li f => some ⟨f, [], f.imm.toInt, 1⟩
  | .lih f => some ⟨f, one f, (f.imm.toNat * 2 ^ 32 + u f.a % 2 ^ 32 : Nat), 1⟩
  | .mov f => some ⟨f, one f, u f.a, 1⟩
  | .movTl f => some ⟨f, [], (tget 0 (bits f.imm 1 0) c.regs.tl).toNat, 1⟩
  | .cmp f => some ⟨f, two f, truth (compares (bits f.imm 3 0) (sget c f.a.toNat) (sget c f.b.toNat)), 1⟩
  | .cmpi f =>
    some ⟨f, one f, truth (compares (bits f.imm 3 0) (sget c f.a.toNat) (BitVec.ofInt 64 (f.imm.toInt / 16))), 1⟩
  | .addr f => some ⟨f, two f, u f.a + u f.b * 2 ^ bits f.imm 5 0 + f.imm.toInt / 256, 1⟩
  | .ccnr f => some ⟨f, [], (s.ccn % 2 ^ 64 : Nat), 1⟩
  | _ => none

/-- A scalar result in flight: no flag, visible `lat` cycles after the issue of its bundle, so landing in the cycle
before (R74). -/
def resultFlight (d : Nat) (val : W64) (pois : Bool) (lat : Nat) (c : Ctx) : Flight :=
  { file := .scalar, reg := d, val := val.setWidth 4096, pois := pois, flags := 0, subst := 0, byp := none
    land := c.pos.clk + lat - 1, slow := false, seq := 0 }

/-- The instruction completes with one scalar result, and changes nothing else. -/
def Delivers (i : Instr) (s : State) (d : Nat) (val : W64) (pois : Bool) (lat : Nat) : Prop :=
  IssuesTo i s (flying (resultFlight d val pois lat (cur s)) (cur s))

/-- The instructions of R276 and R282 that work on the bits of a word. -/
def bitwise (i : Instr) : Bool :=
  match i with
  | .and _ => true
  | .or _ => true
  | .xor _ => true
  | .andn _ => true
  | .shl _ => true
  | .shr _ => true
  | .sar _ => true
  | .rotr _ => true
  | .clz _ => true
  | .popc _ => true
  | .bfx _ => true
  | .bfxz _ => true
  | _ => false

/-- The whole row: its value in its register (R74, R224). -/
def RowDelivered (i : Instr) (s : State) (r : ScalarRow) : Prop :=
  Delivers i s r.f.d.toNat (BitVec.ofInt 64 r.val) (r.srcs.any (spois (cur s))) r.lat

end Sys2Proof.Safety
end

