-- ==== Sys2Proof/Safety/Issue.lean ====
section
/-! DEFINITION. How a syllable ends at issue, and how a step runs the instruction it decodes (R45, R122, R250). -/

namespace Sys2Proof.Safety

open Sys2Proof Sys2Proof.Machine

/-- The syllable of slot `sl` takes the trap of a cause (R250, R254), with nothing of its own done (R122). -/
def Traps (i : Instr) (s : State) (sl : Slot) (r : Raise) : Prop :=
  exec i s = .next (takeTrap (curId s) (issueEvent s sl.num r) s)

/-- A cause with no detail and no value. -/
def plain (cause : Nat) : Raise := ⟨cause, 0, 0⟩

/-- No input of the world outside is due. -/
def NoInputDue (s : State) : Prop := ∀ x ∈ s.inbox.head?, now s < x.1

/-- A bundle holds one instruction, in the slot `sl`; its other syllables are all-zero NOPs. -/
def HoldsAlone (b : BitVec 512) (sl : Slot) (i : Instr) : Prop :=
  decodeBundle b = Slot.all.map fun x => (x, if x = sl then i else .nop x 0)

/-- The S instructions whose only checks at issue are those of their own bits and of their guard, so that a false guard
leaves nothing of them (R123): the scalar arithmetic, and the instructions named. -/
def guardOnly (i : Instr) (s : State) : Option SSyl :=
  match i with
  | .bfi f => some f
  | .gset f => some f
  | .fadd f => some f
  | .fmul f => some f
  | .ffma f => some f
  | .fcmp f => some f
  | .fcvt f => some f
  | i => (scalarRow i s).map (·.f)

/-- The S instructions and their syllables. -/
def scalarSyllable (i : Instr) (s : State) : Option SSyl :=
  match i with
  | .br f => some f
  | .call f => some f
  | .ret f => some f
  | .loop f => some f
  | .loopi f => some f
  | .brk f => some f
  | .ntreq f => some f
  | .sysr f => some f
  | .sysw f => some f
  | .lcbWrite f => some f
  | .tebWrite f => some f
  | .nbvWrite f => some f
  | .prioWrite f => some f
  | .flagsWrite f => some f
  | .phtselWrite f => some f
  | .lstkWrite f => some f
  | .trapaWrite f => some f
  | .trap f => some f
  | .trapHsave f => some f
  | .trapHload f => some f
  | .trapCres f => some f
  | .trapCabn f => some f
  | .trapKill f => some f
  | .trapCancel f => some f
  | .rft f => some f
  | .tend f => some f
  | i => guardOnly i s

/-- The instructions that only the supervisor may execute (R140, R255, R256). -/
def privilegedSyllable (i : Instr) : Bool :=
  match i with
  | .sysr f => sysReadPriv f.sysNum
  | .sysw f => sysWritePriv f.sysNum
  | .lcbWrite _ => true
  | .tebWrite _ => true
  | .nbvWrite _ => true
  | .prioWrite _ => true
  | .phtselWrite _ => true
  | .lstkWrite _ => true
  | .trapaWrite _ => true
  | .trapHsave _ => true
  | .trapHload _ => true
  | .trapCres _ => true
  | .trapCabn _ => true
  | .trapKill _ => true
  | .trapCancel _ => true
  | .rft _ => true
  | _ => false

end Sys2Proof.Safety
end

