-- ==== Sys2Proof/Safety/System.lean ====
section
/-! DEFINITION. The system registers as numbers (R140, R254, R262), and the position a bundle leaves (R142, R316). -/

namespace Sys2Proof.Safety

open Sys2Proof Sys2Proof.Machine

/-- The context a system register number acts on (R254): in the supervisor, 0x002 to 0x027 act on the slot TRAPC
names. -/
def sysTarget (s : State) (n : Nat) : Nat :=
  if s.slot = 4 ∧ 2 ≤ n ∧ n ≤ 0x27 then 5 * s.core + min ((coreOf s s.core).sup.trapc.toNat / 2 ^ 58 % 2 ^ 3) 4
  else curId s

/-- The value of each system register, field by field (R16, R22, R140, R254, R262); none for a number that has none. -/
def sysValue (s : State) (n : Nat) : Option Nat :=
  let c := ctxOf s (sysTarget s n)
  let p := c.pos
  let u := (coreOf s s.core).sup
  match n with
  | 0x000 => some (devid s.dev (curPart s)).toNat
  | 0x001 => some s.slot
  | 0x002 => some c.ctl.prio.toNat
  | 0x008 => some c.ctl.nbv.toNat
  | 0x009 => some c.ctl.flush.toNat
  | 0x00A => some c.ctl.rmode.toNat
  | 0x00B => some c.ctl.flags.toNat
  | 0x00C => some c.ctl.subst.toNat
  | 0x020 => some (p.calls.length * 2 ^ 8 + p.loops.length)
  | 0x021 => some (p.clk % 2 ^ 32 * 2 ^ 32 + p.sb.toNat * 2 ^ 15 + p.snext.toNat * 2 ^ 8 + p.buf.toNat * 2 ^ 7 +
      (if p.inph then 2 ^ 6 else 0) + p.entry.toNat)
  | 0x022 => some c.ctl.teb.toNat
  | 0x024 => some (c.ctl.sam.toNat % 2 ^ 64)
  | 0x025 => some (c.ctl.sam.toNat / 2 ^ 64 % 2 ^ 64)
  | 0x026 => some (c.ctl.sam.toNat / 2 ^ 128 % 2 ^ 64)
  | 0x027 => some (c.ctl.sam.toNat / 2 ^ 192)
  | 0x030 => some u.trapc.toNat
  | 0x031 => some u.trapa.toNat
  | 0x032 => some u.trapv.toNat
  | 0x040 => some (partAt s (curPart s)).launch.lcb.toNat
  | n => if 0x10 ≤ n ∧ n ≤ 0x17 then some (tget 0 (n - 0x10) c.ctl.fm).toNat else none

/-- The control registers after a write of `v` (R48, R87, R90, R94, R96, R106, R108, R73): each takes its own bits. -/
def ctlAfter (n v : Nat) (c : Ctl) : Ctl :=
  let x := c.sam.toNat
  let word (k : Nat) : Ctl :=
    { c with sam := BitVec.ofNat 256 (x - x / 2 ^ (64 * k) % 2 ^ 64 * 2 ^ (64 * k) + v * 2 ^ (64 * k)) }
  match n with
  | 0x002 => { c with prio := BitVec.ofNat 2 v }
  | 0x008 => if v = 1 ∨ v = 2 ∨ v = 3 then { c with nbv := BitVec.ofNat 8 v } else c
  | 0x009 => { c with flush := BitVec.ofNat 3 v }
  | 0x00A => { c with rmode := if v % 8 = 6 ∨ v % 8 = 7 then 0 else BitVec.ofNat 3 v }
  | 0x00B => { c with flags := BitVec.ofNat 6 v }
  | 0x00C => { c with subst := BitVec.ofNat 16 v }
  | 0x024 => word 0
  | 0x025 => word 1
  | 0x026 => word 2
  | 0x027 => word 3
  | n =>
    if 0x10 ≤ n ∧ n ≤ 0x17 then
      { c with fm := tset 0 (n - 0x10) (BitVec.ofNat 32 (v % 2 ^ 32 / 2 ^ 13 * 2 ^ 13)) c.fm }
    else c

/-- The SYSW of a control register of a context, with its syllable (R140). -/
def ctlWriter (i : Instr) : Option SSyl :=
  match i with
  | .sysw f =>
    if 9 ≤ f.sysNum ∧ f.sysNum ≤ 0xC ∨ 0x10 ≤ f.sysNum ∧ f.sysNum ≤ 0x17 ∨ 0x24 ≤ f.sysNum ∧ f.sysNum ≤ 0x27 then some f
    else none
  | .flagsWrite f => some f
  | .nbvWrite f => some f
  | .prioWrite f => some f
  | _ => none

/-- A SYSW and its syllable (R343). -/
def syswSyllable (i : Instr) : Option SSyl :=
  match i with
  | .sysw f => some f
  | .lcbWrite f => some f
  | .tebWrite f => some f
  | .nbvWrite f => some f
  | .prioWrite f => some f
  | .flagsWrite f => some f
  | .phtselWrite f => some f
  | .lstkWrite f => some f
  | .trapaWrite f => some f
  | _ => none

/-- The innermost entries that end at a bundle are on their last trip, and `rest` is what lies outside them (R316). -/
def LastTrips (stop : Nat) (loops rest : List LoopEnt) : Prop :=
  ∃ done, loops = done ++ rest ∧ ∀ e ∈ done, e.stop = stop ∧ e.count ≤ 1

end Sys2Proof.Safety
end

