-- ==== Sys2Proof/Safety/Timed.lean ====
section
/-! DEFINITION. Timed loads and stores, their accesses and their landings (R59 to R66, R74, R307 to R312, R340, R341). -/

namespace Sys2Proof.Safety

open Sys2Proof Sys2Proof.Machine

/-- A load instruction: what it moves, whether it is speculative, whether its tiles are compared (R71, R308, R311,
R312). -/
def loadKind (i : Instr) : Option (LsKind × Bool × Bool × LSyl) :=
  match i with
  | .ld f => some (.vec, false, true, f)
  | .ldSp f => some (.vec, true, true, f)
  | .ldc f => some (.pred, false, true, f)
  | .lds f => some (.word, false, true, f)
  | .ldsSp f => some (.word, true, true, f)
  | .ldt f => some (.tag, false, false, f)
  | _ => none

/-- A store instruction and what it moves (R340, R341). -/
def storeKind (i : Instr) : Option (LsKind × LSyl) :=
  match i with
  | .st f => some (.vec, f)
  | .stc f => some (.pred, f)
  | .sts f => some (.word, f)
  | .stt f => some (.tag, f)
  | .stz f => some (.zero, f)
  | _ => none

/-- What an access of a block touches: the first row, how many rows, the column, and the place in the row in units of
what it moves. -/
structure Touch where
  row : Nat
  rows : Nat
  col : Nat
  sub : Nat

/-- The address decoding (R64, R308, R340); none outside the range. -/
def touched (kind : LsKind) (col : Bool) (a : Nat) : Option Touch :=
  match kind with
  | .pred => if a < 6144 then some ⟨a / 8, 1, 0, a % 8⟩ else none
  | .word => if a < 49152 then some ⟨a / 64, 1, 0, a % 64⟩ else none
  | .tag => if a < 768 then some ⟨a, 1, 0, 0⟩ else none
  | _ =>
    if col then if a < 16384 ∧ a % 1024 ≤ 752 then some ⟨a % 1024, 16, a / 1024, 0⟩ else none
    else if a < 768 then some ⟨a, 1, 0, 0⟩ else none

/-- The address of an LD or SD syllable (R64). -/
def lsAddress (f : LSyl) (c : Ctx) : Nat := (sget c f.sb.toNat).toNat + f.off.toNat

/-- The station of the syllable's register file (R59, R61). -/
def lsStation (kind : LsKind) (f : LSyl) : Nat :=
  match kind with
  | .word => 7
  | .tag => 7
  | _ => if f.cl = 0 then 3 else 5

/-- The hop count (R61): the distance of block and station on the ring of 16 stations, in the legal direction. -/
def hopCount (blk st : Nat) : Nat := min ((2 * blk + 16 - st) % 16) ((st + 16 - 2 * blk) % 16)

/-- The register file and register of the syllable (R128, R308, R340). -/
def lsTarget (kind : LsKind) (f : LSyl) : RegFile × Nat :=
  match kind with
  | .word => (.scalar, 32 * f.cl.toNat + f.d.toNat)
  | .tag => (.scalar, 32 * f.cl.toNat + f.d.toNat)
  | .pred => (if f.cl = 0 then .pa else .pb, f.d.toNat % 8)
  | _ => (if f.cl = 0 then .va else .vb, f.d.toNat)

/-- The rows an access touches lie in tiles of the slot's task (R67, R68). -/
def ownsRows (s : State) (blk : Nat) (x : Touch) : Prop :=
  ∀ j, j < x.rows → x.row + j < 768 ∧ tileMine (coreOf s s.core) s.slot (96 * blk + (x.row + j) / 8) = true

/-- A timed load as it goes in flight (R62). -/
def loadOf (kind : LsKind) (spec : Bool) (f : LSyl) (x : Touch) (c : Ctx) : LoadOp :=
  let h := hopCount f.blk.toNat (lsStation kind f)
  { kind := kind, file := (lsTarget kind f).1, reg := (lsTarget kind f).2, blk := f.blk.toNat, row := x.row, col := x.col
    am := f.am == 1, sub := x.sub, lane := f.lane.toNat, hop := h, spec := spec, read := c.pos.clk + 2
    land := c.pos.clk + 3 + h, data := none, seq := c.fly.seq }

/-- A timed store as it goes in flight (R62). -/
def storeOf (kind : LsKind) (f : LSyl) (x : Touch) (c : Ctx) : StoreOp :=
  let h := hopCount f.blk.toNat (lsStation kind f)
  { kind := kind, file := (lsTarget kind f).1, reg := (lsTarget kind f).2, mask := f.p.toNat, blk := f.blk.toNat
    row := x.row, col := x.col, am := f.am == 1, sub := x.sub, lane := f.lane.toNat, hop := h
    write := c.pos.clk + 2 + h, data := none, seq := c.fly.seq }

/-- The tiles of the rows an access touches (R67). -/
def tilesOf (blk : Nat) (x : Touch) : List Nat :=
  ((List.range x.rows).map fun j => 96 * blk + (x.row + j) / 8).eraseDups

/-- The context with a load in flight, its listed tiles now compared (R62, R71). -/
def loading (l : LoadOp) (tiles : List Nat) (c : Ctx) : Ctx :=
  { noteCompared tiles c with fly := { c.fly with loads := c.fly.loads ++ [l], seq := c.fly.seq + 1 } }

/-- The context with a store in flight (R62). -/
def storing (w : StoreOp) (c : Ctx) : Ctx :=
  { c with fly := { c.fly with stores := c.fly.stores ++ [w], seq := c.fly.seq + 1 } }

/-- Byte `j` of a row (R65). -/
def rowByte (r : Row) (j : Nat) : Nat := elemAt 8 r j

/-- The byte a store leaves at byte `j` of row `key` of its core (R64, R65, R340). -/
def storedByte (w : StoreOp) (d : Row) (m : Pred) (key j : Nat) : Option Nat :=
  let base := 768 * w.blk + w.row
  if w.am then
    if base ≤ key ∧ key < base + 16 ∧ 32 * w.col ≤ j ∧ j < 32 * w.col + 32 ∧
        m.getLsbD (32 * (key - base) + (j - 32 * w.col)) then
      some (rowByte d (32 * (key - base) + (j - 32 * w.col)))
    else none
  else if key = base ∧ m.getLsbD j then some (rowByte d j) else none

/-- The registers after a landing: the one it names holds the value and its poison; s0, pa0, pb0 and g0 discard it
(R72, R74, R222). -/
structure Lands (f : Flight) (c d : Ctx) : Prop where
  scalars : ∀ n, n < 64 → sget d n = (if f.file = .scalar ∧ n = f.reg ∧ n ≠ 0 then f.val.setWidth 64 else sget c n) ∧
    spois d n = (if f.file = .scalar ∧ n = f.reg ∧ n ≠ 0 then f.pois else spois c n)
  vectors : ∀ n, n < 64 →
    let hit := f.file = .va ∧ n = f.reg ∨ f.file = .vb ∧ n = 32 + f.reg
    (hit → vget d n = f.val ∧ d.regs.vPois.getLsbD n = f.pois) ∧
    (¬hit → vget d n = vget c n ∧ d.regs.vPois.getLsbD n = c.regs.vPois.getLsbD n)
  preds : ∀ n, n < 16 →
    let hit := n % 8 ≠ 0 ∧ (f.file = .pa ∧ n = f.reg ∨ f.file = .pb ∧ n = 8 + f.reg)
    (hit → pget d n = f.val.setWidth 512 ∧ ppois d n = f.pois) ∧ (¬hit → pget d n = pget c n ∧ ppois d n = ppois c n)
  guards : ∀ n, n < 32 → gget d n = if f.file = .guard ∧ n = f.reg ∧ n ≠ 0 then f.val.getLsbD 0 else gget c n
  bypass : ∀ k, tget 0 k d.regs.byp = if f.byp = some k then f.val else tget 0 k c.regs.byp
  ctl : d.ctl =
    let x := if f.file = .sys then ctlAfter f.reg (f.val.toNat % 2 ^ 64) c.ctl else c.ctl
    { x with flags := x.flags ||| f.flags, subst := x.subst ||| f.subst }
  fly : d.fly = { c.fly with
    flights := c.fly.flights.filter fun x => x.seq != f.seq, loads := c.fly.loads.filter fun x => x.seq != f.seq }
  rest : d = { c with regs := d.regs, ctl := d.ctl, fly := d.fly } ∧ d.regs.tl = c.regs.tl ∧ d.regs.sh = c.regs.sh ∧
    d.regs.gen = c.regs.gen

end Sys2Proof.Safety
end

