-- ==== Sys2Proof/Safety/Engines.lean ====
section
/-! DEFINITION. Engine commands at issue: what a matrix or copy-engine syllable reads, what its operand words must be,
and the cause it raises otherwise (R22, R37, R53, R68, R73, R153 to R167, R169 to R182, R277 to R294, R318 to R320, R339,
R342, R372). -/

namespace Sys2Proof.Safety

open Sys2Proof Sys2Proof.Machine

/-- The number in `len` bits from bit `lo`. -/
def fld {n : Nat} (x : BitVec n) (lo len : Nat) : Nat := x.toNat / 2 ^ lo % 2 ^ len

/-! ## The matrix engine -/

/-- The matrix commands (R137). -/
def matrixSyllable (i : Instr) : Option (MKind × EHdr × MOp) :=
  match i with
  | .mlw h o => some (.mlw, h, o)
  | .mma h o => some (.mma, h, o)
  | .mdrn h o => some (.mdrn, h, o)
  | .mdrc h o => some (.mdrc, h, o)
  | .mclr h o => some (.mclr, h, o)
  | .mwsw h o => some (.mwsw, h, o)
  | .mmsk h o => some (.mmsk, h, o)
  | _ => none

/-- The command as it enters the queue: its operands, scale vector, shape record and controls as they stand in its issue
cycle, the fences in force, and the release an MDRC takes there (R97, R153, R167, R202, R209). -/
def matrixCommand (kind : MKind) (h : EHdr) (o : MOp) (s : State) : MCmd :=
  let c := cur s
  let a := sget c o.a.toNat
  { id := s.ids, slot := s.slot, kind := kind, h := h, o := o, a := a, b := sget c o.b.toNat, sv := vget c o.sv.toNat
    shape := tget 0 (fld a 0 5) c.regs.sh
    num := { nbv := c.ctl.nbv, flush := c.ctl.flush, rmode := c.ctl.rmode, fm := c.ctl.fm }
    bundle := bundleVa c, issued := now s, fences := c.fences
    rel := if kind = .mdrc ∧ fld a 16 1 = 1 then
        some (releaseNow s (curId s) (fld a 17 3) (BitVec.ofNat 3 (fld a 20 3)))
      else none }

/-- The format codes of weights and activations (R157). -/
def operandCodes : List Nat :=
  [0, 1, 2, 4, 5, 6, 9, 10, 11] ++ (List.range 5).map (· + 16) ++ (List.range 22).map (· + 24) ++ [47]

/-- The format codes a drain writes (R166). -/
def drainCodes : List Nat := List.range 12 ++ (List.range 5).map (· + 16) ++ (List.range 8).map (· + 24)

/-- A format code of a list that names a format under the registers the command read (R88, R154). -/
def namesFormat (l : List Nat) (m : MCmd) (k : Nat) : Bool := l.contains k && (fmtOfCode m.num.fm m.o.fr.toNat k).isSome

/-- The rows from AROW lie in the tile (R163, R165). -/
def tileRowsFit (arow n : Nat) : Bool := decide (n ≤ 128 ∧ arow + n ≤ 128)

/-- The drain word (R165, R166). -/
def drainFits (m : MCmd) : Bool :=
  fld m.b 28 19 == 0 && fld m.b 14 2 == 0 && fld m.b 24 3 != 7 && tileRowsFit (fld m.b 16 7) (fld m.b 0 8) &&
    namesFormat drainCodes m (fld m.b 8 6)

/-- The limits of the operand words (R153, R160, R162, R163, R165, R166, R167). -/
def matrixWordsFit (m : MCmd) : Bool :=
  let w := m.b
  match m.kind with
  | .mlw =>
    fld w 25 39 == 0 && fld w 22 2 == 0 && decide (fld w 0 8 ≤ 128 ∧ fld w 8 8 ≤ 128) &&
      namesFormat operandCodes m (fld w 16 6)
  | .mma =>
    fld w 24 40 == 0 && fld w 14 2 == 0 && tileRowsFit (fld w 16 7) (fld w 0 8) &&
      namesFormat operandCodes m (fld w 8 6)
  | .mdrn => drainFits m && !(fld w 23 1 == 1 && [8, 9, 10].contains (fld w 8 6))
  | .mdrc =>
    drainFits m && fld w 47 17 == 0 && fld w 23 1 == 0 &&
      fld m.a 23 41 == 0 && fld m.a 7 1 == 0 && fld m.a 5 2 != 3 &&
      (if fld m.a 16 1 = 1 then fld m.a 20 3 != 0 else fld m.a 17 6 == 0) && shapeValid m.num.fm m.shape &&
      (fld m.a 5 2 != 1 || (m.o.int == 1 && fld w 8 6 == 3 && fld m.shape 455 57 % 4 == 0)) &&
      (fld m.a 5 2 != 2 || (m.o.int == 0 && fld w 8 6 == 0 && fld m.shape 455 57 % 32 == 0))
  | .mclr => fld w 23 41 == 0 && fld w 8 8 == 0 && tileRowsFit (fld w 16 7) (fld w 0 8)
  | .mwsw => true
  | .mmsk => fld w 16 48 == 0 && fld w 8 8 != 0

/-- The command takes a scale vector: WSC of MLW, ASC of MMA (R154, R160, R163). -/
def matrixScaled (m : MCmd) : Bool :=
  match m.kind with
  | .mlw => fld m.b 24 1 == 1
  | .mma => fld m.b 23 1 == 1
  | _ => false

/-- A field that the operand words leave unused is zero (R154). -/
def matrixFieldsZero (m : MCmd) : Bool :=
  let scale := matrixScaled m || (m.o.sv == 0 && m.o.ssel == 0)
  match m.kind with
  | .mlw => scale && (fld m.b 16 6 == 11 || m.o.fr == 0)
  | .mma => scale && (fld m.b 8 6 == 11 || m.o.fr == 0)
  | .mdrn => fld m.b 8 6 == 11 || m.o.fr == 0
  | .mdrc => fld m.b 8 6 == 11 || m.o.fr == 0
  | _ => true

/-- The scratchpad rows named from s[A] are the task's (R68, R73). -/
def matrixRowsOwned (m : MCmd) (s : State) : Bool :=
  (List.range m.rowsNamed).all fun j =>
    decide (m.a.toNat + j < 768) && tileMine (coreOf s s.core) s.slot (96 * m.o.blk.toNat + (m.a.toNat + j) / 8)

/-- Works the matrix array; names an accumulator tile (R37, R73). -/
def matrixUses (k : MKind) : Bool × Bool :=
  match k with
  | .mlw => (true, false)
  | .mma => (true, true)
  | .mdrn => (false, true)
  | .mdrc => (false, true)
  | .mclr => (false, true)
  | .mwsw => (true, false)
  | .mmsk => (true, false)

/-- The first cause of a well-formed matrix command, in the order of R250; none: it enters the queue. -/
def matrixCause (m : MCmd) (s : State) : Option Nat :=
  let c := cur s
  let k := coreOf s s.core
  let (array, tile) := matrixUses m.kind
  if !matrixWordsFit m then some 0x01
  else if !matrixFieldsZero m then some 0x02
  else if s.slot = 4 then some 0x03
  else if spois c m.o.a.toNat || spois c m.o.b.toNat || (matrixScaled m && c.regs.vPois.getLsbD m.o.sv.toNat) then some 0x06
  else if !matrixRowsOwned m s || (tile && !accMine k s.slot m.o.acc.toNat) || !semMine c m.h.wsem.toNat ||
      !semMine c m.h.ssem.toNat then some 0x08
  else if (array && fld (phaseEntry c) 67 1 == 0) || (tile && fld (phaseEntry c) (59 + m.o.acc.toNat) 1 == 0) then some 0x05
  else if decide (m.h.start.toNat ≤ c.pos.clk) || decide (16 ≤ k.mq.length) ||
      conflicts (matrixClaims ((m.h.start.toNat : Int) - c.pos.clk) m) (claims s s.core s.slot) then some 0x04
  else none

/-- The engine is free for a command at t+S (R54, R159): earlier commands have been released, an MLW needs only the end
of an MLW and the release of an MWSW, an MWSW the end of an MLW too, a drain or clear the end of an MMA that shares rows,
and an MDRC one of the eight hand-off buffers (R167). -/
structure EngineFree (s : State) (core : Nat) (m : MCmd) : Prop where
  released : m.kind ≠ .mlw → ∀ r ∈ (coreOf s core).mrun, r.start + r.cmd.release ≤ now s
  loaded : m.kind = .mlw ∨ m.kind = .mwsw → ∀ r ∈ (coreOf s core).mrun, r.cmd.kind = .mlw → r.start + r.cmd.done ≤ now s
  swapped : m.kind = .mlw → ∀ r ∈ (coreOf s core).mrun, r.cmd.kind = .mwsw → r.start + r.cmd.release ≤ now s
  formed : m.kind = .mdrn ∨ m.kind = .mdrc ∨ m.kind = .mclr → ∀ r ∈ (coreOf s core).mrun, r.cmd.kind = .mma →
    sharesRows r.cmd m = true → r.start + r.cmd.done ≤ now s
  buffered : m.kind = .mdrc → ((coreOf s core).cq.filter fun c => c.kind == .mdrc).length < 8

/-- An MMA's operand kind agrees with the active bank's (R159). -/
def kindsAgree (s : State) (core : Nat) (m : MCmd) : Prop :=
  let x := (coreOf s core).mx
  let b := if x.act = 0 then x.bank0 else x.bank1
  m.kind = .mma → (m.o.int = 1 ↔ b.intw = true) ∧
    (m.o.int = 1 → m.isInteger (fld m.b 8 6) = true ∧ b.wsc = false ∧ fld m.b 23 1 = 0)

/-- The semaphores a context may name (R73): sm0, and those allocated to its task. -/
def mayName (c : Ctx) (i : Nat) : Prop := i = 0 ∨ c.ctl.sam.getLsbD i = true

/-- An update joins a core's queue: an increment of a semaphore, or nothing for an increment of 0 (R56, R212). -/
def signalled (s : State) (sl sem inc due : Nat) (src : SemSrc) (l : List SemUpd) : List SemUpd :=
  if inc = 0 then l
  else l ++ [{ id := s.ids, idx := sem, op := .add inc, src := src, slot := sl, due := due, rel := [], stores := []
               sched := 0, seq := 0 }]

/-- A boundary cause of an engine command's begin (R250, R254): asynchronous, at the bundle its context would issue
next, from the syllable of its slot. -/
def beginEvent (s : State) (core sl syl : Nat) (r : Raise) : Event :=
  { cause := r.cause, slot := sl, async := true, fetch := false, detail := r.detail
    va := bundleVa (ctxOf s (ctxId core sl)), syl := syl, val := r.val }

/-- Element `n` of row `row` of an MMA whose accumulator element is `old`, with its flags (R111 to R114, R163): the old
value, or nothing with CLR, and the products the mask leaves in, modulo 2^32 or by the sum of the command's numeric
version. -/
def mmaResult (r : MRun) (row n old : Nat) : Nat × FlagSet :=
  let m := r.cmd
  let on (i : Nat) : Bool := maskPresent m r.doff r.bw i n
  if m.o.int = 1 then
    let ks := (List.range r.bank.kv).filter on
    let v : Int := (if m.o.clr = 1 then 0 else elemInt true 32 old) +
      (ks.map fun i => (m.activation r.reads row i).toInt * (r.bank.weight i n).toInt).sum
    ((v % 2 ^ 32).toNat, if v < -2 ^ 31 ∨ 2 ^ 31 ≤ v then flagOvf else 0)
  else
    sumOf m.num.nbv.toNat false m.num.flush r.bank.kv
      (fun i => if on i then some (mulVal (m.activation r.reads row i) (r.bank.weight i n)) else none)
      (if m.o.clr = 1 then none else some old)

/-- What an MMA records of later-generation activations: once it forms a product (R90, R164). -/
def mmaSubst (r : MRun) : BitVec 16 :=
  if (List.range r.bank.nv).any fun n => (List.range r.bank.kv).any fun i => maskPresent r.cmd r.doff r.bw i n then
    substOf (fld r.cmd.b 8 6)
  else 0

/-- How a drain rounds (R96, R97, R166): MODE of its word, RMODE in its place, RNE for a stochastic mode. -/
def drainRounding (m : MCmd) : Rnd :=
  let mode := if fld m.b 24 3 = 6 then m.num.rmode.toNat else fld m.b 24 3
  { mode := if mode = 5 then 0 else mode, sat := fld m.b 27 1 == 1, draw := 0, flush := m.num.flush }

/-- The scale byte of a block of values (R93). -/
def scaleByte (dst : Fmt) (vs : List Val) : Nat :=
  let logs := (vs.filter fun v => !v.isZero).map Val.log2
  if vs.any fun v => v.isNan || v.isInf then 255
  else if logs = [] then 127
  else (max 0 (min 254 (logs.foldl max (logs.headD 0) - emaxOf dst + 127))).toNat

/-- An integer into an integer format (R82, R99). -/
def intoInteger (dst : Fmt) (sat : Bool) (v : Int) : Nat :=
  match dst with
  | .int signed w => elemFit signed sat w v
  | .flt g => elemFit g.sgn sat g.width v
  | .scale => 0

/-- Element `n` of a tile row as a drain reads it (R166). -/
def tileElement (m : MCmd) (row : Row) (n : Nat) : Val :=
  decodeVal (if m.o.int = 1 then .int true 32 else .flt f32) (elemAt 32 row n)

/-- The scale byte of block `j` of a tile row (R93, R166). -/
def drainScale (m : MCmd) (dst : Fmt) (row : Row) (j : Nat) : Nat :=
  scaleByte dst ((List.range 32).map fun i => tileElement m row (32 * j + i))

/-- Element `n` of a drained tile row, with its flags (R93, R98, R99, R166): an integer into an integer format wraps or
is clamped; otherwise one rounding, under QS of the value divided by its block's scale, with SAT forced and the flags of
R98. -/
def drainElement (m : MCmd) (dst : Fmt) (row : Row) (n : Nat) : Nat × FlagSet :=
  let v := tileElement m row n
  let r := drainRounding m
  if fld m.b 23 1 = 1 then
    let scale := drainScale m dst row (n / 32)
    if scale = 255 then (0, 0)
    else
      let x := roundVal dst { r with sat := true } (scaleVal true scale v)
      match dst with
      | .int _ _ => (x.1, if x.2.getLsbD 0 then flagOvf ||| flagInx else x.2)
      | _ => x
  else if m.o.int = 1 ∧ dst.isInt = true then (intoInteger dst r.sat v.toInt, 0)
  else roundVal dst r v

/-- The flags and SUBST bits a completing matrix command lands (R90, R92, R107, R160, R164, R166). -/
def matrixFlags (r : MRun) : FlagSet × BitVec 16 :=
  let m := r.cmd
  match m.kind with
  | .mlw =>
    let c := m.cont m.wfmt
    let signals (i n : Nat) : Bool := (m.decode m.wfmt (rowsBits r.reads ((128 * i + n) * c) c)).isSig &&
      !(fld m.b 24 1 == 1 && elemAt 8 m.sv (4 * n + i / 32) == 255)
    let sub := if m.kv = 0 ∨ m.nv = 0 then 0 else substOf m.wfmt
    (flagIf ((List.range m.kv).any fun i => (List.range m.nv).any (signals i)) flagInv |||
      flagIf (sub != 0) flagSubst, sub)
  | .mdrn =>
    let dst := (fmtOfCode m.num.fm m.o.fr.toNat (fld m.b 8 6)).getD (.int true 32)
    (flagsUnion (r.rows.flatMap fun row => (List.range 128).map fun n => (drainElement m dst row n).2), 0)
  | _ => (r.flags, r.subst)

/-- The tiles a drain writes, in order (R67, R166). -/
def drainTiles (m : MCmd) : List Nat :=
  ((List.range m.rowsNamed).map fun j => 96 * m.o.blk.toNat + (m.a.toNat + j) / 8).eraseDups

/-! ## The copy engine -/

/-- The copy-engine commands (R137). -/
def copySyllable (i : Instr) : Option (CKind × EHdr × COp) :=
  match i with
  | .cpy h o => some (.cpy, h, o)
  | .cpw h o => some (.cpw, h, o)
  | .cpx h o => some (.cpx, h, o)
  | .cpmc h o => some (.cpmc, h, o)
  | .cpg h o => some (.cpg, h, o)
  | .cps h o => some (.cps, h, o)
  | .cpaa h o => some (.cpaa, h, o)
  | .cpld h o => some (.cpld, h, o)
  | .cpst h o => some (.cpst, h, o)
  | .amo h o => some (.amo, h, o)
  | .vamo h o => some (.vamo, h, o)
  | .pft h o => some (.pft, h, o)
  | .strm h o => some (.strm, h, o)
  | .invp h o => some (.invp, h, o)
  | .shpl h o => some (.shpl, h, o)
  | _ => none

/-- A row locator (R278): rows 0 to 767 of a block, upper bits 0. -/
def locates (w : W64) : Bool := fld w 13 51 == 0 && decide (fld w 0 10 < 768)

/-- A word locator (R278): upper bits 0, row 0 to 767, the byte a multiple of 2^SIZE and of `align`. -/
def wordFits (w : W64) (align : Nat) : Bool :=
  fld w 24 40 == 0 && decide (fld w 9 10 < 768) && fld w 0 9 % 2 ^ fld w 22 2 == 0 && fld w 0 9 % align == 0

/-- A row run stays in its block (R278, R291, R372). -/
def runFits (w : W64) (n : Nat) : Bool := locates w && decide (fld w 0 10 + n ≤ 768)

/-- The limits of a copy-engine command's operands (R172, R181, R277, R281, R288 to R294, R306, R339, R342, R372);
`cores` is the number of cores of the partition. -/
def copyWordsFit (c : Cmd) (cores : Nat) : Bool :=
  let shape := shapeValid c.num.fm c.shape
  let base := fld c.shape 455 57
  let n := fld c.c 0 13
  let delivery := runFits c.a (fld c.b 13 10) && fld c.b 44 3 == 0 && fld c.b 23 1 == 0 &&
    decide (fld c.b 0 10 + fld c.b 13 10 ≤ 768)
  let gather := shape && fld c.shape 389 3 == 2 && fld c.shape 128 16 == 0 && fld c.shape 388 1 == 0 &&
    fld c.shape 382 4 == 0 && fld c.c 13 51 == 0 && decide (n ≤ 4096) && locates c.a && locates c.b
  match c.kind with
  | .cpy => shape && locates c.a && streamOk c
  | .cpw => shape && locates c.a && fld c.shape 365 1 == 0 && streamOk c
  | .cpx => delivery && decide (fld c.b 24 8 < cores)
  | .cpmc => delivery && fld c.b 24 8 == 0 && wordFits c.c 32 && fld c.c 22 2 == 0
  | .cpg => gather
  | .cps => gather && fld c.shape 365 1 == 0
  | .cpaa =>
    shape && fld c.shape 382 4 == 0 && fld c.shape 365 1 == 0 && fld c.shape 388 1 == 0 && locates c.a &&
      (if c.o.gsub = 0 then [3, 7].contains (fld c.shape 392 6) && base % 4 == 0
       else fld c.shape 392 6 == 8 && fld c.c 8 56 == 0 && base % 32 == 0)
  | .cpld => wordFits c.b 1 && c.a.toNat % 2 ^ fld c.b 22 2 == 0
  | .cpst => wordFits c.b 1 && c.a.toNat % 2 ^ fld c.b 22 2 == 0
  | .amo =>
    if c.o.gsub = 10 then wordFits c.b 32 && fld c.b 22 2 == 0 && c.a.toNat % 32 == 0
    else wordFits c.b 1 && decide (2 ≤ fld c.b 22 2) && c.a.toNat % 2 ^ fld c.b 22 2 == 0 &&
      (c.o.gsub != 9 || decide (fld c.b 0 9 + 2 * 2 ^ fld c.b 22 2 ≤ 512))
  | .vamo =>
    let size := 2 ^ fld c.c 14 2
    let each := if c.o.gsub = 10 then 32 else if c.o.gsub = 9 then 2 * size else size
    fld c.c 17 47 == 0 && fld c.c 13 1 == 0 && decide (n ≤ 4096) &&
      (if c.o.gsub = 10 then fld c.c 14 2 == 0 else decide (2 ≤ fld c.c 14 2)) &&
      runFits c.a ((n + 63) / 64) && runFits c.b ((n * each + 511) / 512)
  | .pft => shape
  | .strm => c.a.toNat % 64 == 0
  | .invp => decide (c.b.toNat ≤ 2 ^ 36 ∧ c.a.toNat + c.b.toNat ≤ 2 ^ 57)
  | .shpl => fld c.a 16 48 == 0 && decide (fld c.a 0 10 < 768)
  | .mdrc => true

/-- The command as it enters its context's queue: operands, shape record, controls and graph as they stand in its issue
cycle, the fences in force and its release (R53, R97, R131, R170, R181, R209). -/
def copyCommand (kind : CKind) (h : EHdr) (o : COp) (s : State) : Cmd :=
  let x := cur s
  let c : Cmd :=
    { id := s.ids, slot := s.slot, kind := kind, h := h, o := o, a := sget x o.a.toNat, b := sget x o.b.toNat
      c := sget x o.c.toNat, shape := tget 0 o.sh.toNat x.regs.sh
      num := { nbv := x.ctl.nbv, flush := x.ctl.flush, rmode := x.ctl.rmode, fm := x.ctl.fm }, bundle := bundleVa x
      fences := x.fences
      rel := if o.rel = 1 then some (releaseNow s (curId s) o.agent.toNat o.store) else none
      stage := .queued, start := 0, srcLeft := [], src := [], graph := [], held := [], total := none, next := 0
      got := [], wq := [], pubs := [], sent := false, filled := false, reason := 0, flags := 0, subst := 0, failed := 0, wake := now s }
  let slot := if o.gsub = 0 then fld c.shape 382 4 else o.gsub.toNat
  let c := if (kind = .cpy ∨ kind = .cpw) ∧ slot ≠ 0 then
      { c with graph := ((tget none slot (partAt s (partOfCore s.dev s.core)).memory.graphs).map (·.graph)).getD [] }
    else c
  { c with srcLeft := c.sources }

/-- The scratchpad rows a command names are rows of the task's tiles (R68); one of the supervisor may name those of any
tile (R257). -/
def copyRowsOwned (c : Cmd) (s : State) : Bool :=
  c.named.all fun r =>
    decide (r.2 < 768) && (s.slot == 4 || tileMine (coreOf s s.core) s.slot (96 * r.1 + r.2 / 8))

/-- The queue entries the slot has in use; a task context has 12, the supervisor 16 (R167, R169). -/
def copyQueueFull (s : State) : Bool :=
  let n := ((coreOf s s.core).cq.filter fun q => q.slot == s.slot && q.kind != .mdrc).length
  decide ((if s.slot = 4 then 16 else 12) ≤ n)

/-- The first cause of a well-formed copy-engine command, in the order of R250; none: it enters its queue, or its bundle
waits for room (R170). -/
def copyCause (c : Cmd) (s : State) : Option Nat :=
  let x := cur s
  let timed := c.h.start != 0x3FFF
  if !copyWordsFit c (partCores s.dev (curPart s)).length then some 0x01
  else if (c.kind == .cpy || c.kind == .cpw) && c.gslot == 0 && c.o.c != 0 then some 0x02
  else if timed && s.slot == 4 then some 0x03
  else if spois x c.o.a.toNat || spois x c.o.b.toNat || spois x c.o.c.toNat then some 0x06
  else if !copyRowsOwned c s || !semMine x c.h.wsem.toNat || !semMine x c.h.ssem.toNat then some 0x08
  else if (timed && (decide (c.h.start.toNat ≤ x.pos.clk) ||
      conflicts (copyClaims ((c.h.start.toNat : Int) - x.pos.clk) c.srcLeft) (claims s s.core s.slot))) ||
      (copyQueueFull s && !s.bnd.sill) then some 0x04
  else none

/-! ## Illegal in a state -/

/-- The state makes a syllable illegal (R249): a transfer, loop, PEND, TEND or TRAP where it may not stand (R142, R285,
R316, R327, R344, R345), a loop its count or its stack does not allow (R314, R315), what only task contexts have (R323,
R332, R374), a format register that names no format of the widths asked (R88, R351, R352, R361 to R363), VBIN's control
word (R364), an operand word of an engine beyond its limits (R153, R277), or a phaser the membership table does not allow
(R218, R219). -/
def illegalHere (i : Instr) (s : State) : Bool :=
  let c := cur s
  let executes (f : SSyl) : Bool := gresolved c f.g.toNat && guardOn f c
  let crosses (f : SSyl) : Bool := c.pos.loops.any fun e => decide (e.stop < c.pos.pc + bits f.imm 19 0)
  let listed (f : YSyl) : Option (BitVec 2) := modeIn c (fld (sget c f.sc.toNat) 0 10)
  match i with
  | .br _ | .call _ | .ret _ => inDelay c || nearEnd c 3
  | .brk _ => inDelay c || nearEnd c 2
  | .loop f => nearEnd c 3 || (executes f && (crosses f || decide (2 ^ 32 ≤ (sget c f.a.toNat).toNat)))
  | .loopi f => nearEnd c 3 || (executes f && crosses f)
  | .ntreq _ | .yield _ | .psel _ => s.slot == 4
  | .tend _ => s.slot == 4 || inDelay c || !aloneIn s .s
  | .pend _ => s.slot == 4 || inDelay c || !aloneIn s .sy
  | .trap f => fld f.imm 31 1 == 0 && inDelay c
  | .vmulw _ f => vmulwBad f c
  | .vdot4 _ f => (prodFmt c f).isNone
  | .vcvt _ f => vcvtBad f c
  | .vwid _ f => vwidBad f c
  | .vscl _ f => vsclBad f c
  | .vbin _ f | .vunbn _ f => fld (sget c f.b.toNat) 11 53 != 0
  | .phreg f => (listed f).isSome || decide (8 ≤ c.phasers.length)
  | .phdrp f => (listed f).isNone
  | .pharv f => (listed f).isNone || listed f == some 2
  | .phwt f => (listed f).isNone || listed f == some 1
  | .phaw f => listed f != some 3
  | i =>
    match matrixSyllable i, copySyllable i with
    | some (kind, h, o), _ => !matrixWordsFit (matrixCommand kind h o s)
    | _, some (kind, h, o) => !copyWordsFit (copyCommand kind h o s) (partCores s.dev (curPart s)).length
    | _, _ => false

end Sys2Proof.Safety
end

