-- ==== Sys2Proof/Safety/Moves.lean ====
section
/-! DEFINITION. What copy-engine commands move, bit by bit (R117, R156, R173 to R175, R281, R288 to R290, R372): where an
element lies in memory and in the scratchpad, what a packet carries, and what an atomic leaves. -/

namespace Sys2Proof.Safety

open Sys2Proof Sys2Proof.Machine

/-- Bit `i` of a number. -/
def bitAt (n i : Nat) : Bool := n.testBit i

/-- `n` bits of a run of rows from bit `i`. -/
def runField (rows : List Row) (i n : Nat) : Nat := ((rows[i / 4096]?).getD 0).toNat / 2 ^ (i % 4096) % 2 ^ n

/-! ## In memory -/

/-- The positions of a box below dimension `d` (R173). -/
def extentBelow (x : BitVec 512) : Nat → Nat
  | 0 => 1
  | d + 1 => extentBelow x d * (fld x (72 * d + 56) 16 + 1)

/-- The signed STRIDE of a dimension (R171). -/
def strideOf (x : BitVec 512) (d : Nat) : Int := elemInt true 32 (fld x (72 * d + 24) 32)

/-- x[d] of box position `q` under an origin word (R173). -/
def boxCoord (x : BitVec 512) (w : W64) (q d : Nat) : Nat :=
  let extent := fld x (72 * d + 56) 16 + 1
  let origin := if d < 3 then fld w (16 * d) 16 else if d = 3 then fld w 48 15 else 0
  (if fld x 386 1 = 1 then origin * extent else origin) + q / extentBelow x d % extent

/-- The container of the shape record's format in bits (R81, R171). -/
def memoryContainer (c : Cmd) : Nat := ((fmtOfCode c.num.fm 0 (fld c.shape 392 6)).map Fmt.container).getD 32

/-- The bytes an atomic of AMO or VAMO takes (R281, R372). -/
def atomicBytes (c : Cmd) : Nat :=
  if c.o.gsub = 10 then 32 else if c.kind = .amo then 2 ^ fld c.b 22 2 else 2 ^ fld c.c 14 2

/-- The bits in memory of a position: a byte of CPLD and CPST, a word of AMO and VAMO, a triple of CPAA.bin, else the
container of FMT. -/
def memoryUnit (c : Cmd) : Nat :=
  match c.kind with
  | .cpld | .cpst => 8
  | .amo | .vamo => 8 * atomicBytes c
  | .cpaa => if c.o.gsub = 1 then 256 else memoryContainer c
  | _ => memoryContainer c

/-- The first bit of position `q` in memory, none where it is clipped or inactive (R173, R281, R288 to R290, R372). -/
def memoryBit (c : Cmd) (q : Nat) : Option Int :=
  let x := c.shape
  let base : Int := 8 * (fld x 455 57 : Nat)
  match c.kind with
  | .cpld | .cpst => if q < 2 ^ fld c.b 22 2 then some (8 * ((c.a.toNat + q : Nat) : Int)) else none
  | .amo => if q = 0 then some (8 * (c.a.toNat : Int)) else none
  | .vamo =>
    let a := runField c.src (64 * q) 64
    if q < fld c.c 0 13 ∧ a < 2 ^ 63 then some (8 * (a : Int)) else none
  | .cpg | .cps =>
    let b0 := fld x 56 16 + 1
    let i := q % b0
    let n := runField c.src (32 * (q / b0)) 32
    if q < b0 * fld c.c 0 13 ∧ i < fld x 0 24 ∧ n < fld x 72 24 then
      some (base + ((i : Int) * strideOf x 0 + (n : Int) * strideOf x 1) * memoryContainer c)
    else none
  | .cpy | .cpw | .cpaa =>
    let dims := List.range (fld x 389 3)
    let at_ := boxCoord x c.b q
    if fld c.b 63 1 = 0 ∧ q < extentBelow x (fld x 389 3) ∧ ∀ d ∈ dims, at_ d < fld x (72 * d) 24 then
      some (base + (dims.map fun d => (at_ d : Int) * strideOf x d).sum * memoryUnit c)
    else none
  | _ => none

/-- The commands whose packets carry positions of these walks. -/
def walks (k : CKind) : Prop := k ∈ [CKind.cpy, .cpw, .cpaa, .cpg, .cps, .cpld, .cpst, .amo, .vamo]

/-! ## Permission -/

/-- A leaf lets packet `i` of a command through (R181, R191, R241, R281, R373): R for a read, W for a write, A and W for an
atomic, with R for an AMO or VAMO, whose operand is aligned; LOCAL memory that is no alias for a graph stream; on a device
alias one 8-byte CPST to a DBV or CPLD of a doorbell's register; on host memory the operations that PCIe has (which adds
those are: log 18). -/
def Permits (s : State) (core : Nat) (c : Cmd) (i va : Nat) (l : Leaf) : Prop :=
  let bit (n : Nat) : Prop := fld l.pte n 1 = 1
  let pa := pteFrame l.pte + va % pageSize l.level
  let dest := destOf s (partOfCore s.dev core) l.pte pa
  let acc := c.packetAcc i
  let amo := c.kind = .amo ∨ c.kind = .vamo
  let aliased := dest ≠ .host ∧ 2 ^ 57 - 2 ^ 16 ≤ pa ∧ pa < 2 ^ 57
  let place := va % 2 ^ 16 + ((((c.plans[i]?).map (·.pieces)).getD []).head?).elim 0 (·.goff / 8)
  (acc = 0 → bit 2) ∧ (acc = 1 → bit 3) ∧ (acc = 2 → bit 3 ∧ bit 5) ∧ (acc = 2 → amo → bit 2) ∧
    (c.kind = .vamo → ∀ p, c.plans[i]? = some p → ∀ x ∈ p.pieces, x.goff % (8 * atomicBytes c) = 0) ∧
    (c.streams = true → fld l.pte 6 2 = 0 ∧ ¬aliased) ∧
    (aliased → fld c.b 22 2 = 3 ∧ place < 32 * 64 ∧ (c.kind = .cpld ∧ place % 8 = 0 ∨ c.kind = .cpst ∧ place % 32 = 0)) ∧
    (dest = .host → acc = 2 → if amo then c.o.gsub ∈ [0, 8, 9] else c.triples = false)

/-! ## In the scratchpad -/

/-- The bits of a VAMO operand (R372). -/
def operandBits (c : Cmd) : Nat := 8 * if c.o.gsub = 9 then 2 * atomicBytes c else atomicBytes c

/-- Bit `b` of position `q` from the command's first row (R81, R156, R174, R281, R290, R372). -/
def rowBit (c : Cmd) (q b : Nat) : Nat :=
  match c.kind with
  | .cpld | .cpst => 8 * (fld c.b 0 9 + q) + b
  | .amo => 8 * fld c.b 0 9 + b
  | .vamo => operandBits c * q + b
  | _ =>
    if fld c.shape 388 1 = 1 ∧ (c.kind = .cpy ∨ c.kind = .cpw) then 8 * ((q / 128 * c.sideWidth + b) * 16 + q % 128 / 8) + q % 8
    else q * c.sideCont + b

/-- The position has this bit in the scratchpad: in bit planes those of the element's width (R156). -/
def hasBit (c : Cmd) (b : Nat) : Prop := c.kind = .cpy ∧ fld c.shape 388 1 = 1 → b < c.sideWidth

/-- What runs say of bit `b` of a row: the last that covers it. -/
def runValue (l : List BitRun) (b : Nat) : Option Bool :=
  l.foldl (fun v x => if x.1 % 4096 ≤ b ∧ b < x.1 % 4096 + x.2.1 then some (bitAt x.2.2 (b - x.1 % 4096)) else v) none

/-- What a command has still to write at bit `d` from its first row. -/
def awaited (l : List (Nat × List BitRun)) (d : Nat) : Option Bool :=
  (l.filter fun w => w.1 == d / 4096).foldl (fun v w => (runValue w.2 (d % 4096)).or v) none

/-- Bit `g` of a granule in what a packet read. -/
def readBit (rd : List (Nat × Byte)) (g : Nat) : Bool :=
  (((rd.find? fun (e : Nat × Byte) => e.1 == g / 8).map Prod.snd).getD 0).getLsbD (g % 8)

/-- Bit `g` of a granule in what a packet writes; none: it stands. -/
def writtenBit (wr : List (Nat × Byte × Byte)) (g : Nat) : Option Bool :=
  (wr.find? fun (e : Nat × Byte × Byte) => e.1 == g / 8).bind fun e => if e.2.2.getLsbD (g % 8) then some (e.2.1.getLsbD (g % 8)) else none

/-- The bit a store sends for bit `b` of position `q` (R156, R174, R290): of its source rows. -/
def sentBit (c : Cmd) (q b : Nat) : Bool :=
  let rows := if c.kind = .cps then c.src.drop ((fld c.c 0 13 + 127) / 128) else c.src
  let d := rowBit c q b
  (c.kind ≠ .cpw ∨ fld c.shape 388 1 = 0 ∨ b < c.sideWidth) && ((rows[d / 4096]?).getD 0).getLsbD (d % 4096)

/-! ## Deliveries -/

/-- Slot `sl` of core `dst` takes a delivery of a task (R236, R291): a member of the task is bound there, its tiles hold
the destination rows and no uncorrectable error, RSEM is its own when RINC is not 0, and the core is not fenced. -/
def takesDelivery (s : State) (task : Option Nat) (dst : Nat) (w : W64) (sl : Nat) : Prop :=
  let k := coreOf s dst
  let c := ctxOf s (ctxId dst sl)
  let row (i : Nat) : Nat := fld w 0 10 + i
  task ≠ none ∧ c.task = task ∧ k.sup.fenced = false ∧ (fld w 40 4 = 0 ∨ mayName c (fld w 32 8)) ∧
    ∀ i, i < fld w 13 10 → row i < 768 ∧ tileMine k sl (96 * fld w 10 3 + row i / 8) = true ∧
      ∀ word, word < 64 → wordErr k.st (768 * fld w 10 3 + row i) word ≤ 1

/-- The logical cores a CPX or CPMC delivers to (R291, R292): the core of its word, or those of its core mask. -/
def deliveryTargets (c : Cmd) : List Nat :=
  if c.kind = .cpx then [fld c.b 24 8]
  else (List.range 256).filter fun i => ((c.src[0]?).getD 0).getLsbD (8 * fld c.c 0 9 + i)

/-- The rows it delivers, each with its place (R291, R292). -/
def deliveryRows (c : Cmd) : List (Nat × Row) :=
  ((if c.kind = .cpmc then c.src.drop 1 else c.src).zipIdx).map fun r => (r.2, r.1)

/-! ## Atomics -/

/-- The operand and the compare value of the atomic of position `q` (R281, R288, R372). -/
def atomicOperand (c : Cmd) (q : Nat) : Nat × Nat :=
  let n := 8 * atomicBytes c
  match c.kind with
  | .amo => (runField c.src (8 * fld c.b 0 9) n, runField c.src (8 * fld c.b 0 9 + n) n)
  | .vamo =>
    let rows := c.src.drop ((fld c.c 0 13 + 63) / 64)
    (runField rows (operandBits c * q) n, runField rows (operandBits c * q + n) n)
  | .mdrc => (elemAt 32 ((c.src[q / 128]?).getD 0) (q % 128), 0)
  | _ => (runField c.src (c.sideCont * q) c.sideCont, 0)

/-- The triple add (R117) on 32-byte numbers: three wrapping bins, and a STAT that gathers both and an overflow. -/
def tripleSum (z y : Nat) : Nat :=
  let bin (v j : Nat) : Nat := v / 2 ^ (64 * j) % 2 ^ 64
  let sum (j : Nat) : Int := elemInt true 64 (bin z j) + elemInt true 64 (bin y j)
  let outside (j : Nat) : Bool := sum j < -2 ^ 63 ∨ 2 ^ 63 - 1 < sum j
  let stat := bin z 3 ||| bin y 3 ||| if outside 0 || outside 1 || outside 2 then 1 else 0
  (sum 0 % 2 ^ 64).toNat + (sum 1 % 2 ^ 64).toNat * 2 ^ 64 + (sum 2 % 2 ^ 64).toNat * 2 ^ 128 + stat * 2 ^ 192

/-- The new value of R281 from the old value `m`, the operand `v` and the compare value `x`, of `w` bits. -/
def amoResult (op w m v x : Nat) : Nat :=
  let s := elemInt true w
  match op with
  | 0 => (m + v) % 2 ^ w
  | 1 => if s v < s m then v else m
  | 2 => if s m < s v then v else m
  | 3 => if v < m then v else m
  | 4 => if m < v then v else m
  | 5 => m &&& v
  | 6 => m ||| v
  | 7 => m ^^^ v
  | 8 => v
  | 10 => tripleSum m v
  | _ => if m = x then v else m

/-- The value the atomic of position `q` leaves (R167, R281, R288): of AMO and VAMO by their operation; of a box add or a
drain, the wrapped 32-bit sum, or the triple of the split element added. -/
def atomicResult (c : Cmd) (q m : Nat) : Nat :=
  let (v, x) := atomicOperand c q
  let split (emax : Int) : Nat := tripleSum m (splitBins emax (decodeFlt f32 v)).1.toNat
  match c.kind with
  | .amo | .vamo => amoResult c.o.gsub.toNat (8 * atomicBytes c) m v x
  | .mdrc => if fld c.a 5 2 = 2 then split (elemInt true 8 (fld c.a 8 8)) else (m + v) % 2 ^ 32
  | _ => if c.o.gsub = 1 then split (elemInt true 8 (fld c.c 0 8)) else (m + v) % 2 ^ 32

/-- A number with `len` bits from bit `lo` replaced. -/
def withField (n lo len v : Nat) : Nat := n - n / 2 ^ lo % 2 ^ len * 2 ^ lo + v % 2 ^ len * 2 ^ lo

/-- A granule, as the number its bytes hold, after the atomics of a packet, each on what those before it left (R176). -/
def granuleAfter (c : Cmd) (pieces : List Piece) (n : Nat) : Nat :=
  pieces.foldl (fun n x => withField n x.goff x.nb (atomicResult c x.q (n / 2 ^ x.goff % 2 ^ x.nb))) n

end Sys2Proof.Safety
end

