-- ==== Sys2Proof/Safety/Sync.lean ====
section
/-! DEFINITION. Semaphores, phasers and phases: what an SY syllable sends, and how a wait ends (R207 to R221, R327 to R332,
R336 to R338). -/

namespace Sys2Proof.Safety

open Sys2Proof Sys2Proof.Machine

/-- An update of the SY slot: its syllable, what it does, whether it reads s[C], and whether it gives a result (R336,
R338). -/
structure SemRow where
  f : YSyl
  op : SemOp
  reads : Bool
  answers : Bool

/-- The updates of the SY slot (R336). -/
def semRow (i : Instr) (s : State) : Option SemRow :=
  match i with
  | .ssig f => some ⟨f, .add f.val.toNat, false, false⟩
  | .sset f => some ⟨f, .set (BitVec.ofNat 16 (sget (cur s) f.sc.toNat).toNat), true, false⟩
  | .sfaa f => some ⟨f, .fetchAdd f.val.toNat f.sc.toNat, false, true⟩
  | .scas f =>
    let v := sget (cur s) f.sc.toNat
    some ⟨f, .cas (BitVec.ofNat 16 v.toNat) (BitVec.ofNat 16 (fld v 16 16)) f.sc.toNat, true, true⟩
  | _ => none

/-- The wait test of R210 on the value after the updates of earlier cycles; sm0 always passes (R211). -/
def waitPasses (k : Core) (i thr : Nat) : Prop :=
  i = 0 ∨ ((tget 0 i k.semView).toNat % 256 + 256 - thr) % 256 < 128

/-- An update as it goes on its way (R207, R209, R212): due in the next cycle, behind its release, the fences in force
and the timed stores issued so far, with the cycle in which its result lands on the phase clock. -/
def updateOf (r : SemRow) (s : State) : SemUpd :=
  let c := cur s
  { id := s.ids, idx := r.f.idx.toNat, op := r.op, src := .sy, slot := s.slot, due := now s + 1
    rel := (if r.f.store = 0 then [] else [releaseNow s (curId s) r.f.agent.toNat r.f.store]) ++ c.fences
    stores := c.fly.stores.map (·.seq)
    sched := (c.fly.stores.map fun w => w.write + 1).foldl max (c.pos.clk + 1), seq := c.fly.seq }

/-- The place of a source among the updates of one cycle (R212). -/
def sourcePlace (s : State) (u : SemUpd) : Nat :=
  match u.src with
  | .sy => 0
  | .mEngine => 1
  | .cpEngine slot => 2 + slot
  | .gateway core => 10 + logCore s.dev core
  | .doorbell k => 1000 + k

/-- An update may be applied (R212). -/
def isDue (s : State) (u : SemUpd) : Prop := u.due ≤ now s ∧ u.rel = [] ∧ u.stores = []

/-- The result of an SFAA or SCAS: it lands in the cycle of application, or in the first resumed cycle from its scheduled
one (R212, R251). -/
def semResult (c : Ctx) (u : SemUpd) (reg : Nat) (v : BitVec 16) : Flight :=
  { file := .scalar, reg := reg, val := v.setWidth 4096, pois := false, flags := 0, subst := 0, byp := none
    land := max c.pos.clk u.sched, slow := true, seq := u.seq }

/-- The peer copy without what an acquire of these scopes drops (R203, R206). -/
def acquired (s : State) (agent : Nat) (store : BitVec 3) (l : List PeerLine) : List PeerLine :=
  if store.getLsbD 2 then l.filter fun x => !(if x.fa / 32 = s.dev.group then agent ≥ 5 else agent ≥ 6) else l

/-- A context waits at its sill point: it is in this wait, has given up the issue slot, and changes nothing else (R45). -/
def WaitsAtSill (i : Instr) (s : State) (w : Wait) : Prop :=
  Answers i s fun t => Frame [curId s] [s.core] [] s t ∧ Invoked s t s.core ∧
    ctxOf t (curId s) = { cur s with status := .waiting w false }

/-! ## Phasers -/

/-- try_advance (R219). -/
def advanced (x : Phaser) : Phaser :=
  if 1 ≤ x.arr ∧ x.arr = x.nsig then { x with cnt := x.cnt + 1, nsig := x.nsig - x.drops, arr := 0, drops := 0 } else x

/-- The phaser after an operation of context `id` (R219). -/
def afterOperation (id : Nat) (op : PhKind) (x : Phaser) : Phaser :=
  let others := x.members.filter fun m => m.1 != id
  match op with
  | .reg mode =>
    { x with nsig := if mode = 2 then x.nsig else x.nsig + 1, members := others ++ [(id, mode, x.cnt, x.cnt)] }
  | .arrive =>
    advanced { x with
      arr := x.arr + 1, members := x.members.map fun m => if m.1 = id then (m.1, m.2.1, m.2.2.1 + 1, m.2.2.2) else m }
  | .drop =>
    match x.members.find? fun m => m.1 == id with
    | none => x
    | some m =>
      if m.2.1 = 2 then { x with members := others }
      else if m.2.2.1 = x.cnt then advanced { x with members := others, nsig := x.nsig - 1 }
      else { x with members := others, drops := x.drops + 1 }

/-- The phaser after a satisfied wait of context `id`: WPH := WPH + 1 (R219). -/
def afterWait (id : Nat) (x : Phaser) : Phaser :=
  { x with members := x.members.map fun m => if m.1 = id then (m.1, m.2.1, m.2.2.1, m.2.2.2 + 1) else m }

/-- An operation reaches the sync engine at once: no earlier one of its context is on its way, and no release holds it
(R207, R218). -/
def reachesEngine (s : State) (o : PhOp) : Prop :=
  (∀ q ∈ (coreOf s (o.id / 5)).phq, q.id ≠ o.id) ∧ o.rel = []

/-- The handle in s[C] names a phaser of the context's partition (R217, R218). -/
def handleOk (f : YSyl) (s : State) : Prop :=
  let v := sget (cur s) f.sc.toNat
  v.toNat < 1024 ∧ (phaserOf s v.toNat).owner = some (partOfCore s.dev s.core)

/-- A context's record in a phaser: mode, SPH and WPH (R217). -/
def recordOf (id : Nat) (x : Phaser) : Option (BitVec 2 × BitVec 32 × BitVec 32) :=
  (x.members.find? fun m => m.1 == id).map (·.2)

/-- SPH of a context once its operations still on their way have reached the engine; none: no member by then (R218,
R219). -/
def arrivedBy (s : State) (id ph : Nat) : Option (BitVec 32) :=
  (coreOf s (id / 5)).phq.foldl (fun v q =>
    if q.id = id ∧ q.ph = ph then
      match q.op with
      | .reg _ => some (phaserOf s ph).cnt
      | .arrive => v.map (· + 1)
      | .drop => none
    else v) ((recordOf id (phaserOf s ph)).map (·.2.1))

/-- The context has arrived for the open phase already, so that an arrival is held (R219). -/
def arrivalHeld (s : State) (id ph : Nat) : Prop := ∃ v, arrivedBy s id ph = some v ∧ v ≠ (phaserOf s ph).cnt

/-- A wait passes: the context is a member, with neither its registration nor its drop on the way, and CNT lies 1 to
2^31 - 1 past its WPH in its core's view (R219). -/
def phasePassed (s : State) (id ph : Nat) : Prop :=
  (∀ q ∈ (coreOf s (id / 5)).phq, q.id = id → q.ph = ph → q.op = .arrive) ∧
    ∃ m, recordOf id (phaserOf s ph) = some m ∧ 1 ≤ (tget 0 ph (coreOf s (id / 5)).phView - m.2.2).toNat ∧
      (tget 0 ph (coreOf s (id / 5)).phView - m.2.2).toNat < 2 ^ 31

/-- Only this phaser of the device changes, to this. -/
def PhaserBecomes (s t : State) (ph : Nat) (x : Phaser) : Prop :=
  t.dev = { s.dev with phasers := t.dev.phasers } ∧ ∀ j, phaserOf t j = if j = ph then x else phaserOf s j

/-- The mode under which the membership table lists a phaser (R217). -/
def listedMode (c : Ctx) (ph : Nat) : Option (BitVec 2) := (c.phasers.find? fun m => m.1 == ph).map (·.2)

/-- The phaser instructions, with whether the membership table allows them (R218). -/
def phaserRow (i : Instr) (s : State) : Option (YSyl × Bool) :=
  let mode (f : YSyl) := listedMode (cur s) (fld (sget (cur s) f.sc.toNat) 0 10)
  match i with
  | .phreg f => some (f, (mode f).isNone && decide ((cur s).phasers.length < 8))
  | .phdrp f => some (f, (mode f).isSome)
  | .pharv f => some (f, (mode f).isSome && mode f != some 2)
  | .phwt f => some (f, (mode f).isSome && mode f != some 1)
  | .phaw f => some (f, mode f == some 3)
  | _ => none

/-- What an arrival waits for: its own release, taken now, and the fences in force (R207, R209). -/
def arrivalReleases (f : YSyl) (s : State) : List Release :=
  (if f.store = 0 then [] else [releaseNow s (curId s) f.agent.toNat f.store]) ++ (cur s).fences

/-- The partition with what an acquire leaves of its peer copy (R203, R206). -/
def acquiring (s : State) (p agent : Nat) (store : BitVec 3) : Part :=
  let m := (partAt s p).memory
  { partAt s p with memory := { m with peer := acquired s agent store m.peer } }

/-! ## Phases -/

/-- Something of the context that issues is outstanding that a PEND and a TEND ask to be none (R40): a timed command, a
result, timed load or timed store in flight, a result of a semaphore to come, or a tile request. That an MDRC handed off
is no timed command, and what counts as a result in flight, is the model's reading (logs 80 and 11). -/
def Outstanding (s : State) : Prop :=
  let c := cur s
  let k := coreOf s s.core
  ((∃ m ∈ k.mq, m.slot = s.slot) ∨ (∃ r ∈ k.mrun, r.cmd.slot = s.slot) ∨
      ∃ q ∈ k.cq, q.slot = s.slot ∧ q.h.start ≠ 0x3FFF ∧ q.kind ≠ .mdrc) ∨
    c.fly.flights ≠ [] ∨ c.fly.loads ≠ [] ∨ c.fly.stores ≠ [] ∨ c.fly.tiles ≠ [] ∨
    ∃ u ∈ (coreOf s (curId s / 5)).semq, u.slot = curId s % 5 ∧
      ((∃ n reg, u.op = .fetchAdd n reg) ∨ ∃ e w reg, u.op = .cas e w reg)

/-- The successor a PEND signs off with (R38, R328). -/
def chosenSuccessor (c : Ctx) : BitVec 7 :=
  if c.ctl.psv then
    if gget c (c.ctl.psg.toNat % 32) != decide (32 ≤ c.ctl.psg.toNat) then c.ctl.pst else c.ctl.psf
  else BitVec.ofNat 7 (64 * c.pos.sb.toNat + c.pos.snext.toNat)

/-- The entry of a successor in a member's phase table (R37). -/
def entryOf (c : Ctx) (succ : BitVec 7) : BitVec 128 := tget 0 succ.toNat c.phtab

/-- A member begins the phase of an entry (R37, R41, R332): the entry's bundle, the clock at 0, the loop depth noted, no
tile compared, no PSEL record, and the entry's own successor as the default. -/
def PhaseBegun (c d : Ctx) (succ : BitVec 7) : Prop :=
  let e := entryOf c succ
  d.pos.pc = fld e 108 20 ∧ d.pos.clk = 0 ∧ d.pos.buf.toNat = succ.toNat / 64 ∧ d.pos.entry.toNat = succ.toNat % 64 ∧
    d.pos.sb.toNat = fld e 58 1 ∧ d.pos.snext.toNat = fld e 52 6 ∧ d.pos.depth0 = c.pos.loops.length ∧
    d.pos.loops = c.pos.loops ∧ d.pos.calls = c.pos.calls ∧ d.ctl = { c.ctl with psv := false } ∧ d.compared = [] ∧
    d.regs = c.regs ∧ d.fly = c.fly ∧ d.boundary = c.boundary ∧
    d.status = (match c.status with | .transom _ => .ready | x => x)

end Sys2Proof.Safety
end

