-- ==== Sys2Proof/Safety/Units.lean ====
section
/-! DEFINITION. The units beside the cores: the launch unit's records and gangs (R21, R27 to R36, R49, R50), the host's
side of a partition (R238 to R245), and the management mailbox (R245 to R248). -/

namespace Sys2Proof.Safety

open Sys2Proof Sys2Proof.Machine

/-! ## Tasks -/

/-- A ring's head has moved past one record, and nothing else of what it was told (R27). -/
def headMoved (s t : State) (p ring : Nat) : Prop :=
  (ringOf t p ring).head = (ringOf s p ring).head + 1 ∧ (ringOf t p ring).base = (ringOf s p ring).base ∧
    (ringOf t p ring).logcap = (ringOf s p ring).logcap ∧ (ringOf t p ring).prio = (ringOf s p ring).prio

/-- The tasks of a partition are as they were. -/
def sameTasks (s t : State) (p : Nat) : Prop := ∀ n, taskOf t p n = taskOf s p n

/-- The completion word of a record, if DONE is not 0, and then its vector, if MSIE is 1 (R30, R32); a write that faults
leaves no word and a record of KIND 11 (R33). -/
def Reports (p status : Nat) (r : BitVec 512) (s t : State) : Prop :=
  let done := fld r 98 57
  let word := leBytes 8 (fld r 167 24 + status * 2 ^ 24)
  ∃ u, (done = 0 → u = s) ∧ (done ≠ 0 → ∃ ok v, unitWrite p done word s = (ok, v) ∧
      u = if ok then v else logErr p 11 0xFF 0xFFFF 0xFFFF done (fld r 167 24) v) ∧
    t = if fld r 155 1 = 1 then msix p (fld r 156 11) u else u

/-- The successors of a record from its `i`-th of `n` have their words decremented in order, and are ready where that gives
0x8000_0000, up to one whose entry cannot be read (R31 to R33). -/
def Decrements (p : Nat) (r : BitVec 512) : Nat → Nat → State → State → Prop
  | 0, _, s, t => t = s
  | n + 1, i, s, t =>
    let a := fld r 207 57 + 4 * i
    (∃ s1, unitRead p a 4 s = (none, s1) ∧ t = logErr p 11 0xFF 0xFFFF 0xFFFF a (fld r 167 24) s1) ∨
    ∃ b s1, unitRead p a 4 s = (some b, s1) ∧
      ((∃ s2, depUpdate p (leNat b) (· + 0xFFFFFFFF) s1 = (none, s2) ∧ Decrements p r n (i + 1) s2 t) ∨
        ∃ v v' s2, depUpdate p (leNat b) (· + 0xFFFFFFFF) s1 = (some (v, v'), s2) ∧
          Decrements p r n (i + 1) (if v' = 0x80000000 then makeReady p (leNat b) s2 else s2) t)

/-- A member as binding leaves it (R36): ARG, rank, gang size and ID in s1 to s4, every other register 0 and unpoisoned,
no guard but g0 true, the controls of the header, no flag, and a transom that leads to A0. -/
structure BoundMember (x : Task) (n rank : Nat) (c : Ctx) : Prop where
  scalars : ∀ k, k < 64 → (sget c k).toNat =
    if k = 1 then fld x.record 448 64 else if k = 2 then rank else if k = 3 then fld x.record 264 8 + 1
    else if k = 4 then fld x.record 167 24 else 0
  others : (∀ k, vget c k = 0) ∧ (∀ k, k % 8 ≠ 0 → pget c k = 0) ∧ (∀ k, 0 < k → gget c k = false) ∧
    (∀ k, tget 0 k c.regs.tl = 0) ∧ c.regs.sPois = 0 ∧ c.regs.vPois = 0 ∧ c.regs.pPois = 0
  generators : ∀ cl i, cl < 2 → i < 128 → elemAt 32 (tget 0 cl c.regs.gen) i =
    if i = 0 then 0x6D2B79F5 else i * 0x9E3779B9 % 2 ^ 32
  controls : c.ctl.nbv = x.nbv ∧ c.ctl.flush.toNat = fld x.header 112 3 ∧ c.ctl.rmode.toNat = fld x.header 115 3 ∧
    c.ctl.prio.toNat = x.prio % 4 ∧ c.ctl.flags = 0 ∧ c.ctl.psv = false
  place : c.pos.codeBase = fld x.header 0 64 ∧ c.pos.codeLen = fld x.header 64 32 ∧ c.pos.loops = [] ∧ c.pos.calls = [] ∧
    c.fly = InFlight.reset
  task : c.task = some n ∧ c.rank = rank ∧ c.status = .transom true

/-- What binding leaves of a member before its area is read back (R36, R50). -/
def claimed (n : Nat) (x : Task) (sems : List (Nat × Nat)) (phtab : Sparse (BitVec 128)) (expect : Sparse (BitVec 32))
    (m : Nat × Nat) (rank : Nat) (s : State) : State :=
  setCtx (ctxId m.1 m.2) (memberCtx x n rank sems phtab expect) (claimCore m.1 m.2 x.header s)

/-- The address of a member's area, and where its tiles stand in it (R388). -/
def areaOf (x : Task) (rank : Nat) : Nat := hdrSave x.header + rank * areaSize x.header
def areaTiles (x : Task) : Nat := 0x14000 + coreStateSize (fld x.header 104 8) (hdrMxu x.header)

/-- The task keeps a core state besides the husk (R260, R388). -/
def hasCoreState (x : Task) : Bool := fld x.header 104 8 != 0 || hdrMxu x.header

/-- A member's area is read: the husk with its core state, and the tiles with the block of tags (R50, R388). -/
def ReadsArea (p n : Nat) (x : Task) (sems : List (Nat × Nat)) (phtab : Sparse (BitVec 128)) (expect : Sparse (BitVec 32))
    (m : Nat × Nat) (rank : Nat) (s : State) (h b : List Byte) : Prop :=
  let s0 := claimed n x sems phtab expect m rank s
  let q := partOfCore s0.dev m.1
  (vread q (dieOfCore m.1) .read 66 (areaOf x rank)
    (huskSize + if hasCoreState x then coreStateSize (fld x.header 104 8) (hdrMxu x.header) else 0) s0).1 = some h ∧
  ∃ s1, restoreHusk (ctxId m.1 m.2) (areaOf x rank) (hasCoreState x) s0 = (true, s1) ∧
    (vread p (dieOfCore m.1) .read 66 (areaOf x rank + areaTiles x) (4096 * (hdrTiles x.header).length + 4096) s1).1 = some b

/-- What the gang keeps of a rank (R50). -/
def keptFor (x : Task) (rank : Nat) : Kept :=
  (x.kept.find? fun k => k.rank == rank).getD
    { rank := rank, place := (0, 0), ended := none, xfer := none, left := 0, more := [], compared := [], depth0 := 0, hold := none
      boundary := [], fences := [], updates := [], phops := [], aged := 0, byp := [], bypPois := 0 }

/-- The members of a gang are restored one after another, each rank in its slot, from the areas in `hs` (R50); a member
that had ended has none. -/
def RebindsTo (p n : Nat) (x : Task) (sems : List (Nat × Nat)) (phtab : Sparse (BitVec 128)) (expect : Sparse (BitVec 32)) :
    List ((Nat × Nat) × Nat) → List (List Byte × List Byte) → State → State → Prop
  | [], hs, s, t => hs = [] ∧ t = s
  | _ :: _, [], _, _ => False
  | m :: rest, e :: hs, s, t => ∃ u, rebindMember p n x sems phtab expect m.1.1 m.1.2 m.2 s = (true, u) ∧
      ((keptFor x m.2).ended = none → ReadsArea p n x sems phtab expect m.1 m.2 s e.1 e.2) ∧
      RebindsTo p n x sems phtab expect rest hs u t

/-- A member restored from the bytes `h` of its husk and core state and `b` of its tiles and tags (R50, R260, R261, R388):
the registers, controls, position and phase clock, phaser memberships and wait reasons, what is in flight, the semaphores,
the accumulators and matrix state, the tiles and their tags. -/
structure Restored (x : Task) (rank : Nat) (h b : List Byte) (c : Ctx) (k : Core) : Prop where
  scalars : ∀ j, 0 < j → j < 64 → (sget c j).toNat = numAt h (0x8000 + 8 * j) 8
  vectors : ∀ j, j < 64 → (vget c j).toNat = numAt h (512 * j) 512
  predicates : ∀ j, j < 16 → j % 8 ≠ 0 → (pget c j).toNat = numAt h (0x8200 + 64 * j) 64
  others : (∀ j, j < 2 → (tget 0 j c.regs.gen).toNat = numAt h (0x8600 + 512 * j) 512) ∧
    (∀ j, j < 32 → (tget 0 j c.regs.sh).toNat = numAt h (0x8A00 + 64 * j) 64) ∧
    ∀ j, j < 4 → tget 0 j c.regs.tl = BitVec.ofNat 64 (numAt h (0x9200 + 8 * (3 + j)) 8) &&& 0x8000FFFFFFFFFFFF#64
  poison : c.regs.sPois.toNat = numAt h 0x9200 8 ∧ c.regs.vPois.toNat = numAt h 0x9208 8 ∧
    c.regs.pPois.toNat = numAt h 0x9210 2
  guards : ∀ j, 0 < j → j < 32 → gget c j = (numAt h 0x9212 4).testBit j
  formats : ∀ j, j < 8 → (tget 0 j c.ctl.fm).toNat = numAt h (0x9200 + 8 * (7 + j)) 4 / 2 ^ 13 * 2 ^ 13
  controls : c.ctl.nbv.toNat = numAt h 0x9278 1 ∧ c.ctl.flush.toNat = numAt h 0x9280 1 % 8 ∧
    c.ctl.rmode.toNat = (if 6 ≤ numAt h 0x9288 1 % 8 then 0 else numAt h 0x9288 1 % 8) ∧
    c.ctl.flags.toNat = numAt h 0x9290 1 % 64 ∧ c.ctl.subst.toNat = numAt h 0x9298 2 ∧
    c.ctl.prio.toNat = numAt h 0x92A0 1 % 4 ∧ c.ctl.teb.toNat = numAt h 0x92A8 8 ∧ c.ctl.sam.toNat = numAt h 0x92B0 32
  phase : c.pos.clk = numAt h 0x9480 8 ∧ c.pos.inph = (numAt h 0x92D0 1).testBit 6 ∧
    c.pos.entry.toNat = numAt h 0x92D0 1 % 64 ∧ c.fly = huskFly h (some x)
  stack : c.pos.loops.length = numAt h 0x92D8 1 % 8 ∧ c.pos.calls.length = numAt h 0x92D9 1 % 16 ∧
    (∀ i e, c.pos.loops.reverse[i]? = some e → e.start = numAt h (0x9300 + 16 * i) 4 ∧
      e.stop = numAt h (0x9304 + 16 * i) 4 ∧ e.count = numAt h (0x9308 + 16 * i) 8) ∧
    ∀ i v, c.pos.calls.reverse[i]? = some v → v = numAt h (0x9380 + 8 * i) 8
  place : (keptFor x rank).hold = none → c.pos.pc =
    (numAt h 0x92E8 8 + 2 ^ 57 - fld x.header 0 57) % 2 ^ 57 / 64
  memberships : ∀ ph m, (ph, m) ∈ c.phasers ↔ ∃ i, i < 8 ∧ ph = numAt h (0x9400 + 8 * i) 4 ∧
    m = BitVec.ofNat 2 (numAt h (0x9404 + 8 * i) 4) ∧ numAt h (0x9404 + 8 * i) 4 ≠ 0
  reasons : ∀ i, i < 256 → tget 0 i c.reasons = numAt h (0x9500 + i) 1
  semaphores : ∀ i, 0 < i → i < 256 → c.ctl.sam.getLsbD i = true → (semGet k i).toNat = numAt h (0x9700 + 2 * i) 2
  accumulators : ∀ i t r, (hdrAcc x.header)[i]? = some t → r < 128 →
    (accAt k t r).toNat = numAt h (huskSize + 65536 * i + 512 * r) 512
  matrix : hdrMxu x.header = true →
    let o := huskSize + 65536 * (hdrAcc x.header).length
    (∀ i, i < 16384 → (tget latchZero i k.mx.bank0.w).toNat = numAt h (o + 4 * i) 4 ∧
      (tget latchZero i k.mx.bank1.w).toNat = numAt h (o + 65536 + 4 * i) 4) ∧
    k.mx.act.toNat = numAt h (o + 131072) 1 % 2
  tiles : ∀ i t r, (hdrTiles x.header)[i]? = some t → r < 8 →
    (rowAt k (768 * (t / 96) + 8 * (t % 96) + r)).toNat = numAt b (4096 * i + 512 * r) 512
  tags : ∀ i t, (hdrTiles x.header)[i]? = some t →
    (tagOf k t).toNat = numAt b (4096 * (hdrTiles x.header).length + 2 * i) 2
  kept : c.compared = (keptFor x rank).compared ∧ c.boundary = (keptFor x rank).boundary ∧
    c.fences = (keptFor x rank).fences ∧ c.pos.xfer = (keptFor x rank).xfer ∧ c.pos.left = (keptFor x rank).left ∧
    c.pos.depth0 = (keptFor x rank).depth0 ∧ c.regs.byp = (keptFor x rank).byp
  goesOn : c.rank = rank ∧ c.event = none ∧ match (keptFor x rank).hold with
    | some (w, pc) => c.status = .waiting w true ∧ c.pos.pc = pc
    | none => c.status = .ready ∨ ¬c.pos.inph ∧ c.status = .transom true

/-- A request to the supervisor of a member (R49, R258). -/
def requestFor (s : State) (cause id : Nat) : Event :=
  { cause := cause, slot := id % 5, async := true, fetch := false, detail := 0, va := bundleVa (ctxOf s id), syl := 15
    val := 0 }

/-! ## The mailbox -/

/-- A row of R247: OPC, whether TGT is the device (0), a partition (1) or either (2), whether it is performed without
verified firmware (R272), the limits of its arguments for a target, and whether CONFIG_LOCKED and RUN refuse it (R248). -/
structure MbRow where
  opc : Nat
  tgt : Nat
  boot : Bool
  fits : State → Nat → Bool
  locks : Bool

/-- MBARG k (R245). -/
def mbArg (s : State) (k : Nat) : Nat := (tget 0 k s.dev.mb.args).toNat

/-- Bytes that lie within a partition's DRAM (R198, R247). -/
def within (s : State) (p a n : Nat) : Bool := decide (a + n ≤ usableBytes s.dev p)

/-- The 64 KiB or 2 MiB a size code names (R247). -/
def codeSize (n : Nat) : Nat := if n = 1 then 2 ^ 21 else 2 ^ 16

/-- The limits of a record ring's place (R397). -/
def ringFits (size : Nat) (s : State) (p : Nat) : Bool :=
  mbArg s 0 % size == 0 && decide (6 ≤ mbArg s 1 ∧ mbArg s 1 ≤ 20) && within s p (mbArg s 0) (size * 2 ^ mbArg s 1)

/-- The frames of EXPOOL's list (R195). -/
def listedFrames (s : State) (p : Nat) : List Nat :=
  (List.range (mbArg s 1)).map fun i => leNat (memRead s.mem (p * 2 ^ 57 + (mbArg s 0 + 8 * i)) 8)

/-- The commands of R247. -/
def mbRow (i : Instr) : Option MbRow :=
  let a := mbArg
  let any (_ : State) (_ : Nat) := true
  match i with
  | .partset => some ⟨0x01, 0, false, fun s _ => [1, 2, 4].contains (a s 0), true⟩
  | .fabaddr => some ⟨0x02, 0, false, fun s _ => decide (a s 0 ≤ 2048 ∧ a s 1 ≤ 31), false⟩
  | .pbase => some ⟨0x03, 1, false, fun s _ => decide (a s 0 ≤ 65567), true⟩
  | .pair => some ⟨0x04, 1, false, fun s _ => decide (a s 0 < 65568 ∧ a s 1 ≤ 3 ∧ a s 2 ≤ 1), true⟩
  | .xroot => some ⟨0x10, 1, false, fun s _ => a s 0 % 65536 == 0, true⟩
  | .xinval => some ⟨0x11, 1, false, any, false⟩
  | .expool =>
    some ⟨0x12, 1, false, fun s p => decide (1 ≤ a s 1 ∧ a s 1 ≤ 4096 ∧ a s 2 ≤ 1) && within s p (a s 0) (8 * a s 1),
      true⟩
  | .compress =>
    some ⟨0x13, 1, false, fun s p => decide (a s 1 ≤ 1) && a s 0 % codeSize (a s 1) == 0 &&
      a s 2 % codeSize (a s 1) == 0 && within s p (a s 0) (codeSize (a s 1)) && within s p (a s 2) (codeSize (a s 1)), true⟩
  | .peercopy =>
    some ⟨0x14, 1, false, fun s p => a s 0 % 2 ^ 21 == 0 && a s 1 % 2 ^ 21 == 0 &&
      (a s 1 == 0 || within s p (a s 0) (a s 1)), true⟩
  | .errlog =>
    some ⟨0x20, 1, false, fun s p => ringFits 64 s p && a s 2 % 4096 == 0 && within s p (a s 2) 4096, false⟩
  | .faq => some ⟨0x21, 1, false, ringFits 32, false⟩
  | .migq => some ⟨0x22, 1, false, ringFits 32, false⟩
  | .cethr => some ⟨0x23, 1, false, fun s _ => decide (1 ≤ a s 0 ∧ a s 0 ≤ 65535), false⟩
  | .phallot => some ⟨0x24, 1, false, fun s _ => decide (a s 0 + a s 1 ≤ 1024), true⟩
  | .latchl =>
    some ⟨0x30, 1, false, fun s p => (physCore s.dev p (a s 0)).isSome && (physCore s.dev p (a s 1)).isSome, false⟩
  | .physmap => some ⟨0x31, 1, false, any, false⟩
  | .signer => some ⟨0x40, 1, false, fun s _ => decide (a s 0 ≤ 15), true⟩
  | .load => some ⟨0x41, 1, false, any, false⟩
  | .cancel => some ⟨0x42, 1, false, any, false⟩
  | .wreset => some ⟨0x43, 2, true, any, false⟩
  | .badadd => some ⟨0x50, 0, false, fun s _ => a s 0 % 65536 == 0, false⟩
  | .badread => some ⟨0x51, 0, false, any, false⟩
  | .retire =>
    some ⟨0x52, 0, false, fun s _ => decide (a s 0 = 1 ∧ a s 1 < 64 ∨ a s 0 = 2 ∧ a s 1 < 2048 ∨ a s 0 = 3 ∧ a s 1 < 128), false⟩
  | .counters => some ⟨0x60, 1, false, any, false⟩
  | .ports => some ⟨0x61, 0, false, any, false⟩
  | .trace => some ⟨0x62, 1, false, fun s _ => a s 0 % 4096 == 0 && decide (a s 2 ≤ 1), true⟩
  | .fwprov =>
    some ⟨0x70, 0, true, fun s _ => decide (a s 1 ≤ 61440 ∧ a s 0 + a s 1 ≤ 2 ^ 26 ∧ a s 2 ≤ 1), false⟩
  | _ => none

/-- TGT of the command in MBCMD (R246). -/
def mbTgt (s : State) : Nat := fld s.dev.mb.cmd 16 8

/-- TGT is one its row allows and the device has (R246, R247). -/
def tgtFits (s : State) (r : MbRow) : Bool :=
  (r.tgt != 1 && mbTgt s == 0xFF) || (r.tgt != 0 && decide (mbTgt s < s.dev.parts))

/-- The state of the TDI refuses the command (R248): PARTSET once any TDI has left CONFIG_UNLOCKED, the others while their
partition's is in CONFIG_LOCKED or RUN. -/
def mbLocked (s : State) (r : MbRow) : Bool :=
  r.locks && (if r.opc = 0x01 then [0, 1, 2, 3].any fun p => (partAt s p).host.leftUnlocked
    else (partAt s (mbTgt s)).host.tdi == .locked || (partAt s (mbTgt s)).host.tdi == .run)

/-- The command begins (R245, R246): BUSY is set, the command and its arguments stand, and this is what its completion
will write. -/
def Begins (i : Instr) (s : State) (result : Nat) (words : List (Nat × W64)) (Q : State → Prop) : Prop :=
  Answers i s fun t =>
    let m := s.dev.mb
    let n := t.dev.mb
    n.pending = some (result, words) ∧ n.stat = m.stat ||| 0x8000000000000000#64 ∧ n.run = m.cmd ∧ n.cmd = m.cmd ∧
      n.cfg = m.cfg ∧ n.args = m.args ∧ n.rsp = m.rsp ∧ Q t

/-- Nothing but the mailbox changes. -/
def MailboxAlone (s t : State) : Prop := FrameDev [] [] [] s t ∧ t.dev = { s.dev with mb := t.dev.mb }

/-- Nothing but one partition and the mailbox changes. -/
def OnlyPart (p : Nat) (s t : State) : Prop := FrameDev [] [] [p] s t ∧ t.dev = { s.dev with mb := t.dev.mb }

/-- The command's row lets it begin its own effect: not busy, its OPC, firmware, target, arguments and TDI. -/
def MbTaken (i : Instr) (s : State) : Prop :=
  ∃ r, mbRow i = some r ∧ s.dev.mb.stat.getLsbD 63 = false ∧ fld s.dev.mb.cmd 0 16 = r.opc ∧
    ((s.dev.fwUp = true ∧ (partAt s (mbTgt s)).memory.retrain = []) ∨ r.boot = true) ∧ fld s.dev.mb.cmd 24 8 = 0 ∧ tgtFits s r = true ∧ r.fits s (mbTgt s) = true ∧
    mbLocked s r = false

/-- A byte of the bulk buffer (R245). -/
def bulkByte (s : State) (j : Nat) : Byte := tget 0 j s.dev.mb.bulk

/-! ## Code objects (R268 to R271) -/

/-- A code object's header: MAGIC, FMTV 1, DEV 9, NSEG 1 to 64, SIGNER 0 to 15, zero beyond (R268). -/
def HeadFits (h : List Byte) : Prop :=
  h.take 8 = [0x53, 0x52, 0x57, 0x54, 0x43, 0x4F, 0x30, 0x31] ∧ numAt h 8 2 = 1 ∧ numAt h 10 1 = 9 ∧
    1 ≤ numAt h 12 2 ∧ numAt h 12 2 ≤ 64 ∧ numAt h 14 2 ≤ 15 ∧ ∀ j, 16 ≤ j → j < 128 → h.getD j 0 = 0

/-- A segment descriptor: KIND 1 to 4, FLAGS 0 or 1, MSIZE at least FSIZE, VADDR 64 KiB aligned, the segment within the 57
bits of an address (log 33), zero fields zero (R268). -/
def DescFits (d : List Byte) : Prop :=
  1 ≤ numAt d 0 1 ∧ numAt d 0 1 ≤ 4 ∧ numAt d 4 4 ≤ 1 ∧ numAt d 16 8 ≤ numAt d 24 8 ∧ numAt d 32 8 % 65536 = 0 ∧
    numAt d 32 8 + numAt d 24 8 ≤ 2 ^ 57 ∧
    ∀ j, 1 ≤ j ∧ j < 4 ∨ 40 ≤ j ∧ j < 64 ∨ 242 ≤ j ∧ j < 256 → d.getD j 0 = 0

/-- Step 2 of R270, segment after segment: the contents are read, MEAS and SIG hold, and the contents with zeroes up to
MSIZE are written at VADDR. A stream form is skipped. -/
def SegmentsLoad (p va : Nat) (key : BitVec 456) : List (List Byte) → State → State → Prop
  | [], s, t => t = s
  | d :: ds, s, t =>
    if numAt d 0 1 = 4 then SegmentsLoad p va key ds s t
    else ∃ body s1 s2, readAll p (va + numAt d 8 8) (numAt d 16 8) s = (some body, s1) ∧
      leBytes 64 (Config.shake256 (d.take 64 ++ body)).toNat = (d.drop 64).take 64 ∧
      Config.ed448Verify (leBytes 57 key.toNat) (d.take 128) ((d.drop 128).take 114) = true ∧
      vwriteAs p ((partDies s1.dev p).headD 0) .read (numAt d 24 8 / 65536 + 2) (numAt d 32 8)
        (body ++ List.replicate (numAt d 24 8 - numAt d 16 8) 0) s1 = (true, s2) ∧
      SegmentsLoad p va key ds s2 t

/-- The digest after the measurements of an object's segments, each extending it with MEAS, the load number and the
segment's own number (R271). -/
def digestAfter (load : Nat) : List (List Byte × Nat) → BitVec 512 → BitVec 512
  | [], x => x
  | d :: ds, x => digestAfter load ds
      (if numAt d.1 0 1 = 4 then x
       else Config.shake256 (leBytes 64 x.toNat ++ (d.1.drop 64).take 64 ++ leBytes 8 load ++ leBytes 2 d.2))

/-- Step 5 of R270: the leaf entry of each page has bit 4 (X) set, bit 3 (W) clear and no other bit changed, and no cached
copy of it stays (R190, R192). -/
def PagesMadeCode (p : Nat) : List Nat → State → State → Prop
  | [], s, t => t = s
  | va :: rest, s, t => ∃ u, PagesMadeCode p rest u t ∧ match walk s p va with
    | none => u = s
    | some l => (∀ j, ctxOf u j = ctxOf s j) ∧ (∀ j, coreOf u j = coreOf s j) ∧
      (∀ i, i < 128 → (leNat (memRead u.mem (p * 2 ^ 57 + l.home) 16)).testBit i =
        if i = 4 then true else if i = 3 then false else l.pte.getLsbD i) ∧
      (∀ b, b < p * 2 ^ 57 + l.home ∨ p * 2 ^ 57 + l.home + 16 ≤ b → memGet u.mem b = memGet s.mem b) ∧
      partAt u p = { partAt s p with memory := { (partAt s p).memory with
        tlb := (partAt s p).memory.tlb.filter fun e => e.home != l.home } }

/-- The segments an object leaves in the partition's list, and the pages of its code (R108, R270). -/
def segmentsOf (nbv : Nat) (ds : List (List Byte)) : List Seg :=
  (ds.filter fun d => numAt d 0 1 != 4).map fun d =>
    { kind := numAt d 0 1, vaddr := numAt d 32 8, msize := numAt d 24 8, nbv := BitVec.ofNat 8 nbv }
def codePages (segs : List Seg) : List Nat :=
  (segs.filter fun g => g.kind == 1).flatMap fun g => (List.range ((g.msize + 65535) / 65536)).map fun i => g.vaddr + 65536 * i

end Sys2Proof.Safety
end

