-- ==== Sys2Proof/Safety.lean ====
section
/-! DEFINITION. What the statements say of the machine: frames, and tables of what instructions compute. -/
end

