-- ==== Sys2Proof/Certificates/Slice0/Obligations.lean ====
section
/-! DEFINITION. The statements of this row about the machine, from the rules of spec/. -/

open Sys2Proof Sys2Proof.Machine Sys2Proof.Safety

/-- Worked encodings (R120 to R138): ADD s3, s1, s2; VRAMX; LD of va5; ST of vb4; MMA; CPY; PEND; SWAIT. A sanity
statement. -/
def Obligations.WorkedWordsDecode : Prop :=
  decodeSyl .s 0x010C108000000000 = .add ⟨3, 1, 2, 0, 0, 0⟩ ∧
  decodeSyl .s 0x181410000000083C = .bfxz ⟨5, 1, 0, 0, 0, 0x83C⟩ ∧
  decodeSyl .s 0x3C2480008000_0002 = .trapHsave ⟨9, 8, 0, 0, 0, 0x80000002⟩ ∧
  decodeSyl .va 0x41840C0000000000 = .vramx .a ⟨8, 8, 6, 0, 0, 0, 0, 0, 0⟩ ∧
  decodeSyl .vb 0x55810E0000000000 = .pset .b ⟨8, 2, 7, 0, 0, 0, 0, 0, 0⟩ ∧
  decodeSyl .ld 0x0455018250 = .ld ⟨0, 5, 2, 8, 0, 6, 37, 0, 0⟩ ∧
  decodeSyl .sd 0x064A4180A4 = .st ⟨1, 4, 5, 2, 0, 6, 10, 2, 0⟩ ∧
  decodeSyl .m 0x02000005100B404516100001 =
    .mma ⟨0, 0, 5, 1, 45, 0, 0⟩ ⟨2, 10, 11, 0, 2, 0, 0, 0, 0, 0, 0, 1⟩ ∧
  decodeSyl .cp 0x010000041FFFC0180A300000 =
    .cpy ⟨0, 0, 4, 1, 0x3FFF, 0, 0⟩ ⟨3, 0, 10, 12, 0, 0, 0, 0, 0, 0⟩ ∧
  decodeSyl .sy 0x400A04000000 = .pend ⟨0, 5, 2, 0, 0, 0, 0⟩ ∧
  decodeSyl .sy 0x041802000000 = .swait ⟨0, 12, 1, 0, 0, 0, 0⟩

/-- Decode of encode (R120 to R138), for every instruction that has a syllable: the other slots hold NOPs (R121). -/
def Obligations.EncodedInstructionsDecodeToThemselves : Prop :=
  ∀ (i : Instr) (sl : Slot) (w : BitVec 96) (b : BitVec 512),
    i.wf = true → encodeSyl i = some (sl, w) → encode i = some b →
      decodeBundle b = Slot.all.map fun x => (x, if x = sl then i else .nop x 0)

/-- Encode of decode: an opcode that names no instruction keeps its bits too (R133). -/
def Obligations.DecodedSyllablesEncodeToTheirBits : Prop :=
  ∀ (sl : Slot) (w : BitVec 96), w.toNat < 2 ^ sl.width → encodeSyl (decodeSyl sl w) = some (sl, w)

/-- A step runs the decoded instruction (R45, R122, R142, R316; the order of what is next in a cycle is the model's,
log 40; the inputs' order, logs 4 and 40). In the last clause `s1` is the state the fetch leaves, which fills a translation buffer at most. -/
def Obligations.StepsRunWhatIsNext : Prop :=
  (∀ (s : State) (at_ : Nat) (i : Instr) (rest : List (Nat × Input)),
    s.inbox = (at_, .step i) :: rest → at_ ≤ now s → external i = true → inputFits s (.step i) = true →
      aliasInput s (.step i) = false → step s = exec i { s with inbox := rest }) ∧
  (∀ (s : State) (at_ next : Nat) (i : Instr) (w : DbWrite) (rest : List (Nat × Input)),
    s.inbox = (at_, .step i) :: (next, .step (.doorbellWrite w)) :: rest → at_ ≤ now s → next ≤ now s → w.fromPort = true →
      aliasInput s (.step i) = true → step s = exec (.doorbellWrite w) { s with inbox := (at_, .step i) :: rest }) ∧
  (∀ (s : State) (i : Instr), NoInputDue s → nextTimed s = some (.instr i) → step s = exec i s) ∧
  (∀ (s s1 t : State) (core : Nat) (b : BitVec 512) (sl : Slot) (i : Instr),
    let id := ctxId core (coreOf s core).sel.cur
    let s2 := updCtx id enterPhase { s1 with bnd := bundleMarks b }
    NoInputDue s → nextTimed s = some (.bundle core) →
    fetch { s with core := core, slot := (coreOf s core).sel.cur } id = (.ok b, s1) →
    curId s1 = id → HoldsAlone b sl i → rftWaits { s1 with bnd := bundleMarks b } b = false →
    sillRaises { s1 with bnd := bundleMarks b } b = [] →
    ((bundleMarks b).sill = true → eventPending s1 s1.core = false) →
    exec i s2 = .next t → isTrapped (ctxOf s2 id) = false → raisedEvent id s2 t = none → raisedEvent id t t = none →
    (∀ w, (ctxOf t id).status ≠ .waiting w false) →
    let u := markIssued s1.core s1.slot t
    step s = .next (if stillThere id u then updCtx id afterIssue u else u))

/-- Completion of every instruction and every step, in every state: a trap is a next state (R249). -/
def Obligations.EveryStepAnswers : Prop :=
  (∀ (i : Instr) (s : State), ∃ t, exec i s = .next t) ∧ (∀ s : State, ∃ t, step s = .next t)

/-- Taking a trap (R251, R253, R254) from a ready task context, and in the supervisor (R257). That a trap frees the issue
slot, invokes the selector and sets the next issue 8 cycles on is the model's reading of R45 and R46 (log 42, DEDUCED). -/
def Obligations.TrapsStopTheContextAndQueueTheEvent : Prop :=
  (∀ (s : State) (id : Nat) (e : Event), id % 5 ≠ 4 → (ctxOf s id).status = .ready →
    let t := takeTrap id e s
    let k := coreOf s (id / 5)
    let held := k.sel.cur = id % 5 ∨ (k.sel.cur = 7 ∧ k.sel.sel = id % 5)
    Frame [id] [id / 5] [] s t ∧
    ctxOf t id = { ctxOf s id with
      status := .trapped none none, event := some e, boundary := []
      reasons := if (e.cause = 0x10 ∨ e.cause = 0x0A) ∧ e.fetch = false then tset 0 e.val 0 (ctxOf s id).reasons
        else (ctxOf s id).reasons } ∧
    coreOf t (id / 5) = { k with
      sup := { k.sup with events := k.sup.events ++ [e] }, sel := (coreOf t (id / 5)).sel } ∧
    (held → (coreOf t (id / 5)).sel.cur = 7 ∧ (coreOf t (id / 5)).sel.from_ = now s + 8) ∧
    (¬held → (coreOf t (id / 5)).sel = k.sel)) ∧
  (∀ (s : State) (core : Nat) (e : Event),
    let t := takeTrap (5 * core + 4) e s
    (coreOf t core).sup.fenced = true ∧ superReady t core = false ∧ ∀ k, k ≠ core → (coreOf t k).sup = (coreOf s k).sup)

/-- The encoding traps (R4, R122, R133, R249), whatever the guard (R123): ILLEGAL_OPCODE has no other effect. Of two causes
of one syllable 0x01 is first (R250). -/
def Obligations.BadBitsTrap : Prop :=
  ∀ (i : Instr) (sl : Slot) (w : BitVec 96) (s : State), encodeSyl i = some (sl, w) →
    ((enc i).illegal = true → Traps i s sl (plain 0x01)) ∧
    ((enc i).illegal = false → (enc i).reserved = true →
      Traps i s sl (plain (if illegalHere i s = true then 0x01 else 0x02)))

/-- The privilege trap (R140, R255, R256). -/
def Obligations.PrivilegedSyllablesTrapInTaskContexts : Prop :=
  ∀ (i : Instr) (s : State), i.wf = true → privilegedSyllable i = true → s.slot ≠ 4 → Traps i s .s (plain 0x03)

/-- Guards (R76, R123), for the instructions that check only their bits and their guard. -/
def Obligations.GuardsDecideScalarSyllables : Prop :=
  ∀ (i : Instr) (s : State) (f : SSyl), i.wf = true → guardOnly i s = some f →
    (Skips f (cur s) → exec i s = .next s) ∧
    (gresolved (cur s) f.g.toNat = false → Traps i s .s (plain 0x04))

/-- The scalar arithmetic (R275, R276 and the entries of its other rows), in whole numbers. -/
def Obligations.ScalarArithmeticDelivers : Prop :=
  ∀ (i : Instr) (s : State) (r : ScalarRow), i.wf = true → scalarRow i s = some r → bitwise i = false →
    Executes r.f (cur s) → RowDelivered i s r

/-- The instructions on the bits of a word (R276, R282). -/
def Obligations.ScalarBitOperationsDeliver : Prop :=
  ∀ (i : Instr) (s : State) (r : ScalarRow), i.wf = true → scalarRow i s = some r → bitwise i = true →
    Executes r.f (cur s) → RowDelivered i s r

/-- CCNR (R286), whole: the instruction, its zero fields, equality across contexts, and its capture (R261). D is a
field of the instruction. -/
def Obligations.CcnrDeliversTheCycle : Prop :=
  (∀ (f : SSyl) (s : State), f.a = 0 → f.b = 0 → f.imm = 0 → Executes f (cur s) →
    Delivers (.ccnr f) s f.d.toNat (BitVec.ofNat 64 s.ccn) false 1) ∧
  (∀ (f : SSyl) (s : State), (f.a ≠ 0 ∨ f.b ≠ 0 ∨ f.imm ≠ 0) → Traps (.ccnr f) s .s (plain 0x02)) ∧
  (∀ (f g : SSyl) (s t : State), s.ccn % 2 ^ 64 = t.ccn % 2 ^ 64 → f.a = 0 → f.b = 0 → f.imm = 0 → g.a = 0 → g.b = 0 → g.imm = 0 →
    Executes f (cur s) → Executes g (cur t) →
    ∃ v, Delivers (.ccnr f) s f.d.toNat v false 1 ∧ Delivers (.ccnr g) t g.d.toNat v false 1) ∧
  (∀ (f : SSyl) (c : Ctx) (v : W64) (clk : Nat),
    numAt (flightEntry clk (resultFlight f.d.toNat v false 1 c)) 128 8 = v.toNat)

/-- ADDR (R280), whole: sh and disp at each value their fields have; it checks nothing of the sum. -/
def Obligations.AddrFormsAnAddress : Prop :=
  (∀ (f : SSyl) (s : State) (sh : BitVec 6) (disp : BitVec 24), f.imm = disp ++ (0 : BitVec 2) ++ sh →
    Executes f (cur s) →
    let a := (sget (cur s) f.a.toNat).toNat
    let b := (sget (cur s) f.b.toNat).toNat
    Delivers (.addr f) s f.d.toNat (BitVec.ofInt 64 ((a : Int) + b * 2 ^ sh.toNat + disp.toInt))
      (spois (cur s) f.a.toNat || spois (cur s) f.b.toNat) 1) ∧
  (∀ (f : SSyl) (s : State), bits f.imm 7 6 ≠ 0 → Traps (.addr f) s .s (plain 0x02))

/-- DIV and DIVZ (R298), whole: the pair (q, rm) is the one the identity and the signs determine. -/
def Obligations.DivisionKeepsItsIdentity : Prop :=
  (∀ (f : SSyl) (s : State) (q rm : Int), bits f.imm 31 1 = 0 → Executes f (cur s) →
    let a := (sget (cur s) f.a.toNat).toInt
    let b := (sget (cur s) f.b.toNat).toInt
    (b = 0 → q = -1 ∧ rm = 0) →
    (b ≠ 0 → a = q * b + rm ∧ rm.natAbs < b.natAbs ∧ (0 ≤ a → 0 ≤ rm) ∧ (a ≤ 0 → rm ≤ 0)) →
    Delivers (.div f) s f.d.toNat (BitVec.ofInt 64 (if bits f.imm 0 0 = 1 then rm else q))
      (spois (cur s) f.a.toNat || spois (cur s) f.b.toNat) 12) ∧
  (∀ (f : SSyl) (s : State) (q rm : Nat), bits f.imm 31 1 = 0 → Executes f (cur s) →
    let a := (sget (cur s) f.a.toNat).toNat
    let b := (sget (cur s) f.b.toNat).toNat
    (b = 0 → q = 2 ^ 64 - 1 ∧ rm = 2 ^ 64 - 1) → (b ≠ 0 → a = q * b + rm ∧ rm < b) →
    Delivers (.divz f) s f.d.toNat (BitVec.ofNat 64 (if bits f.imm 0 0 = 1 then rm else q))
      (spois (cur s) f.a.toNat || spois (cur s) f.b.toNat) 12) ∧
  (∀ (f : SSyl) (s : State), bits f.imm 31 1 ≠ 0 → Traps (.div f) s .s (plain 0x02) ∧ Traps (.divz f) s .s (plain 0x02))

/-- MUL, MULH and MULHZ (R322), whole: `hi` and `lo` are the halves of the 128-bit product. -/
def Obligations.MultipliesDeliverTheProduct : Prop :=
  (∀ (f : SSyl) (s : State) (hi : Int) (lo : Nat), f.imm = 0 → Executes f (cur s) → lo < 2 ^ 64 →
    let a := sget (cur s) f.a.toNat
    let b := sget (cur s) f.b.toNat
    let pois := spois (cur s) f.a.toNat || spois (cur s) f.b.toNat
    (a.toInt * b.toInt = hi * 2 ^ 64 + lo →
      Delivers (.mul f) s f.d.toNat (BitVec.ofNat 64 lo) pois 3 ∧
      Delivers (.mulh f) s f.d.toNat (BitVec.ofInt 64 hi) pois 3) ∧
    ((a.toNat * b.toNat : Int) = hi * 2 ^ 64 + lo →
      Delivers (.mul f) s f.d.toNat (BitVec.ofNat 64 lo) pois 3 ∧
      Delivers (.mulhz f) s f.d.toNat (BitVec.ofInt 64 hi) pois 3)) ∧
  (∀ (f : SSyl) (s : State), f.imm ≠ 0 → Traps (.mul f) s .s (plain 0x02) ∧ Traps (.mulh f) s .s (plain 0x02) ∧
    Traps (.mulhz f) s .s (plain 0x02))

/-- BFI (R282) and GSET (R304). -/
def Obligations.BitFieldInsertAndGuardSet : Prop :=
  (∀ (f : SSyl) (s : State) (off wid : Nat) (v : W64), (Instr.bfi f).wf = true → Executes f (cur s) →
    let c := cur s
    let b := sget c f.b.toNat
    let reg := bits f.imm 15 15 = 1
    (off, wid) = (if reg then (b.toNat % 2 ^ 7, b.toNat / 2 ^ 8 % 2 ^ 7) else (bits f.imm 6 0, bits f.imm 14 8)) →
    (off ≥ 64 ∨ wid = 0 → exec (.bfi f) s = .next s) ∧
    (off < 64 → wid ≠ 0 →
      (∀ n, n < 64 → v.getLsbD n =
        if off ≤ n ∧ n < off + wid then (sget c f.a.toNat).getLsbD (n - off) else (sget c f.d.toNat).getLsbD n) →
      Delivers (.bfi f) s f.d.toNat v
        (spois c f.a.toNat || (decide reg && spois c f.b.toNat) || spois c f.d.toNat) 1)) ∧
  (∀ (f : SSyl) (s : State), (Instr.gset f).wf = true → Executes f (cur s) →
    let c := cur s
    let v : Row := if (sget c f.a.toNat ≠ 0) ↔ bits f.imm 0 0 = 0 then 1 else 0
    (spois c f.a.toNat = true → Traps (.gset f) s .s (plain 0x06)) ∧
    (spois c f.a.toNat = false → f.d = 0 → exec (.gset f) s = .next s) ∧
    (spois c f.a.toNat = false → f.d ≠ 0 →
      IssuesTo (.gset f) s (flying { resultFlight f.d.toNat 0 false 1 c with file := .guard, val := v } c)))

/-- The scalar floating instructions (R299 to R302), over the exact values and the one rounding of R98; what an encoding
stands for (R83), and the conditions of R301. -/
def Obligations.ScalarFloatsDeliver : Prop :=
  (∀ (f : SSyl) (s : State), Executes f (cur s) →
    let c := cur s
    let mode := if c.ctl.rmode.toNat = 5 then 0 else c.ctl.rmode.toNat
    let rnd : Rnd := { mode := mode, sat := false, draw := 0, flush := c.ctl.flush }
    let rdn := decide (mode = 3)
    let fmt (k : Nat) : Fmt := [.flt f32, .flt f16, .flt bf16, .int true 32, .int true 64, .int false 32].getD k (.int false 64)
    let two := spois c f.a.toNat || spois c f.b.toNat
    let fly (i : Instr) (r : Nat × FlagSet) (p : Bool) : Prop :=
      IssuesTo i s (flying { resultFlight f.d.toNat (BitVec.ofNat 64 r.1) p 4 c with flags := if p then 0 else r.2 } c)
    let k := bits f.imm 1 0
    let x (n : BitVec 6) : Val := decodeVal (fmt k) (sget c n.toNat).toNat
    ((Instr.fadd f).wf = true → fly (.fadd f) (roundVal (fmt k) rnd (addVal rdn (x f.a) (x f.b))) two) ∧
    ((Instr.fmul f).wf = true → fly (.fmul f) (roundVal (fmt k) rnd (mulVal (x f.a) (x f.b))) two) ∧
    ((Instr.ffma f).wf = true →
      fly (.ffma f) (roundVal (fmt k) rnd (fmaVal rdn (x f.a) (x f.b) (x f.d))) (two || spois c f.d.toNat)) ∧
    ((Instr.fcmp f).wf = true →
      fly (.fcmp f) (if condHolds (bits f.imm 5 2) (x f.a) (x f.b) then 1 else 0,
        if (x f.a).isSig ∨ (x f.b).isSig then flagInv else 0) two) ∧
    ((Instr.fcvt f).wf = true →
      let dst : Nat := bits f.imm 7 4
      let r : Nat × FlagSet := roundVal (fmt dst) rnd (decodeVal (fmt (bits f.imm 3 0)) (sget c f.a.toNat).toNat)
      fly (.fcvt f) (if dst = 3 then signExtended 32 64 r.1 else r.1, r.2)
        (spois c f.a.toNat))) ∧
  (∀ (f : Flt) (r : Rnd) (neg : Bool) (a : Rat) (v : Val), HasExponent f → Rounds r → (neg = true → f.sgn = true) →
    StandsFor v neg a → 0 < a → (∀ u, SpacedBy f a u → FineFor r u v) → RoundsInto f r neg a (roundVal (.flt f) r v)) ∧
  (∀ (signed : Bool) (w : Nat) (r : Rnd) (neg : Bool) (a : Rat) (v : Val), 1 ≤ w → Rounds r → StandsFor v neg a →
    FineFor r 0 v → RoundsToInteger signed w r neg a (roundVal (.int signed w) r v)) ∧
  (∀ (rdn : Bool) (a b c : Val) (x y z : Rat), numberOf a = some x → numberOf b = some y → numberOf c = some z →
    numberOf (addVal rdn a b) = some (x + y) ∧ numberOf (mulVal a b) = some (x * y) ∧
      numberOf (fmaVal rdn a b c) = some (x * y + z)) ∧
  DecodesByFields ∧ ConditionsByTable

/-- SYSR (R140, R343): the registers field by field. -/
def Obligations.SystemRegistersRead : Prop :=
  (∀ (f : SSyl) (s : State), (Instr.sysr f).wf = true → s.slot ≠ 4 → sysReadPriv f.sysNum = true →
    Traps (.sysr f) s .s (plain 0x03)) ∧
  ∀ (f : SSyl) (s : State), (Instr.sysr f).wf = true → Executes f (cur s) →
    (s.slot ≠ 4 → sysReadPriv f.sysNum = false) →
    ∃ v, sysValue s f.sysNum = some v ∧ Delivers (.sysr f) s f.d.toNat (BitVec.ofNat 64 v) false 2

/-- SYSW (R140, R343), register by register; a write of the own context lands as RESULT_LANDING says. That a write of NBV is
taken by its whole 64 bits is the model's choice (log 76). -/
def Obligations.SystemRegistersWrite : Prop :=
  (∀ (i : Instr) (f : SSyl) (s : State), i.wf = true → syswSyllable i = some f → Executes f (cur s) →
    (s.slot ≠ 4 → sysWritePriv f.sysNum = false) → spois (cur s) f.a.toNat = true → Traps i s .s (plain 0x06)) ∧
  (∀ (i : Instr) (f : SSyl) (s : State), i.wf = true → syswSyllable i = some f → Executes f (cur s) →
    (s.slot ≠ 4 → sysWritePriv f.sysNum = false) → spois (cur s) f.a.toNat = false →
    let v := sget (cur s) f.a.toNat
    let n := f.sysNum
    let id := sysTarget s n
    let c := ctxOf s id
    let k := coreOf s s.core
    let onCore (x : Super) : Prop :=
      Answers i s fun t => coreOf t s.core = { k with sup := x } ∧ Frame [] [s.core] [] s t
    (n = 0 ∨ n = 1 → exec i s = .next s) ∧
    (ctlWriter i = some f → id = curId s →
      IssuesTo i s (flying { resultFlight n v false 1 c with file := .sys } c)) ∧
    (ctlWriter i = some f → id ≠ curId s →
      Answers i s fun t => ctxOf t id = { c with ctl := ctlAfter n v.toNat c.ctl } ∧ Frame [id] [] [] s t) ∧
    (n = 0x021 → isTrapped c = true →
      Answers i s fun t => Frame [id] [] [] s t ∧ ctxOf t id =
        { c with pos := { c.pos with sb := BitVec.ofNat 1 (v.toNat / 2 ^ 15), snext := BitVec.ofNat 6 (v.toNat / 2 ^ 8) }
                 ctl := { c.ctl with psv := false } }) ∧
    (n = 0x020 → isTrapped c = true →
      Answers i s fun t => Frame [id] [] [] s t ∧ ctxOf t id =
        { c with pos := { c.pos with
            calls := c.pos.calls.drop (c.pos.calls.length - v.toNat / 2 ^ 8 % 2 ^ 4)
            loops := c.pos.loops.drop (c.pos.loops.length - v.toNat % 2 ^ 3) } }) ∧
    (n = 0x020 ∨ n = 0x021 → isTrapped c = false →
      Answers i s fun t => ctxOf t id = c ∧ Frame [id] [] [] s t) ∧
    (n = 0x030 → onCore { k.sup with trapc := BitVec.ofNat 64 (v.toNat / 2 ^ 48 % 2 ^ 13 * 2 ^ 48 + v.toNat % 2 ^ 8) }) ∧
    (n = 0x031 → onCore { k.sup with trapa := BitVec.ofNat 64 (v.toNat % 2 ^ 57) }) ∧
    (n = 0x032 → onCore { k.sup with
      trapv := BitVec.ofNat 64 (v.toNat / 2 ^ 60 * 2 ^ 60 + v.toNat % 2 ^ 57) }))

/-- SYSW of LCB (R24 to R26) and of TEB (R70). -/
def Obligations.LaunchAndExpectationWrites : Prop :=
  (∀ (f : SSyl) (s : State), (Instr.lcbWrite f).wf = true → Executes f (cur s) → s.slot = 4 →
    spois (cur s) f.a.toNat = false →
    let v := (sget (cur s) f.a.toNat).toNat
    let p := curPart s
    let base := v / 2 ^ 12 % 2 ^ 45 * 2 ^ 12
    let l := { (partAt s p).launch with lcb := BitVec.ofNat 64 (base + v % 2), rings := [], stopped := false }
    (v % 2 = 0 →
      Answers (.lcbWrite f) s fun t => partAt t p = { partAt s p with launch := l } ∧ Frame [] [] [p] s t) ∧
    (∀ s1 blk, v % 2 = 1 → unitRead p base 320 (updLaunch p (fun _ => l) s) = (some blk, s1) →
      let dep := numAt blk 0 8
      let log := numAt blk 8 8
      let fits := 10 ≤ log ∧ log ≤ 24 ∧ dep % 2 ^ 12 = 0 ∧ dep < 2 ^ 57 ∧ numAt blk 16 48 = 0
      Answers (.lcbWrite f) s fun t => (partAt t p).launch.lcb = l.lcb ∧
        (fits → (partAt t p).launch.depBase = dep ∧ (partAt t p).launch.depLog = log) ∧
        (¬fits → (partAt t p).launch.rings = [])) ∧
    (∀ s1 blk, v % 2 = 1 → unitRead p base 320 (updLaunch p (fun _ => l) s) = (some blk, s1) →
      let dep := numAt blk 0 8
      let log := numAt blk 8 8
      10 ≤ log → log ≤ 24 → dep % 2 ^ 12 = 0 → dep < 2 ^ 57 → numAt blk 16 48 = 0 →
      let d (k : Nat) : Nat := numAt blk (64 + 32 * k) 32
      let field (k lo len : Nat) : Nat := d k / 2 ^ lo % 2 ^ len
      let enabled (k : Nat) : Prop := field k 192 1 = 1
      let keeps (k : Nat) : Prop := 6 ≤ field k 195 4 ∧ field k 199 6 = 0 ∧ field k 0 132 = 0
      Answers (.lcbWrite f) s fun t =>
        (∀ k, k < 8 → ¬enabled k ∨ ¬keeps k ∨ (∃ j, j < k ∧ enabled j ∧ field j 186 6 = field k 186 6) →
          (ringOf t p k).served = false) ∧
        (∀ k, k < 8 → (ringOf t p k).served = true → ringOf t p k = { (ringOf t p k) with
          base := field k 199 57, logcap := field k 195 4, prio := field k 193 2, db := field k 186 6
          headAddr := field k 129 57, stamped := none, last := 0 }) ∧
        ∀ k, k < 8 → enabled k → keeps k → (∀ j, j < 8 → enabled j → j = k) →
          let s2 := updLaunch p (fun x => { x with depBase := dep, depLog := log }) s1
          (∀ h s3, unitRead p (field k 129 57) 8 s2 = (some h, s3) →
            (ringOf t p k).served = true ∧ (ringOf t p k).head = BitVec.ofNat 64 (leNat h)) ∧
          (∀ s3, unitRead p (field k 129 57) 8 s2 = (none, s3) → (ringOf t p k).served = false ∧
            t.mem = (logErr p 11 0xFF 0xFFFF k (field k 129 57) 0 s3).mem)) ∧
    (∀ s1, v % 2 = 1 → unitRead p base 320 (updLaunch p (fun _ => l) s) = (none, s1) →
      Answers (.lcbWrite f) s fun t => (partAt t p).launch.lcb = l.lcb ∧ (partAt t p).launch.rings = [])) ∧
  (∀ (f : SSyl) (s : State), (Instr.tebWrite f).wf = true → Executes f (cur s) → s.slot = 4 →
    spois (cur s) f.a.toNat = false →
    let v := sget (cur s) f.a.toNat
    let id := sysTarget s 0x022
    let n := taskNexp s id
    (n = 0 → Answers (.tebWrite f) s fun t =>
      ctxOf t id = { ctxOf s id with expect := [], ctl := { (ctxOf s id).ctl with teb := v } } ∧ Frame [id] [] [] s t) ∧
    (∀ s1, n ≠ 0 → unitRead (curPart s) v.toNat (4 * n) s = (none, s1) → Answers (.tebWrite f) s fun t =>
      (∀ j, ctxOf t j = ctxOf s j) ∧ t.mem = (logErr (curPart s) 11 (id % 5) (logCore s.dev s.core) 0 v.toNat 0 s1).mem) ∧
    (∀ s1 bs, n ≠ 0 → unitRead (curPart s) v.toNat (4 * n) s = (some bs, s1) → bs.length = 4 * n →
      Answers (.tebWrite f) s fun t => (ctxOf t id).ctl.teb = v ∧
        ∀ j, j < n → tget 0 j (ctxOf t id).expect = BitVec.ofNat 32 (leNat ((bs.drop (4 * j)).take 4))))

/-- Control transfers (R142, R283, R284, R285, R333). -/
def Obligations.TransfersAndTheirDelayBundles : Prop :=
  ∀ (f : SSyl) (s : State), inDelay (cur s) = false → gresolved (cur s) f.g.toNat = true →
    let c := cur s
    let p := c.pos
    let base : Nat := if f.b = 0 then p.pc else (sget c f.b.toNat).toNat
    let dest := (((base : Int) + f.imm.toInt) % 2 ^ 64).toNat
    let goes (i : Instr) (x : Option Transfer) (loops : List LoopEnt) (calls : List Nat) : Prop :=
      IssuesTo i s { c with pos := { p with xfer := x, left := 3, loops := loops, calls := calls } }
    let clear3 := nearEnd c 3 = false
    (Executes f c → clear3 → spois c f.b.toNat = false → (Instr.br f).wf = true →
      goes (.br f) (some (.target dest)) p.loops p.calls) ∧
    (Executes f c → clear3 → spois c f.b.toNat = false → p.calls.length < 8 → (Instr.call f).wf = true →
      goes (.call f) (some (.target dest)) p.loops ((p.pc + 3) :: p.calls)) ∧
    (∀ r rest, Executes f c → clear3 → p.calls = r :: rest → (Instr.ret f).wf = true →
      goes (.ret f) (some (.target r)) p.loops rest) ∧
    (∀ e rest, Executes f c → nearEnd c 2 = false → p.loops = e :: rest → (Instr.brk f).wf = true →
      goes (.brk f) (some (.afterLoop e.stop)) rest p.calls) ∧
    (Skips f c → clear3 →
      ((Instr.br f).wf = true → goes (.br f) none p.loops p.calls) ∧
      ((Instr.call f).wf = true → goes (.call f) none p.loops p.calls) ∧
      ((Instr.ret f).wf = true → goes (.ret f) none p.loops p.calls)) ∧
    (Skips f c → nearEnd c 2 = false → (Instr.brk f).wf = true → goes (.brk f) none p.loops p.calls)

/-- Where the transfers trap (R142, R283 to R285, R316, R333). -/
def Obligations.TransfersTrapWhereTheyMustNotStand : Prop :=
  ∀ (f : SSyl) (s : State),
    let c := cur s
    ((inDelay c = true ∨ nearEnd c 3 = true) →
      ((Instr.br f).wf = true → Traps (.br f) s .s (plain 0x01)) ∧
      ((Instr.call f).wf = true → Traps (.call f) s .s (plain 0x01)) ∧
      ((Instr.ret f).wf = true → Traps (.ret f) s .s (plain 0x01))) ∧
    (inDelay c = true ∨ nearEnd c 2 = true → (Instr.brk f).wf = true → Traps (.brk f) s .s (plain 0x01)) ∧
    (nearEnd c 3 = true →
      ((Instr.loop f).wf = true → Traps (.loop f) s .s (plain 0x01)) ∧
      ((Instr.loopi f).wf = true → Traps (.loopi f) s .s (plain 0x01))) ∧
    (Executes f c → inDelay c = false → nearEnd c 3 = false →
      (spois c f.b.toNat = true →
        ((Instr.br f).wf = true → Traps (.br f) s .s (plain 0x06)) ∧
        ((Instr.call f).wf = true → Traps (.call f) s .s (plain 0x06))) ∧
      (spois c f.b.toNat = false → 8 ≤ c.pos.calls.length → (Instr.call f).wf = true →
        Traps (.call f) s .s (plain 0x0D)) ∧
      (c.pos.calls = [] → (Instr.ret f).wf = true → Traps (.ret f) s .s ⟨0x0D, 1, 0⟩) ∧
      (c.pos.loops = [] → (Instr.brk f).wf = true → Traps (.brk f) s .s ⟨0x0C, 1, 0⟩))

/-- LOOP and LOOPI (R314, R315). In a delay or entry bundle the transfer under way stands and the LOOP's own runs beside
it (R142, R315): the clause is the model's reading, log 9 (DEDUCED). -/
def Obligations.LoopsOpenWithTheirCount : Prop :=
  ∀ (i : Instr) (f : SSyl) (s : State) (count : Nat), i.wf = true → Executes f (cur s) →
    let c := cur s
    let p := c.pos
    let last := p.pc + bits f.imm 19 0
    let maxc := bits f.imm 31 20
    (i = .loop f ∧ count = (sget c f.a.toNat).toNat ∨ i = .loopi f ∧ count = maxc) →
    nearEnd c 3 = false → (∀ e ∈ p.loops, last ≤ e.stop) →
    let fits := i = .loop f → count < 2 ^ 32 ∧ spois c f.a.toNat = false ∧ (maxc ≠ 0 → count ≤ maxc)
    let pushed : List LoopEnt := if count = 0 then p.loops else ⟨p.pc + 3, last, count⟩ :: p.loops
    let past := if count = 0 then some (Transfer.target (last + 1)) else none
    let on := if count = 0 then last + 1 else p.pc + 3
    (p.loops.length < 6 → fits → inDelay c = false →
      IssuesTo i s { c with pos := { p with loops := pushed, xfer := past, left := 3 } }) ∧
    (p.loops.length < 6 → fits → inDelay c = true →
      IssuesTo i s { c with pos := { p with loops := pushed, more := p.more ++ [(3, some (.target on))] } }) ∧
    (6 ≤ p.loops.length → fits → Traps i s .s (plain 0x0C)) ∧
    (i = .loop f → 2 ^ 32 ≤ count → Traps i s .s (plain 0x01)) ∧
    (i = .loop f → count < 2 ^ 32 → spois c f.a.toNat = true → Traps i s .s (plain 0x06)) ∧
    (i = .loop f → spois c f.a.toNat = false → maxc ≠ 0 → maxc < count → count < 2 ^ 32 → Traps i s .s (plain 0x05))

/-- The next position (R142, R285, R315, R316). `LastTrips` names the entries popped at a bundle; `more` counts down the
transfers of LOOPs that stand in delay or entry bundles, beside the one under way: the model's reading (log 9, DEDUCED). -/
def Obligations.PositionsFollowLoopsAndTransfers : Prop :=
  ∀ (p : Pos),
    let at_ (pc : Nat) (loops : List LoopEnt) : Pos :=
      { p with
        pc := pc, loops := loops, left := p.left - 1, xfer := if p.left = 1 then none else p.xfer
        more := (p.more.filter fun x => x.1 != 1).map fun x => (x.1 - 1, x.2) }
    let acts : Option Transfer :=
      if p.left = 1 then p.xfer else ((p.more.find? fun x => x.1 == 1).map (·.2)).join
    (∀ b, acts = some (.target b) → nextPos p = at_ b p.loops) ∧
    (∀ stop rest, acts = some (.afterLoop stop) → LastTrips stop p.loops rest →
      ((∀ e ∈ rest.head?, e.stop ≠ stop) → nextPos p = at_ (stop + 1) rest) ∧
      (∀ e es, rest = e :: es → e.stop = stop → 1 < e.count →
        nextPos p = at_ e.start ({ e with count := e.count - 1 } :: es))) ∧
    (∀ rest, acts = none → (∃ e ∈ p.loops.head?, e.stop = p.pc) → LastTrips p.pc p.loops rest →
      ((∀ e ∈ rest.head?, e.stop ≠ p.pc) → nextPos p = at_ (p.pc + 1) rest) ∧
      (∀ e es, rest = e :: es → e.stop = p.pc → 1 < e.count →
        nextPos p = at_ e.start ({ e with count := e.count - 1 } :: es))) ∧
    (acts = none → (∀ e ∈ p.loops.head?, e.stop ≠ p.pc) → nextPos p = at_ (p.pc + 1) p.loops)

/-- NTREQ and TILE_LANDING (R51, R52, R323). -/
def Obligations.TileRequestsDispenseEachIndexOnce : Prop :=
  (∀ (f : SSyl) (s : State) (k : Nat) (x : Task), (Instr.ntreq f).wf = true → Executes f (cur s) → s.slot ≠ 4 →
    (cur s).fly.tiles.length < 16 → (cur s).task = some k → taskOf s (curPart s) k = some x → curId s / 5 = s.core →
    let c := cur s
    let p := curPart s
    let tx := x.record.toNat / 2 ^ 304 % 2 ^ 16
    let ty := x.record.toNat / 2 ^ 288 % 2 ^ 16
    let tz := x.record.toNat / 2 ^ 272 % 2 ^ 16
    let tile (n : Nat) : Nat := n % tx + n / tx % ty * 2 ^ 16 + n / (tx * ty) * 2 ^ 32
    let asks (v : Nat) (n : Option Nat) (y : Task) : Prop :=
      Answers (.ntreq f) s fun t => Frame [curId s] [] [p] s t ∧ taskOf t p k = some y ∧
        ctxOf t (curId s) = { c with
          fly := { c.fly with tiles := c.fly.tiles ++
            [{ val := BitVec.ofNat 64 v, reg := c.ctl.tlNext.toNat, land := c.pos.clk + 40 - 1, index := n }] }
          ctl := { c.ctl with tlNext := c.ctl.tlNext + 1 } }
    (∀ n rest, x.returned = n :: rest → n < tx * ty * tz → asks (tile n) (some n) { x with returned := rest }) ∧
    (x.returned = [] → x.sheaf < tx * ty * tz → asks (tile x.sheaf) (some x.sheaf) { x with sheaf := x.sheaf + 1 }) ∧
    (x.returned = [] → tx * ty * tz ≤ x.sheaf → asks (2 ^ 63) none x)) ∧
  (∀ (f : SSyl) (s : State), (Instr.ntreq f).wf = true → s.slot = 4 → Traps (.ntreq f) s .s (plain 0x01)) ∧
  (∀ (f : SSyl) (s : State), (Instr.ntreq f).wf = true → Executes f (cur s) → s.slot ≠ 4 →
    16 ≤ (cur s).fly.tiles.length → Traps (.ntreq f) s .s (plain 0x04)) ∧
  (∀ (s : State) (id : Nat) (r : TileReq) (rest : List TileReq), (ctxOf s id).fly.tiles = r :: rest →
    r.land < (ctxOf s id).pos.clk →
    Answers (.tileLanding id) s fun t => Frame [id] [] [] s t ∧ ctxOf t id = { ctxOf s id with
      regs := { (ctxOf s id).regs with tl := tset 0 r.reg r.val (ctxOf s id).regs.tl }
      fly := { (ctxOf s id).fly with tiles := rest } })

/-- TRAP with IMM[31] clear (R345), and the boundary causes of one cycle (R250). That TRAP is illegal in a delay bundle is
R345's own check. -/
def Obligations.TrapsAndBoundaryCausesAreTakenInOrder : Prop :=
  (∀ (f : SSyl) (s : State), (Instr.trap f).wf = true → bits f.imm 31 31 = 0 →
    (Executes f (cur s) → inDelay (cur s) = false → s.slot ≠ 4 →
      IssuesTo (.trap f) s { cur s with boundary := (cur s).boundary ++
        [{ cause := 0x0F, slot := s.slot, async := true, fetch := false, detail := 0, va := 0, syl := 15
           val := f.imm.toNat }] }) ∧
    (inDelay (cur s) = true → Traps (.trap f) s .s (plain 0x01)) ∧
    (Executes f (cur s) → inDelay (cur s) = false → s.slot = 4 →
      Answers (.trap f) s fun t => (coreOf t s.core).sup.fenced = true)) ∧
  (∀ (s : State) (id : Nat), id % 5 ≠ 4 → (ctxOf s id).status = .ready → (ctxOf s id).boundary ≠ [] →
    let order : List Nat := [0x09, 0x04, 0x05, 0x0B]
    let place (e : Event) : Nat := if e.cause = 0x0F then 5 else order.findIdx (· == e.cause)
    let t := boundaryTrap id s
    ∃ e e', e ∈ (ctxOf s id).boundary ∧ (∀ x ∈ (ctxOf s id).boundary, place e ≤ place x) ∧ e'.cause = e.cause ∧
      e'.val = e.val ∧ e'.va = bundleVa (ctxOf s id) ∧ e'.async = e.async ∧ (ctxOf t id).boundary = [] ∧
      (∃ l, (coreOf t (id / 5)).sup.events = l ++ [e']) ∧
      (e.cause ≠ 0x09 → (ctxOf t id).event = some e' ∧ isTrapped (ctxOf t id) = true) ∧
      (e.cause = 0x09 → ∀ n x, (ctxOf s id).task = some n → taskOf s (partOfCore s.dev (id / 5)) n = some x →
        x.stage = .bound → (id / 5, id % 5) ∈ x.members → (ctxOf t id).status = .ended ∧
          ∃ y, taskOf t (partOfCore s.dev (id / 5)) n = some y ∧ y.stage = .ending ∧ y.status = 1))

/-- TRAP.hsave, hload, cres and cabn (R193, R255, R388). The supervisor queue's command stands in where the slot has none
(log 21); that hsave in a leaving member's own area writes its tiles and tags is the model's (log 71). -/
def Obligations.SupervisorFunctionsAnswerTheirStatus : Prop :=
  ∀ (f : SSyl) (s : State), Executes f (cur s) → s.slot = 4 → s.core < 256 →
    let c := cur s
    let id := 5 * s.core + f.imm.toNat % 2 ^ 3
    let va := (sget c f.a.toNat).toNat
    let core := bits f.imm 3 3 = 1
    let status (n : Nat) : Flight := resultFlight f.d.toNat (BitVec.ofNat 64 n) false 1 c
    let p := partOfCore s.dev s.core
    let die := dieOfCore s.core
    let leaving := handled s id && onWayOut s id
    ((Instr.trapHsave f).wf = true →
      (huskReady s id = false → IssuesTo (.trapHsave f) s (flying (status 1) c)) ∧
      (huskReady s id = true → va % 4096 ≠ 0 → (ctxOf s id).task = none →
        IssuesTo (.trapHsave f) s (flying (status 2) c)) ∧
      (∀ j y, huskReady s id = true → (ctxOf s id).task = some j → taskOf s p j = some y → (∀ m ∈ y.members, m.2 < 4) →
        let data := huskBytes s id ++ if core then coreStateBytes (coreOf s s.core) (declaredUse s id).1 (declaredUse s id).2
          else []
        va % 4096 ≠ 0 ∨ 2 ^ 57 ≤ va ∨ ((core → (coreOf s s.core).st.ecc = []) ∧ (vwrite p die 66 va data s).1 = false) →
        Answers (.trapHsave f) s fun t => ctxOf t (curId s) = flying (status 2) c ∧
          (y.stage = .preempting → taskOf t p j = some { y with stage := .bound, noVictim := true }) ∧
          (y.stage ≠ .preempting → taskOf t p j = some y ∧ ∀ i, i ≠ curId s → ctxOf t i = ctxOf s i)) ∧
      (∀ s1, huskReady s id = true → va % 4096 = 0 → va < 2 ^ 57 → (core → (coreOf s s.core).st.ecc = []) →
        vwrite p die 66 va (huskBytes s id ++ if core then coreStateBytes (coreOf s s.core) (declaredUse s id).1
          (declaredUse s id).2 else []) s = (true, s1) →
        (leaving = false → Answers (.trapHsave f) s fun t => t.mem = s1.mem ∧
          ctxOf t (curId s) = flying (status 0) c ∧ (id ≠ curId s → ctxOf t id = ctxOf s id)) ∧
        (∀ j y s2, leaving = true → (ctxOf s id).task = some j → taskOf s p j = some y →
          (let own := va = hdrSave y.header + (ctxOf s id).rank * areaSize y.header
          (own → (coreOf s1 s.core).st.ecc = [] ∧ vwrite p die 66 (va + 0x14000 + coreStateSize (fld y.header 104 8) (hdrMxu y.header))
            (tileBytes (coreOf s1 s.core) y.header) s1 = (true, s2)) ∧ (¬own → s2 = s1)) →
          Answers (.trapHsave f) s fun t => t.mem = s2.mem ∧ ctxOf t (curId s) = flying (status 0) c ∧
            isHusked (ctxOf t id) = true ∧ (ctxOf t id).regs = (ctxOf s id).regs ∧ (ctxOf t id).fly = (ctxOf s id).fly))) ∧
    ((Instr.trapHload f).wf = true →
      ((ctxOf s id).task = none ∨ (ctxOf s id).status = .ended →
        IssuesTo (.trapHload f) s (flying (status 1) c)) ∧
      ((ctxOf s id).task ≠ none → (ctxOf s id).status ≠ .ended → va % 4096 ≠ 0 →
        IssuesTo (.trapHload f) s (flying (status 2) c)) ∧
      (∀ s1, (ctxOf s id).task ≠ none → (ctxOf s id).status ≠ .ended →
        vread p die .read 66 va (huskSize + if core then coreStateSize (declaredUse s id).1 (declaredUse s id).2 else 0) s =
          (none, s1) →
        Answers (.trapHload f) s fun t => ctxOf t (curId s) = flying (status 2) c ∧ ∀ i, i ≠ curId s → ctxOf t i = ctxOf s i) ∧
      (∀ s1 s2 h ev, (ctxOf s id).task ≠ none → (ctxOf s id).status ≠ .ended → va % 4096 = 0 → va < 2 ^ 57 →
        let u := declaredUse s id
        vread p die .read 66 va (huskSize + if core then coreStateSize u.1 u.2 else 0) s = (some h, s1) →
        let filled := updCore s.core (huskSems h (huskCtl h).sam)
          (updCtx id (huskCtx h ((ctxOf s1 id).task.bind (taskOf s1 p))) s1)
        vread p die .read 2 (va + 0x9200 + 8 * 28) 24
          (if core then loadCoreState s.core (h.drop huskSize) u.1 u.2 filled else filled) = (some ev, s2) →
        Answers (.trapHload f) s fun t => ctxOf t (curId s) = flying (status 0) c ∧
          (ctxOf t id).regs = { huskRegs h with byp := (ctxOf t id).regs.byp, bypPois := (ctxOf t id).regs.bypPois } ∧ (ctxOf t id).ctl = huskCtl h ∧
          isFrozen (ctxOf t id) = true ∧
          (core → (∀ i tile r, (accTiles u.1)[i]? = some tile → r < 128 →
              (accAt (coreOf t s.core) tile r).toNat = numAt h (huskSize + 65536 * i + 512 * r) 512) ∧
            (u.2 = true →
              let o := huskSize + 65536 * (accTiles u.1).length
              let m := (coreOf t s.core).mx
              m.act.toNat = numAt h (o + 131072) 1 % 2 ∧ ∀ i, i < 16384 →
                (tget latchZero i m.bank0.w).toNat = numAt h (o + 4 * i) 4 ∧
                (tget latchZero i m.bank1.w).toNat = numAt h (o + 65536 + 4 * i) 4)) ∧
          (isTrapped (ctxOf t id) = true ↔ 0 < numAt h 0x92E0 1 ∧ numAt h 0x92E0 1 < 0x20) ∧
          (coreOf t s.core).sup.trapc =
            BitVec.ofNat 64 (numAt ev 0 8 / 2 ^ 48 % 2 ^ 13 * 2 ^ 48 + numAt ev 0 8 % 2 ^ 8) ∧
          (coreOf t s.core).sup.trapa = BitVec.ofNat 64 (numAt ev 8 8 % 2 ^ 57) ∧
          (coreOf t s.core).sup.trapv =
            BitVec.ofNat 64 (numAt ev 16 8 / 2 ^ 60 % 2 ^ 4 * 2 ^ 60 + numAt ev 16 8 % 2 ^ 57))) ∧
    ((Instr.trapCres f).wf = true →
      (faultedCmd s s.core (f.imm.toNat % 2 ^ 3) = none → IssuesTo (.trapCres f) s (flying (status 0) c)) ∧
      (∀ x, faultedCmd s s.core (f.imm.toNat % 2 ^ 3) = some x →
        Answers (.trapCres f) s fun t => Frame [curId s] [s.core] [] s t ∧ ctxOf t (curId s) = flying (status 0) c ∧
          coreOf t s.core = { coreOf s s.core with
            cq := (coreOf s s.core).cq.map fun y => if y.id = x.id then { y with stage := .begun } else y })) ∧
    ((Instr.trapCabn f).wf = true →
      (faultedCmd s s.core (f.imm.toNat % 2 ^ 3) = none → IssuesTo (.trapCabn f) s (flying (status 0) c)) ∧
      (∀ x j y, faultedCmd s s.core (f.imm.toNat % 2 ^ 3) = some x → x.slot = 4 → (ctxOf s id).task = some j →
        taskOf s p j = some y → (∀ m ∈ y.members, m.2 < 4) →
        Answers (.trapCabn f) s fun t => ctxOf t (curId s) = flying (status 0) c ∧
          taskOf t p j = some (if y.stage = .preempting then { y with stage := .bound, noVictim := true } else y) ∧
          ∀ q, (∀ z ∈ (coreOf s s.core).cq, z.id = x.id → z = x) → q ∈ (coreOf t s.core).cq → q.id = x.id →
            q.stage = .abandoned ∧ q.reason = if x.reason = 0 then 1 else x.reason) ∧
      (∀ x, faultedCmd s s.core (f.imm.toNat % 2 ^ 3) = some x → x.slot ≠ 4 →
        Answers (.trapCabn f) s fun t => Frame [curId s] [s.core] [] s t ∧ ctxOf t (curId s) = flying (status 0) c ∧
          coreOf t s.core = { coreOf s s.core with
            cq := (coreOf s s.core).cq.map fun y =>
              match y.stage with
              | .faulted _ =>
                if y.id = x.id then { y with stage := .abandoned, reason := if y.reason = 0 then 1 else y.reason } else y
              | _ => y }))

/-- TRAP.kill and TRAP.cancel (R255, R258), for a task whose members stand in task slots. -/
def Obligations.KillAndCancelEndTheTask : Prop :=
  ∀ (f : SSyl) (s : State) (k : Nat) (x : Task), Executes f (cur s) → s.slot = 4 →
    let c := cur s
    let id := 5 * s.core + f.imm.toNat % 2 ^ 3
    let p := curPart s
    let ends (i : Instr) (status : Nat) : Prop :=
      Answers i s fun t => (taskOf t p k).map (·.stage) = some .ending ∧ (taskOf t p k).map (·.status) = some status ∧
        (ctxOf t (curId s)).fly.flights =
          c.fly.flights ++ [{ resultFlight f.d.toNat 0 false 1 c with seq := c.fly.seq }]
    (ctxOf s id).task = some k → taskOf s p k = some x → (∀ m ∈ x.members, m.2 < 4) →
    ((Instr.trapKill f).wf = true → (x.stage = .bound ∨ x.stage = .preempting) → ends (.trapKill f) 1) ∧
    ((Instr.trapCancel f).wf = true → (x.stage = .bound ∨ x.stage = .preempting) → x.cancelling = false →
      ends (.trapCancel f) 2) ∧
    (x.stage = .ending →
      ((Instr.trapKill f).wf = true → ends (.trapKill f) x.status) ∧
      ((Instr.trapCancel f).wf = true → x.cancelling = false → ends (.trapCancel f) x.status)) ∧
    ((Instr.trapCancel f).wf = true → x.cancelling = true →
      Answers (.trapCancel f) s fun t => (ctxOf t id).status = .ended ∧
        (taskOf t p k).map (·.status) = some (if x.status = 0 then 2 else x.status))

/-- RFT (R49, R256, R259, R334, R398). -/
def Obligations.RftResumesTheContextOfItsEvent : Prop :=
  ∀ (f : SSyl) (s : State), (Instr.rft f).wf = true → Executes f (cur s) → s.slot = 4 →
    let k := coreOf s s.core
    let cause := k.sup.trapc.toNat % 2 ^ 8
    let slot := k.sup.trapc.toNat / 2 ^ 58 % 2 ^ 3
    let id := 5 * s.core + min slot 4
    let c := ctxOf s id
    let husked := isHusked c = true ∧ k.sup.fromHload = false
    let place := (c.pos.codeBase + 64 * c.pos.pc) % 2 ^ 57
    let va := k.sup.trapa.toNat % 2 ^ 57
    let freed (t : State) : Prop := coreOf t s.core = { k with
        sup := { k.sup with trapc := 0, trapa := 0, trapv := 15 <<< 60, fromHload := false }
        sel := (coreOf t s.core).sel } ∧ (coreOf t s.core).sel.cur = 7 ∧ (coreOf t s.core).sel.from_ = now s + 8 ∧
      (ctxOf t (curId s)).status = .unbound
    let resumes (status : Status) (pos : Pos) : Prop :=
      Answers (.rft f) s fun t => Frame [id, curId s] [s.core] [] s t ∧ freed t ∧
        ctxOf t id = { c with status := status, event := none, pos := pos }
    (rftBusy s = true →
      IssuesTo (.rft f) s { cur s with pos := { (cur s).pos with clk := (cur s).pos.clk + 1 } }) ∧
    (rftBusy s = false → cause = 0 → exec (.rft f) s = .next s) ∧
    (rftBusy s = false → 0x20 ≤ cause → isHusked c = false → k.sup.fromHload = false →
      Answers (.rft f) s fun t => Frame [curId s] [s.core] [] s t ∧ freed t) ∧
    (rftBusy s = false → cause ≠ 0 → husked → onWayOut s id = true →
      Answers (.rft f) s fun t => Frame [curId s] [s.core] [] s t ∧ freed t) ∧
    (rftBusy s = false → cause ≠ 0 → slot < 4 →
      (k.sup.fromHload = true ∨ isHusked c = false ∧ cause < 0x20 ∨ husked ∧ onWayOut s id = false) →
      let stands := va = place ∨ (husked ∧ cause = 0x21)
      let frozen (t : Option Bool) (h : Option Wait) := c.status = .trapped t h ∨ c.status = .husked t h
      (frozen none none → stands → resumes .ready c.pos) ∧
      (frozen none none → ¬stands → c.pos.codeBase ≤ va →
        resumes .ready { c.pos with pc := (va - c.pos.codeBase) / 64, xfer := none, left := 0, more := [] }) ∧
      (∀ sent hold, frozen (some sent) hold → c.pos.fresh = false → resumes (.transom sent) c.pos) ∧
      (∀ sent hold, frozen (some sent) hold → c.pos.fresh = true → resumes .ready c.pos) ∧
      (∀ w, frozen none (some w) → stands → resumes (.waiting w true) c.pos) ∧
      (∀ w, frozen none (some w) → ¬stands → c.pos.codeBase ≤ va → resumes (.waiting w true)
        { c.pos with pc := (va - c.pos.codeBase) / 64, xfer := none, left := 0, more := [] }))

/-- SUPERVISOR_EVENT_DISPATCH (R254). That the supervisor starts at bundle 0 of its image is the model's reading
(log 23). -/
def Obligations.EventsReachTheSupervisorInOrder : Prop :=
  ∀ (s : State) (core : Nat) (e : Event) (rest : List Event),
    let k := coreOf s core
    let id := 5 * core + 4
    let c := ctxOf s id
    s.dev.fwUp = true → k.sup.fenced = false → k.sel.cur = 7 → k.sel.sel = 4 → k.sup.trapc.toNat % 2 ^ 8 = 0 →
    k.sup.events = e :: rest →
    e.cause < 2 ^ 8 → e.slot < 2 ^ 3 → e.detail < 2 ^ 8 → e.va < 2 ^ 57 → e.syl < 2 ^ 4 → e.val < 2 ^ 57 →
    Answers (.supervisorEventDispatch core) s fun t => Frame [id] [core] [] s t ∧
      coreOf t core = { k with sup := { k.sup with
        trapc := BitVec.ofNat 64 (e.slot * 2 ^ 58 + e.async.toNat * 2 ^ 57 + e.fetch.toNat * 2 ^ 56 +
          e.detail * 2 ^ 48 + e.cause)
        trapa := BitVec.ofNat 64 e.va, trapv := BitVec.ofNat 64 (e.syl * 2 ^ 60 + e.val)
        events := rest, fromHload := false } } ∧
      ctxOf t id = { c with status := .ready, pos := { c.pos with
        pc := 0, clk := 0, loops := [], calls := [], xfer := none, left := 0, more := [], fresh := false } }

/-- TEND (R344). `aloneIn` reads the marks of the bundle; what is outstanding (R40) is the model's reading in what it says
of logs 11 and 80. -/
def Obligations.TendEndsTheMember : Prop :=
  ∀ (f : SSyl) (s : State), (Instr.tend f).wf = true →
    let c := cur s
    let stray := s.slot = 4 ∨ inDelay c = true ∨ aloneIn s .s = false
    (stray → Traps (.tend f) s .s (plain 0x01)) ∧
    (Executes f c → ¬stray → anyPoison c = true → Traps (.tend f) s .s (plain 0x06)) ∧
    (Executes f c → ¬stray → anyPoison c = false → Outstanding s →
      exec (.tend f) s = .next (takeTrap (curId s) (issueEvent (returnTiles (curId s) s) 0 (plain 0x05))
        (returnTiles (curId s) s))) ∧
    (Executes f c → ¬stray → anyPoison c = false → ¬Outstanding s →
      Answers (.tend f) s fun t => Frame [curId s] [s.core] [] s t ∧ Invoked s t s.core ∧
        ctxOf t (curId s) = { c with status := .ended, pos := { c.pos with
          loops := [], calls := [], inph := false, endSent := false } })

/-- The vector arithmetic, bits, selects, moves and permutes (R346 to R353, R356 to R358): integers in whole numbers, floats by the one rounding of R98. -/
def Obligations.VectorArithmeticDelivers : Prop :=
  ∀ (i : Instr) (s : State) (r : VecRow), i.wf = true → (vecFamily i = some .arith ∨ vecFamily i = some .elemBits ∨ vecFamily i = some .move) → vecRow i (cur s) = some r →
    Answers i s fun t => Frame [curId s] [] [] s t ∧ ElementsFly r (cur s) (ctxOf t (curId s))

/-- The functions of single elements (R94, R95, R99, R100, R104, R354, R361, R365, R367), pinned over the numbers. That
powers and logarithms are held to 256 bits, and their bound here, is the model's reading (log 10, DEDUCED). -/
def Obligations.ElementFunctionsFollowTheirTables : Prop :=
  MinMaxByTable ∧ IntegralByMode ∧ SourcesFlush ∧ ConvertsByTable ∧ RootsExact ∧ PowersClose ∧ SpecialsByTable ∧ GeneratorByRule

/-- Conversions, special functions, draws and scans (R354, R360 to R362, R365, R367, R370); VectorPairsAndReductionsDeliver and ElementFunctionsFollowTheirTables say what their element functions are. The precision of the special functions is the model's reading (log 10), as are VSCAN's products and steps (log 49), the flags of a subnormal that VWID flushes (log 61) and the flags of conversions into e8m0 (log 48), all DEDUCED. -/
def Obligations.VectorConversionsDeliver : Prop :=
  ∀ (i : Instr) (s : State) (r : VecRow), i.wf = true → (vecFamily i = some .convert) → vecRow i (cur s) = some r →
    Answers i s fun t => Frame [curId s] [] [] s t ∧ ElementsFly r (cur s) (ctxOf t (curId s))

/-- Pairs, reductions, bins and scales (R359, R363, R364, R368, R369, R371), with what reductions, ranks, bins and block scales are. That VUNBN's kept destination counts for poison with Z set, a product's first term and SAT, the one step of VRED's generator and the poison of VSCL's C are log 49, and the flags of a quantised integer log 48 (DEDUCED). -/
def Obligations.VectorPairsAndReductionsDeliver : Prop :=
  (∀ (i : Instr) (s : State) (r : PlainRow), i.wf = true → (vecFamily i = some .pair ∨ vecFamily i = some .reduce) → plainRow i (cur s) = some r →
    Answers i s fun t => Frame [curId s] [] [] s t ∧ PlainFly r (cur s) (ctxOf t (curId s))) ∧
  ReducesByRule ∧ RanksByRule ∧ BinsByRule ∧ ScalesByRule

/-- Predicates, scalars and seeds (R325, R326, R355, R357, R366), with the conditions of R355 and the seed and step of R100. -/
def Obligations.PredicatesAndScalarsDeliver : Prop :=
  (∀ (i : Instr) (s : State) (r : PlainRow), i.wf = true → (vecFamily i = some .predicate ∨ vecFamily i = some .scalar) → plainRow i (cur s) = some r →
    Answers i s fun t => Frame [curId s] [] [] s t ∧ PlainFly r (cur s) (ctxOf t (curId s))) ∧
  ConditionsByTable ∧ GeneratorByRule

/-- What the tables of vector instructions leave out traps (R87, R225, R364, R366). -/
def Obligations.VectorOperandsThatTrap : Prop :=
  ∀ (i : Instr) (s : State) (sl : Slot) (w : BitVec 96), i.wf = true → vecFamily i ≠ none → encodeSyl i = some (sl, w) →
    vecRow i (cur s) = none → plainRow i (cur s) = none →
    ((∃ cl f, i = .vrngs cl f ∧ spois (cur s) f.a.toNat = true) → Traps i s sl (plain 0x06)) ∧
    ((∀ cl f, i ≠ .vrngs cl f) → Traps i s sl (plain 0x01))

/-- The LD-slot instructions (R307 to R312). -/
def Obligations.LoadsGoInFlight : Prop :=
  ∀ (i : Instr) (s : State) (kind : LsKind) (sp cmp : Bool) (f : LSyl), i.wf = true →
    loadKind i = some (kind, sp, cmp, f) →
    let c := cur s
    let a := lsAddress f c
    let pois := spois c f.sb.toNat
    let free (l : LoadOp) : Bool := !conflicts (loadClaims c.pos.clk l) (claims s s.core s.slot)
    (∀ x, touched kind (f.am == 1) a = some x → pois = false → ownsRows s f.blk.toNat x →
      let l := loadOf kind false f x c
      let tiles := if cmp then tilesOf f.blk.toNat x else []
      (tagMismatch (coreOf s s.core) c tiles = none → free l = true → IssuesTo i s (loading l tiles c)) ∧
      (tagMismatch (coreOf s s.core) c tiles = none → free l = false → Traps i s .ld (plain 0x0E)) ∧
      (∀ t, tagMismatch (coreOf s s.core) c tiles = some t → Traps i s .ld ⟨0x05, 0, t⟩)) ∧
    (sp = false → pois = true → Traps i s .ld (plain 0x06)) ∧
    (sp = false → pois = false →
      (∀ x, touched kind (f.am == 1) a = some x → ¬ownsRows s f.blk.toNat x) → Traps i s .ld ⟨0x08, 0, a⟩) ∧
    (sp = true → (pois = true ∨ ∀ x, touched kind (f.am == 1) a = some x → ¬ownsRows s f.blk.toNat x) →
      ∃ x, let l := loadOf kind true f x c
        (free l = true → IssuesTo i s (loading l [] c)) ∧ (free l = false → Traps i s .ld (plain 0x0E)))

/-- The SD-slot instructions (R340, R341), and what their stores read at t+n+1. -/
def Obligations.StoresGoInFlight : Prop :=
  (∀ (i : Instr) (s : State) (kind : LsKind) (f : LSyl), i.wf = true → storeKind i = some (kind, f) →
    let c := cur s
    let a := lsAddress f c
    let pois := spois c f.sb.toNat || dataPois kind f c || maskPois kind f c
    let free (w : StoreOp) : Bool := !conflicts (storeClaims c.pos.clk w) (claims s s.core s.slot)
    (∀ x, touched kind (f.am == 1) a = some x → pois = false → ownsRows s f.blk.toNat x →
      let w := storeOf kind f x c
      (free w = true → IssuesTo i s (storing w c)) ∧ (free w = false → Traps i s .sd (plain 0x0E))) ∧
    (pois = true → Traps i s .sd (plain 0x06)) ∧
    (pois = false → (∀ x, touched kind (f.am == 1) a = some x → ¬ownsRows s f.blk.toNat x) →
      Traps i s .sd ⟨0x08, 0, a⟩)) ∧
  (∀ (c : Ctx) (w : StoreOp), w ∈ c.fly.stores → w.data = none →
    let cl := if w.file = .vb ∨ w.file = .pb then 1 else 0
    let mask := pget c (8 * cl + w.mask)
    ∃ d m, { w with data := some (d, m) } ∈ (captureStores c).fly.stores ∧
      (w.kind = .vec → d = vget c (32 * cl + w.reg) ∧ m = mask) ∧
      (w.kind = .zero → d = 0 ∧ m = mask) ∧
      (w.kind = .pred → w.sub < 8 → elemAt 512 d w.sub = (pget c (8 * cl + w.reg)).toNat ∧
        ∀ j, j < 512 → m.getLsbD j = (decide (64 * w.sub ≤ j ∧ j < 64 * w.sub + 64) && mask.getLsbD j)) ∧
      (w.kind = .word → w.sub < 64 → elemAt 64 d w.sub = (sget c w.reg).toNat ∧
        ∀ j, j < 512 → m.getLsbD j = decide (8 * w.sub ≤ j ∧ j < 8 * w.sub + 8)) ∧
      (w.kind = .tag → d.toNat % 2 ^ 16 = (sget c w.reg).toNat % 2 ^ 16))

/-- TIMED_LOAD_ROW_READ and TIMED_STORE_ROW_WRITE (R62): `storedByte` computes the bytes written, and
`rowBefore` is a row as the cycle found it (R66, R201). -/
def Obligations.TimedAccessesReadAndWriteTheirBytes : Prop :=
  (∀ (s : State) (id : Nat) (l : LoadOp), dueRead (ctxOf s id) = some l →
    let k := coreOf s (id / 5)
    let key := 768 * l.blk + l.row
    let reads := l.spec = false ∧ l.kind ≠ .tag
    let column := l.kind = .vec ∧ l.am = true
    (reads → ∀ j w, j < (if column then 16 else 1) → w < 64 → (column → 4 * l.col ≤ w ∧ w < 4 * l.col + 4) →
      tget 0 (64 * (key + j) + w) k.st.ecc = 0) →
    (l.kind = .vec ∨ l.am = false) →
    ∃ d : Row, (Answers (.timedLoadRowRead id) s fun t => Frame [id] [id / 5] [] s t ∧
        coreOf t (id / 5) = { k with st := { k.st with rdUsed := (coreOf t (id / 5)).st.rdUsed } } ∧
        (if reads then key / 768 else l.blk) ∈ (coreOf t (id / 5)).st.rdUsed ∧ ctxOf t id =
        { ctxOf s id with fly := { (ctxOf s id).fly with
          loads := (ctxOf s id).fly.loads.map fun x => if x.seq = l.seq then { x with data := some d } else x } }) ∧
      (l.spec = true → d = 0) ∧
      (l.spec = false → l.kind = .vec → l.am = false → d = rowBefore k key) ∧
      (l.spec = false → l.kind = .vec → l.am = true → l.col < 16 → ∀ j, j < 16 →
        elemAt 256 d j = elemAt 256 (rowBefore k (key + j)) l.col) ∧
      (l.spec = false → l.kind = .pred → d.toNat = elemAt 512 (rowBefore k key) l.sub) ∧
      (l.spec = false → l.kind = .word → d.toNat = elemAt 64 (rowBefore k key) l.sub) ∧
      (l.spec = false → l.kind = .tag → d.toNat = (tget 0 (96 * l.blk + l.row / 8) k.st.tags).toNat)) ∧
  (∀ (s : State) (id : Nat) (w : StoreOp) (d : Row) (m : Pred), dueWrite s id = some w → w.data = some (d, m) →
    let core := id / 5
    (w.am = true → w.col < 16) →
    Answers (.timedStoreRowWrite id) s fun t => Frame [id] [core] [] s t ∧
      ctxOf t id = { ctxOf s id with fly := { (ctxOf s id).fly with
        stores := (ctxOf s id).fly.stores.filter fun x => x.seq != w.seq } } ∧
      (w.kind ≠ .tag → (coreOf t core).st.pubs = (coreOf s core).st.pubs ∧ ∀ key j, j < 512 →
        rowByte (rowAt (coreOf t core) key) j =
          (storedByte w d m key j).getD (rowByte (rowAt (coreOf s core) key) j)) ∧
      (w.kind = .tag → (coreOf t core).st.rows = (coreOf s core).st.rows ∧ w.blk ∈ (coreOf t core).st.wrUsed ∧
        (coreOf t core).st.pubs = (coreOf s core).st.pubs ++
          [{ at_ := now s, ord := 3, tile := 96 * w.blk + w.row / 8, tag := d.setWidth 16 }]) ∧
      (∀ key, rowBefore (coreOf t core) key = rowBefore (coreOf s core) key) ∧
      (w.kind ≠ .tag → w.am = false → ∀ n, n < 64 →
        tget 0 (64 * (768 * w.blk + w.row) + n) (coreOf t core).st.ecc ≠ 1) ∧
      (∀ u ∈ (coreOf t core).semq, u.slot = id % 5 → w.seq ∉ u.stores) ∧
      (coreOf t core).st.acc = (coreOf s core).st.acc ∧ (coreOf t core).st.tags = (coreOf s core).st.tags ∧
      (coreOf t core).sems = (coreOf s core).sems)

/-- RESULT_LANDING (R74, R107, R222). -/
def Obligations.ResultsLandInTheirRegister : Prop :=
  (∀ (s : State) (id : Nat) (f : Flight), dueLanding (ctxOf s id) = some f → f.reg < 64 →
    (f.file = .va ∨ f.file = .vb → f.reg < 32) → (f.file = .pa ∨ f.file = .pb → f.reg < 8) →
    Answers (.resultLanding id) s fun t => Frame [id] [] [] s t ∧ Lands f (ctxOf s id) (ctxOf t id)) ∧
  (∀ (c : Ctx) (f g : Flight), dueLanding c = some f → f.seq < 2 ^ 64 → g.seq < 2 ^ 64 → g ∈ c.fly.flights → g.land < c.pos.clk →
    f.land < g.land ∨ f.land = g.land ∧
      (f.file = .sys ∧ g.file ≠ .sys ∨ (f.file = .sys ↔ g.file = .sys) ∧ f.seq ≤ g.seq))

/-- The M-slot instructions at issue (R153, R320). -/
def Obligations.MatrixCommandsQueue : Prop :=
  ∀ (i : Instr) (s : State) (kind : MKind) (h : EHdr) (o : MOp), i.wf = true → matrixSyllable i = some (kind, h, o) →
    let m := matrixCommand kind h o s
    (matrixCause m s = none →
      Answers i s fun t => Frame [] [s.core] [] s t ∧ t.ids = s.ids + 1 ∧ t.free = s.free ∧
        coreOf t s.core = { coreOf s s.core with mq := (coreOf s s.core).mq ++ [m] }) ∧
    (∀ x, matrixCause m s = some x → ∃ v, Traps i s .m ⟨x, 0, v⟩)

/-- The CP-slot instructions at issue (R170, R277). That an AMO.cas whose second word lies beyond its row is illegal is the
model's reading (log 16, DEDUCED). -/
def Obligations.CopyCommandsQueue : Prop :=
  ∀ (i : Instr) (s : State) (kind : CKind) (h : EHdr) (o : COp), i.wf = true → copySyllable i = some (kind, h, o) →
    let c := copyCommand kind h o s
    (copyCause c s = none → copyQueueFull s = false →
      Answers i s fun t => Frame [] [s.core] [] s t ∧ t.ids = s.ids + 1 ∧ t.free = s.free ∧
        coreOf t s.core = { coreOf s s.core with cq := (coreOf s s.core).cq ++ [c] }) ∧
    (copyCause c s = none → copyQueueFull s = true →
      Answers i s fun t => Frame [curId s] [s.core] [] s t ∧ Invoked s t s.core ∧
        ctxOf t (curId s) = { cur s with status := .waiting .queue false }) ∧
    (∀ x, copyCause c s = some x → ∃ v, Traps i s .cp ⟨x, 0, v⟩)

/-- TIMED_COMMAND_BEGIN of a matrix command (R54, R159). The rows are read without an error standing in them. The SYL of a
noted event (log 14) and the rows that count as in flight (log 84) are the model's readings (DEDUCED). -/
def Obligations.MatrixCommandsBegin : Prop :=
  ∀ (s : State) (core : Nat) (m : MCmd), m.id ∈ dueTimed s core ∨ m.id ∈ discardDue s core →
    m ∈ (coreOf s core).mq → m.slot < 5 →
    (∀ x ∈ (coreOf s core).mq, x.id = m.id → x = m) →
    let k := coreOf s core
    let id := ctxId core m.slot
    let c := ctxOf s id
    let w := m.h.wsem.toNat
    let reason := tget 0 w c.reasons
    let head := k.mq.head? = some m
    let guard := gget c m.h.g.toNat ≠ (m.h.gn == 1)
    let left := k.mq.filter fun x => x.id != m.id
    let begin_ : Instr := .timedCommandBegin core m.id
    let notes (r : Raise) (l : Sparse Nat) : Prop :=
      Answers begin_ s fun t => Frame [id] [core] [] s t ∧ coreOf t core = { k with mq := left } ∧
        ctxOf t id = { c with boundary := c.boundary ++ [beginEvent s core m.slot 5 r], reasons := l }
    (¬head ∨ gresolved c m.h.g.toNat = false → notes ⟨0x04, 0, m.bundle⟩ c.reasons) ∧
    (head → gresolved c m.h.g.toNat = true → ¬guard →
      Answers begin_ s fun t => Frame [] [core] [] s t ∧ coreOf t core = { k with
        mq := left, semq := signalled s m.slot m.h.ssem.toNat m.h.inc.toNat (now s) .mEngine k.semq }) ∧
    (head → gresolved c m.h.g.toNat = true → guard →
      (w ≠ 0 → reason ≠ 0 →
        notes ⟨if reason = 3 then 0x0A else 0x10, reason, w⟩ (tset 0 w 0 c.reasons)) ∧
      (w = 0 ∨ reason = 0 →
        (semOk k w m.h.wthr.toNat = false ∨ ¬EngineFree s core m → notes ⟨0x04, 0, m.bundle⟩ c.reasons) ∧
        (semOk k w m.h.wthr.toNat = true → EngineFree s core m →
          (∀ x, tagMismatch k c m.tilesRead = some x → notes ⟨0x04, 0, x⟩ c.reasons) ∧
          (tagMismatch k c m.tilesRead = none → ¬kindsAgree s core m → notes ⟨0x05, 0, m.bundle⟩ c.reasons) ∧
          (tagMismatch k c m.tilesRead = none → kindsAgree s core m → k.st.ecc = [] →
            Answers begin_ s fun t => Frame [id] [core] [] s t ∧ (coreOf t core).mq = left ∧
              (coreOf t core).semq = k.semq ∧ (coreOf t core).mx = k.mx ∧
              (coreOf t core).st = { k.st with rdUsed := (coreOf t core).st.rdUsed } ∧
              (m.kind = .mdrc → m.rc ≠ 0 → ∃ q ∈ (coreOf t core).cq, q.id = m.id ∧ q.kind = .mdrc ∧ q.slot = m.slot) ∧
              (coreOf t core).mrun.length = k.mrun.length + 1 ∧
              ctxOf t id = noteCompared m.tilesRead c ∧
              ∃ r ∈ (coreOf t core).mrun, r.cmd = m ∧ r.start = now s ∧ r.doff = k.mx.doff ∧ r.bw = k.mx.bw ∧
                (m.kind = .mma → r.bank = if k.mx.act = 0 then k.mx.bank0 else k.mx.bank1)))))

/-- MATRIX_COMMAND_COMPLETION (R158), and the reads and writes of running commands cycle by cycle (R160 to R167). SUBST only
where a product forms (log 15), the flags of integer elements under QS (log 48) and a drained row on ba5 and bb5 of every
context of the core (log 75) are the model's readings (DEDUCED). -/
def Obligations.MatrixCommandsComplete : Prop :=
  (∀ (s : State) (core : Nat) (r : MRun) (before after : List MRun),
    (coreOf s core).mrun = before ++ r :: after → (∀ x ∈ before, now s < x.start + x.cmd.done) →
    r.start + r.cmd.done ≤ now s →
    let k := coreOf s core
    let m := r.cmd
    let id := ctxId core m.slot
    let left := k.mrun.filter fun x => x.cmd.id != m.id
    (m.kind = .mdrc → m.rc ≠ 0 → Answers (.matrixCommandCompletion core) s fun t => Frame [] [core] [] s t ∧
      coreOf t core = { k with mrun := left }) ∧
    ((m.kind = .mdrc → m.rc = 0) → Answers (.matrixCommandCompletion core) s fun t => Frame [id] [core] [] s t ∧
      (coreOf t core).mrun = left ∧ (coreOf t core).mq = k.mq ∧
      (coreOf t core).semq = signalled s m.slot m.h.ssem.toNat m.h.inc.toNat (now s) .mEngine k.semq ∧
      (coreOf t core).st = { k.st with pubs := k.st.pubs ++
        if m.kind = .mdrn ∧ m.pub = true then (drainTiles m).map fun x => ⟨now s, 0, x, BitVec.ofNat 16 (fld m.b 48 16)⟩
        else [] } ∧
      (m.slot < 5 → ctxOf t id = let c := ctxOf s id; { c with late := { c.late with
        flags := c.late.flags ||| (matrixFlags r).1, subst := c.late.subst ||| (matrixFlags r).2 } }) ∧
      (m.kind ≠ .mlw → (coreOf t core).mx = k.mx) ∧
      (m.kind = .mlw → m.kv ≤ 128 → m.nv ≤ 128 →
        let x := (coreOf t core).mx
        let idle := if x.act = 0 then x.bank1 else x.bank0
        x = (if k.mx.act = 0 then { k.mx with bank1 := idle } else { k.mx with bank0 := idle }) ∧
          idle.kv = fld m.b 0 8 ∧ idle.nv = fld m.b 8 8 ∧ idle.fmt.toNat = fld m.b 16 6 ∧
          ∀ i n, n < 128 → tget 0x7F0000 (128 * i + n) idle.w =
            if i < m.kv ∧ n < m.nv then m.latchWord r.reads i n else 0x7F0000))) ∧
  (∀ (s : State) (core : Nat) (r : MRun),
    let k := coreOf s core
    let m := r.cmd
    let t := runWrite core r s
    let rows := fld m.b 16 7
    (m.kind = .mwsw → now s = r.start → coreOf t core = { k with mx := { k.mx with act := k.mx.act ^^^ 1 } }) ∧
    (m.kind = .mmsk → now s = r.start →
      coreOf t core = { k with mx := { k.mx with doff := BitVec.ofNat 8 (fld m.b 0 8), bw := BitVec.ofNat 8 (fld m.b 8 8) } }) ∧
    (m.kind = .mclr → now s = r.start + 1 → rows + fld m.b 0 8 ≤ 128 → ∀ tile row, row < 128 → tile < 8 →
      accAt (coreOf t core) tile row =
        if tile = m.o.acc.toNat ∧ rows ≤ row ∧ row < rows + fld m.b 0 8 then 0 else accAt k tile row) ∧
    (m.kind = .mma → m.mrows ≠ 0 → now s = r.start + 23 + m.feed → rows + m.mrows ≤ 128 → k.st.ecc = [] ∨ m.o.clr = 1 →
      (∀ tile row n, row < 128 → tile < 8 → n < 128 →
        let old := elemAt 32 (accAt k tile row) n
        elemAt 32 (accAt (coreOf t core) tile row) n =
          if tile = m.o.acc.toNat ∧ rows ≤ row ∧ row < rows + m.mrows ∧ n < r.bank.nv then
            (mmaResult r (row - rows) n old).1 % 2 ^ 32
          else old) ∧
      (∀ x ∈ k.mrun, x.cmd.id = m.id → r.bank.nv ≤ 128 → { x with
        subst := mmaSubst r
        flags := flagIf (mmaSubst r != 0) flagSubst ||| flagsUnion ((List.range m.mrows).flatMap fun i =>
          (List.range r.bank.nv).map fun n => (mmaResult r i n (elemAt 32 (accAt k m.o.acc.toNat (rows + i)) n)).2) } ∈
        (coreOf t core).mrun)) ∧
    (∀ dst c, m.kind = .mdrn → m.rc ≠ 0 → m.rc ≤ 128 → r.rows.length = m.rc →
      fmtOfCode m.num.fm m.o.fr.toNat (fld m.b 8 6) = some dst → dst.container = c →
      let place (j : Nat) : Nat := 768 * m.o.blk.toNat + (m.a.toNat + j)
      let tile (i : Nat) : Row := (r.rows[i]?).getD 0
      let writes (j : Nat) : Prop :=
        (∀ key, key ≠ place j → rowAt (coreOf t core) key = rowAt k key) ∧ (coreOf t core).mx = k.mx ∧
          ∀ sl, sl < 5 → tget 0 5 (ctxOf t (ctxId core sl)).regs.byp = rowAt (coreOf t core) (place j) ∧
            tget 0 13 (ctxOf t (ctxId core sl)).regs.byp = rowAt (coreOf t core) (place j)
      let last := (m.rc * c + 31) / 32
      (∀ j, j < last → now s = r.start + 11 + min m.rc ((j + 1) * (32 / c)) →
        writes j ∧ ∀ q, q < 4096 / c →
          let i := j * (32 / c) + q / 128
          elemAt c (rowAt (coreOf t core) (place j)) q =
            if i < m.rc then (drainElement m dst (tile i) (q % 128)).1 % 2 ^ c else elemAt c (rowAt k (place j)) q) ∧
      (fld m.b 23 1 = 1 → now s = r.start + 12 + m.rc →
        writes last ∧ ∀ b, b < 512 → elemAt 8 (rowAt (coreOf t core) (place last)) b =
          if b / 4 < m.rc then drainScale m dst (tile (b / 4)) (b % 4) else 0))) ∧
  (∀ (s : State) (core : Nat) (r : MRun),
    let k := coreOf s core
    let m := r.cmd
    let t := runRead core r s
    k.st.ecc = [] →
    (r.reads.length < m.nread → r.start + r.reads.length ≤ now s → ∀ x ∈ k.mrun, x.cmd.id = m.id →
      { x with reads := x.reads ++ [rowBefore k (768 * m.o.blk.toNat + (m.a.toNat + r.reads.length))] } ∈
        (coreOf t core).mrun) ∧
    (m.kind = .mdrn ∨ m.kind = .mdrc → r.rows.length < m.rc → r.start + r.rows.length ≤ now s →
      ∀ x ∈ k.mrun, x.cmd.id = m.id →
        { x with rows := x.rows ++ [accAt k m.o.acc.toNat (fld m.b 16 7 + r.rows.length)] } ∈ (coreOf t core).mrun))

/-- UNTIMED_COMMAND_BEGIN and TIMED_COMMAND_BEGIN of a copy-engine command (R54, R55). That an untimed command begins no
earlier than the cycle after its issue (log 40), the timing fault of a timed stream whose slot is loading (log 47) and the
SYL of its event (log 14) are the model's. Rows are read without an error standing in them. -/
def Obligations.CopyCommandsBegin : Prop :=
  ∀ (s : State) (core : Nat) (c : Cmd), cmdOf s core c.id = some c → c.stage = .queued → c.slot < 5 →
    (∀ x ∈ (coreOf s core).mq, x.id ≠ c.id) → (coreOf s core).st.ecc = [] →
    let k := coreOf s core
    let p := partOfCore s.dev core
    let id := ctxId core c.slot
    let x := ctxOf s id
    let w := c.h.wsem.toNat
    let reason := tget 0 w x.reasons
    let timed := c.h.start ≠ 0x3FFF
    let done := (k.cq.find? fun q => q.slot == c.slot).map (·.id) = some c.id
    let first := (k.cq.find? fun q => q.slot == c.slot && q.stage == .queued).map (·.id) = some c.id
    let known := gresolved x c.h.g.toNat = true
    let guard := gget x c.h.g.toNat ≠ (c.h.gn == 1)
    let ready := semOk k w c.h.wthr.toNat = true ∧ c.fences = [] ∧ slotFree s core c = true
    let tag := tagMismatch k x ((c.srcLeft.map fun r => 96 * r.1 + r.2 / 8).eraseDups)
    let left := k.cq.filter fun q => q.id != c.id
    let drops (i : Instr) : Prop := Answers i s fun t => Frame [] [core] [] s t ∧ coreOf t core = { k with
      cq := left, semq := signalled s c.slot c.h.ssem.toNat c.h.inc.toNat (now s) (.cpEngine c.slot) k.semq }
    let notes (i : Instr) (r : Raise) (l : Sparse Nat) : Prop :=
      Answers i s fun t => Frame [id] [core] [] s t ∧ coreOf t core = { k with cq := left } ∧
        ctxOf t id = { x with boundary := x.boundary ++ [beginEvent s core c.slot 6 r], reasons := l }
    let begins (i : Instr) : Prop := Answers i s fun t => Frame [id] [core] [p] s t ∧
      (coreOf t core).cq.filter (fun q => q.id != c.id) = left ∧ (coreOf t core).semq = k.semq ∧
      (coreOf t core).st = { k.st with rdUsed := (coreOf t core).st.rdUsed } ∧ (coreOf t core).mq = k.mq ∧
      (ctxOf t id).regs = x.regs ∧ (ctxOf t id).reasons = x.reasons ∧ (ctxOf t id).boundary = x.boundary ∧
      ∃ y, cmdOf t core c.id = some y ∧ y.stage = .begun ∧ y.start = now s ∧ y.a = c.a ∧ y.b = c.b ∧ y.c = c.c ∧
        y.shape = c.shape ∧ y.h = c.h ∧ y.o = c.o ∧ y.num = c.num ∧
        (c.streams = true → originNull c.b = false → graphIn s p c.gslot = [] → y.reason = 4) ∧
        (c.streams = true → originNull c.b = false → graphIn s p c.gslot = c.graph → c.graph ≠ [] →
          y.reason = c.reason ∧ y.graph = c.graph) ∧
        (c.streams = false → y.reason = c.reason) ∧
        (c.kind = .strm → slotLoading t p c.o.gsub.toNat = true)
    let reasonCause_ : Nat := if reason = 3 then 0x0A else 0x10
    (¬timed ∨ c.kind = .mdrc → first → c.wake < now s → known →
      (¬guard → drops (.untimedCommandBegin core c.id)) ∧
      (guard → w ≠ 0 → reason ≠ 0 →
        notes (.untimedCommandBegin core c.id) ⟨reasonCause_, reason, w⟩ (tset 0 w 0 x.reasons)) ∧
      (guard → w = 0 ∨ reason = 0 → ready → begins (.untimedCommandBegin core c.id))) ∧
    (timed → c.id ∈ dueTimed s core ∨ c.id ∈ discardDue s core →
      let i : Instr := .timedCommandBegin core c.id
      (¬first ∨ ¬known → notes i ⟨0x04, 0, c.bundle⟩ x.reasons) ∧
      (first → known → ¬guard → drops i) ∧
      (first → known → guard → ¬done → notes i ⟨0x04, 0, c.bundle⟩ x.reasons) ∧
      (first → known → guard → done → w ≠ 0 → reason ≠ 0 →
        notes i ⟨reasonCause_, reason, w⟩ (tset 0 w 0 x.reasons)) ∧
      (first → known → guard → done → w = 0 ∨ reason = 0 →
        (¬ready → notes i ⟨0x04, 0, c.bundle⟩ x.reasons) ∧
        (∀ y, ready → tag = some y → notes i ⟨0x04, 0, y⟩ x.reasons) ∧ (ready → tag = none → begins i)))

/-- COPY_COMMAND_COMPLETION, STRM_GRAPH_REPLACE and the gateway (R176, R188, R236, R291). The cycle of a signal (log 40) and
the refusal of a destination whose rows hold an uncorrectable error (log 65) are the model's readings (DEDUCED). -/
def Obligations.CopyCommandsComplete : Prop :=
  (∀ (s : State) (core : Nat) (c : Cmd), cmdOf s core c.id = some c → c.slot < 5 →
    let k := coreOf s core
    let p := partOfCore s.dev core
    let id := ctxId core c.slot
    let x := ctxOf s id
    let ended := c.rel = none ∧ c.wake ≤ now s ∧ (∀ q ∈ k.pkts, q.cmd ≠ c.id) ∧ c.wq = [] ∧
      (c.stage = .abandoned ∨ c.stage = .begun ∧ (∃ n, c.total = some n ∧ n ≤ c.next) ∧ (c.filled = true ∨ c.reason ≠ 0))
    let delivers := (c.kind = .cpx ∨ c.kind = .cpmc) ∧ c.stage = .begun ∧ c.total.isSome = true ∧ c.sent = false ∧
      c.rel = none ∧ c.wake ≤ now s
    let completion : Instr := .copyCommandCompletion core c.id
    let shapes := if c.kind = .shpl then
        x.late.shapes ++ [(c.o.sh.toNat, BitVec.ofNat 512 (elemAt 512 (c.src.headD 0) (fld c.a 13 3)))]
      else x.late.shapes
    (ended → ¬delivers → Answers completion s fun t => Frame [id] [core] [p] s t ∧
      (coreOf t core).cq = k.cq.filter (fun q => q.id != c.id) ∧
      (coreOf t core).st = { k.st with pubs := k.st.pubs ++
        if (c.kind = .cpg ∧ fld c.shape 365 1 = 1 ∧ c.reason = 0 ∧ c.stage = .begun) then
          (c.tilesCovered.map fun y => ⟨now s, 1, y, BitVec.ofNat 16 (fld c.shape 366 16)⟩)
        else [] } ∧
      (coreOf t core).semq = (if c.reason = 0 then
        signalled s c.slot c.h.ssem.toNat c.h.inc.toNat (if c.kind = .shpl then now s else now s + 1)
          (if c.kind = .mdrc then .mEngine else .cpEngine c.slot) k.semq
        else k.semq) ∧
      ctxOf t id = { x with
        reasons := if c.reason = 0 ∨ c.h.ssem = 0 ∨ tget 0 c.h.ssem.toNat x.reasons ≠ 0 then x.reasons
          else tset 0 c.h.ssem.toNat c.reason x.reasons
        late := { flags := x.late.flags ||| c.flags, subst := x.late.subst ||| c.subst, shapes := shapes } } ∧
      (c.kind = .strm → slotLoading t p c.o.gsub.toNat = false) ∧
      (c.o.acq = 1 → (partAt t p).memory.peer = acquired s c.o.agent.toNat c.o.store (partAt s p).memory.peer)) ∧
    (replaceReady s core c = true → c.record ≠ [] →
      Answers (.strmGraphReplace core c.id) s fun t => Frame [] [core] [p] s t ∧
        graphIn t p c.o.gsub.toNat = c.record ∧ (∀ j, j ≠ c.o.gsub.toNat → graphIn t p j = graphIn s p j) ∧
        (coreOf t core).st = k.st ∧ (coreOf t core).semq = k.semq) ∧
    (delivers → (∀ q ∈ k.cq, q.id = c.id → q = c) →
      let got (l : Nat) : Option (Nat × Nat) :=
        (physCore s.dev p l).bind fun dst => (accepts s x.task dst c.b).map fun sl => (dst, sl)
      let sent (j : Nat) : List Delivery := (deliveryTargets c).filterMap fun l =>
        ((got l).filter fun d => d.1 == j).map fun d =>
          { src := core, cmd := c.id, slot := d.2, word := c.b, rows := deliveryRows c }
      let lost := ((deliveryTargets c).filter fun l => (got l).isNone).map (2 ^ ·)
      Answers completion s fun t => Frame [] (core :: (deliveryTargets c).filterMap (physCore s.dev p)) [] s t ∧
        ∀ j, coreOf t j = { coreOf s j with
          gw := (coreOf s j).gw ++ sent j
          cq := if j = core then k.cq.map fun q => if q.id = c.id then { c with sent := true, failed := lost.sum } else q
            else (coreOf s j).cq })) ∧
  (∀ (s : State) (task : Option Nat) (dst : Nat) (w : W64),
    (∀ sl, accepts s task dst w = some sl → sl < 4 ∧ takesDelivery s task dst w sl ∧
      ∀ j, j < sl → ¬takesDelivery s task dst w j) ∧
    (accepts s task dst w = none → ∀ sl, sl < 4 → ¬takesDelivery s task dst w sl)) ∧
  (∀ (s : State) (dst : Nat) (d : Delivery) (i : Nat) (v : Row) (rest : List (Nat × Row)), d.rows = (i, v) :: rest →
    let k := coreOf s dst
    let b := fld d.word 10 3
    let row (j : Nat) : Nat := fld d.word 0 10 + j
    let tile (j : Nat) : Nat := 96 * b + row j / 8
    let free_ := gwLane b ∉ k.lanes ∧ b ∉ k.st.wrUsed ∧ b ∉ k.st.scrubs
    let t := gwWrite dst d s
    (¬free_ → t = s) ∧
    (free_ → Frame [] [dst] [] s t ∧
      (∀ key, rowAt (coreOf t dst) key = if key = 768 * b + row i then v else rowAt k key) ∧
      (coreOf t dst).gw = k.gw.map (fun x => if x.src = d.src ∧ x.cmd = d.cmd then { x with rows := rest } else x) ∧
      (coreOf t dst).semq = k.semq ∧
      (coreOf t dst).st.pubs = k.st.pubs ++
        if fld d.word 47 1 = 1 ∧ (∀ q ∈ rest, tile q.1 ≠ tile i) then
          [⟨now s + 1, 2, tile i, BitVec.ofNat 16 (fld d.word 48 16)⟩]
        else [])) ∧
  (∀ (s : State) (dst : Nat) (d : Delivery), ((coreOf s dst).gw.filter fun x => x.rows.isEmpty) = [d] →
    let t := gwDone dst s
    Frame [] [dst] [] s t ∧ (coreOf t dst).gw = (coreOf s dst).gw.filter (fun x => !x.rows.isEmpty) ∧
      (coreOf t dst).semq =
        signalled s d.slot (fld d.word 32 8) (fld d.word 40 4) (now s + 2) (.gateway d.src) (coreOf s dst).semq) ∧
  (∀ (s : State) (core : Nat) (c : Cmd), c ∈ (coreOf s core).cq → ((coreOf s core).cq.map (·.id)).Nodup →
    c.sent = true → c.filled = false →
    let away := ∃ dst ∈ partCores s.dev (partOfCore s.dev core), ∃ d ∈ (coreOf s dst).gw, d.src = core ∧ d.cmd = c.id
    let t := settleDeliveries core s
    (away → cmdOf t core c.id = some c) ∧
    (¬away → ∃ y, cmdOf t core c.id = some y ∧ y.filled = true ∧ y.wake = now s + 3 ∧
      y.reason = (if c.failed = 0 then c.reason else 6) ∧
      ∀ n, awaited y.wq n =
        let lo := 8 * fld c.c 0 9
        if c.failed ≠ 0 ∧ c.kind = .cpmc ∧ lo ≤ n ∧ n < lo + 256 ∧ n < 4096 then some (bitAt c.failed (n - lo))
        else awaited c.wq n))

/-- PACKET_ISSUE (R169, R175, R191 to R195, R373), and the packets of a walk (R173, R289, R290). That a PFT and an INVP issue
with no packet entry (log 68) and which adds the host takes (log 18) are the model's readings (DEDUCED). -/
def Obligations.PacketsIssueOrFault : Prop :=
  (∀ (s : State) (core : Nat) (c : Cmd), nextIssue s core = some c → cmdOf s core c.id = some c →
    (c.isRecord c.next = true → c.reason = 0) →
    let k := coreOf s core
    let p := partOfCore s.dev core
    let issue : Instr := .packetIssue core
    let skips := c.kind = .pft ∨ c.kind = .invp
    let ahead := unheld s core c
    let i := ahead.getD c.next
    let others (t : State) : Prop := (coreOf t core).cq.filter (fun q => q.id != c.id) = k.cq.filter fun q => q.id != c.id
    let event : Event :=
      { cause := 0x20, slot := c.slot, async := true, fetch := false, detail := 0
        va := bundleVa (ctxOf s (ctxId core c.slot)), syl := 15, val := c.faultVa i }
    let stops : Prop := ¬skips → Answers issue s fun t => Frame [] [core] [] s t ∧ (coreOf t core).pkts = k.pkts ∧
      others t ∧ cmdOf t core c.id = some { c with
        stage := .faulted (c.faultVa i), held := []
        next := if c.kind = .vamo ∨ c.kind = .strm ∨ (c.streams = true ∧ gOrdered c.graph = true) then 0 else c.next } ∧
      (coreOf t core).sup.events = k.sup.events ++ [event]
    let skip : Prop := skips → Answers issue s fun t => Frame [] [core] [p] s t ∧ (coreOf t core).pkts = k.pkts ∧
      others t ∧ cmdOf t core c.id = some { c with next := c.next + 1 }
    (∀ j, ahead = some j → (c.kind = .vamo ∨ (c.streams = true ∧ gOrdered c.graph = true)) ∧ c.next = 0) ∧
    (c.packetVa i = none → stops ∧ skip) ∧
    (∀ va, c.packetVa i = some va → leafOf s core c va = none →
      Answers issue s fun t => Frame [] [] [p] s t ∧
        (partAt t p).memory.walks = (partAt s p).memory.walks ++ [(dieOfCore core, va / 65536)] ∧
        (partAt t p).launch = (partAt s p).launch ∧ (partAt t p).host = (partAt s p).host) ∧
    (∀ va l, c.packetVa i = some va → leafOf s core c va = some l → l.pte.getLsbD 8 = true →
      Answers issue s fun t => Frame [] [] [p] s t ∧
        (partAt t p).memory.expanding = (partAt s p).memory.expanding ++ [leafPage l va]) ∧
    (∀ va l, c.packetVa i = some va → leafOf s core c va = some l → l.pte.getLsbD 8 = false →
      let pa := pteFrame l.pte + va % pageSize l.level
      skip ∧ (¬Permits s core c i va l → stops) ∧
      (Permits s core c i va l → ¬skips → ahead.isSome = true →
        Answers issue s fun t => Frame [] [core] [] s t ∧ (coreOf t core).pkts = k.pkts ∧ others t ∧
          cmdOf t core c.id = some { c with held := c.held ++ [⟨dieOfCore core, va / 65536, l.level, l.pte, l.home⟩] }) ∧
      (Permits s core c i va l → ¬skips → ahead = none →
        Answers issue s fun t => Frame [] [core] [p] s t ∧ others t ∧ (coreOf t core).pktAt = now s + 1 ∧
          cmdOf t core c.id = some { c with
            next := c.next + 1, got := if c.kind = .strm ∧ c.next = 0 then [] else c.got } ∧
          ∃ x, (coreOf t core).pkts = k.pkts ++ [x] ∧ x.cmd = c.id ∧ x.slot = c.slot ∧ x.idx = c.next ∧ x.va = va ∧
            x.pa = pa ∧ x.dest = destOf s p l.pte pa ∧ x.mode = fld l.pte 6 2 ∧ x.acc = c.packetAcc c.next ∧
            x.issued = now s ∧ x.bad = 0 ∧ x.port = none ∧
            x.wr = c.packetOut c.next ((c.plans[c.next]?).getD ⟨0, []⟩) ∧
            (fld l.pte 6 2 ≠ 2 ∨ x.acc ≠ 0 → x.stage = .issued ∧ x.rd = []) ∧
            (x.acc ≠ 0 → x.mode = 2 ∨ x.acc = 2 → pa < 2 ^ 57 - 2 ^ 16 → ∀ fa q, x.dest = .peer fa q →
              ∀ y ∈ (partAt t p).memory.peer, ¬(y.fa = fa ∧ y.part = q ∧ y.granule = pa / 256))))) ∧
  (∀ (s : State) (p va : Nat) (l : Leaf), walk s p va = some l → fld l.pte 0 1 = 1 ∧ fld l.pte 1 1 = 1) ∧
  (∀ (c : Cmd), walks c.kind →
    (∀ (i : Nat) (p : Plan) (x : Piece), c.mainPlans[i]? = some p → x ∈ p.pieces →
      ∃ a, memoryBit c x.q = some a ∧ 2048 * p.granule + x.goff = a + x.eoff ∧ 0 < x.nb ∧ x.eoff + x.nb ≤ memoryUnit c) ∧
    (∀ q a b, memoryBit c q = some a → b < memoryUnit c →
      ∃ (i : Nat) (p : Plan) (x : Piece), c.mainPlans[i]? = some p ∧ x ∈ p.pieces ∧ x.q = q ∧ x.eoff ≤ b ∧ b < x.eoff + x.nb ∧
        ∀ (j : Nat) (p' : Plan) (y : Piece), c.mainPlans[j]? = some p' → y ∈ p'.pieces → y.q = q → y.eoff ≤ b → b < y.eoff + y.nb → j = i ∧ y = x)) ∧
  (∀ (c : Cmd) (i g : Nat) (p : Plan), c.kind = .cpw ∧ c.graph = [] ∨ c.kind = .cps ∨ c.kind = .cpst →
    c.mainPlans[i]? = some p → g < 2048 → (∀ x ∈ p.pieces, x.goff + x.nb ≤ 2048) →
    (c.kind = .cpst → fld c.b 0 9 + 2 ^ fld c.b 22 2 ≤ 512) →
    writtenBit (c.packetOut i p) g = p.pieces.foldl (fun v x =>
      if x.goff ≤ g ∧ g < x.goff + x.nb then some (sentBit c x.q (x.eoff + (g - x.goff))) else v) none)

/-- PACKET_PERFORM, PACKET_REPLY, FABRIC_RESPONSE_TIMEOUT (R176, R233), the fills and the row writes (R66, R174). Reason 3
for memory this device does not have is the model's reading (log 66, DEDUCED). -/
def Obligations.PacketsPerformAndAnswer : Prop :=
  (∀ (s : State) (core q : Nat) (x : Pkt) (c : Cmd), pktOf s core x.id = some x → cmdOf s core x.cmd = some c →
    performReady s core x = true → x.dest = .local q →
    (tget 0 (x.pa / 256) (partAt s q).memory.dramErr = 0 ∨ x.acc = 0 ∧ ((partAt s q).memory.lines.find? fun y =>
      y.ctrl == homeCtrl s q (x.pa / 256) && y.granule == x.pa / 256).any (·.filled) = true) →
    let base := q * 2 ^ 57 + x.pa
    let done (bad : Nat) (rd : List (Nat × Byte)) (t : State) : Prop :=
      pktOf t core x.id = some { x with stage := .performed, bad := bad, rd := rd } ∧
        (coreOf t core).st = (coreOf s core).st ∧ (coreOf t core).semq = (coreOf s core).semq ∧ t.dev = s.dev ∧
        (∀ j, ctxOf t j = ctxOf s j)
    let perform : Instr := .packetPerform core x.id
    let plan := (c.plans[x.idx]?).getD ⟨0, []⟩
    let here := q < s.dev.parts ∧ x.pa + 256 ≤ usableBytes s.dev q
    (¬here → Answers perform s fun t => done 3 x.rd t ∧ ∀ a, memGet t.mem a = memGet s.mem a) ∧
    (here → x.acc = 0 → Answers perform s fun t => Frame [] [core] [q, partOfCore s.dev core] s t ∧
      done x.bad ((Machine.touched plan).map fun b => (b, if b < 256 then memGet (s.memBefore.getD s.mem) (base + b) else 0)) t) ∧
    (here → x.acc = 2 → c.mainAcc = 2 → (∀ y ∈ plan.pieces, y.goff + y.nb ≤ 2048) → Answers perform s fun t =>
      done x.bad ((Machine.touched plan).map fun b => (b, if b < 256 then memGet s.mem (base + b) else 0)) t ∧
        let old := leNat ((List.range 256).map fun b => memGet s.mem (base + b))
        ∀ a, memGet t.mem a = if base ≤ a ∧ a < base + 256 then
            BitVec.ofNat 8 (granuleAfter c plan.pieces old / 256 ^ (a - base))
          else memGet s.mem a) ∧
    (here → x.acc = 1 → Answers perform s fun t => done x.bad x.rd t ∧ ∀ a,
      memGet t.mem a =
        if base ≤ a ∧ a < base + 256 then
          match x.wr.find? (·.1 == a - base) with
          | some e => (memGet s.mem a &&& ~~~e.2.2) ||| (e.2.1 &&& e.2.2)
          | none => memGet s.mem a
        else memGet s.mem a)) ∧
  (∀ (s : State) (core : Nat) (x : Pkt) (c : Cmd), pktOf s core x.id = some x → cmdOf s core x.cmd = some c →
    let k := coreOf s core
    let reply : Instr := .packetReply core x.id
    let frees (t : State) : Prop := (coreOf t core).pkts = k.pkts.filter fun y => y.id != x.id
    let fails (i : Instr) (r : Nat) : Prop := Answers i s fun t => Frame [] [core] [] s t ∧ frees t ∧
      (coreOf t core).st = k.st ∧ cmdOf t core c.id = some { c with reason := if c.reason = 0 then r else c.reason }
    let pieces := ((c.plans[x.idx]?).getD ⟨0, []⟩).pieces
    let good := replyReady s core x = true ∧ x.bad = 0
    let rowsStand (t : State) : Prop := ∀ key, rowAt (coreOf t core) key = rowAt k key
    let main := c.packetKind x.idx = 0
    let fetches := c.kind = .cpld ∨ c.kind = .amo ∨ (c.kind = .vamo ∧ fld c.c 16 1 = 1) ∨
      ((c.kind = .cpg ∨ c.kind = .cpy) ∧ c.graph = [])
    let later : Cmd := { c with got := c.got ++ [(x.idx, x.rd)] }
    let lands (out : List (Nat × Nat)) : Prop := (out.map (·.1)).Nodup →
      Answers reply s fun t => Frame [] [core] [] s t ∧ frees t ∧ rowsStand t ∧ ∃ y, cmdOf t core c.id = some y ∧
        (∀ d, (¬∃ z ∈ out, ∃ j, j < c.sideCont ∧ hasBit c j ∧ d = rowBit c z.1 j) → awaited y.wq d = awaited c.wq d) ∧
        ∀ z ∈ out, ∀ j, j < c.sideCont → hasBit c j → awaited y.wq (rowBit c z.1 j) = some (bitAt z.2 j)
    (replyReady s core x = true → x.bad ≠ 0 → fails reply x.bad) ∧
    ((∃ fa q, x.dest = .peer fa q) → x.issued + 2 ^ 24 ≤ now s →
      replyReady s core x = false ∧ fails (.fabricResponseTimeout core x.id) 3) ∧
    (good → main → fetches → (c.kind = .cpld ∨ c.kind = .amo → fld c.b 0 9 + atomicBytes c ≤ 512 ∧
        fld c.b 0 9 + 2 ^ fld c.b 22 2 ≤ 512) →
      (∀ y ∈ pieces, y.eoff + y.nb ≤ memoryUnit c ∧ (memoryBit c y.q).isSome = true) →
      Answers reply s fun t => Frame [] [core] [] s t ∧ frees t ∧ rowsStand t ∧
        ∃ y, cmdOf t core c.id = some y ∧ y.reason = c.reason ∧ y.flags = c.flags ∧
          (∀ d, (¬∃ z ∈ pieces, ∃ j, j < z.nb ∧ hasBit c (z.eoff + j) ∧ d = rowBit c z.q (z.eoff + j)) →
            awaited y.wq d = awaited c.wq d) ∧
          ((∀ z ∈ pieces, ∀ z' ∈ pieces, z.q = z'.q → z = z') →
            ∀ z ∈ pieces, ∀ j, j < z.nb → hasBit c (z.eoff + j) →
              awaited y.wq (rowBit c z.q (z.eoff + j)) = some (readBit x.rd (z.goff + j)))) ∧
    (good → main → c.kind = .cpy → c.graph ≠ [] → gOrdered c.graph = false →
      lands ((gEval (c.env []) c.graph (pieces.map fun z => (z.q, pieceBits x.rd z % 2 ^ c.memWidth))).out c.graph)) ∧
    (good → c.packetKind x.idx ≠ 2 → c.kind = .cpy → c.graph ≠ [] → gOrdered c.graph = true → c.stage = .begun →
      c.reason = 0 → lands (if later.allAnswered = true then later.run.out c.graph else [])) ∧
    (good → c.kind ≠ .cpy → c.kind ≠ .cpg → ¬fetches → Answers reply s fun t => Frame [] [core] [] s t ∧ frees t ∧ rowsStand t ∧
      ∃ y, cmdOf t core c.id = some y ∧ y.wq = c.wq)) ∧
  (∀ (s : State) (core : Nat) (c : Cmd), c ∈ (coreOf s core).cq → ((coreOf s core).cq.map (·.id)).Nodup →
    c.stage = .begun → c.total.isSome = true → c.filled = false → c.rel = none →
    c.kind = .cpy ∧ fld c.b 63 1 = 0 ∨ c.kind = .cpg →
    let t := copyFills core s
    let places := if c.kind = .cpg then (fld c.shape 56 16 + 1) * fld c.c 0 13 else extentBelow c.shape (fld c.shape 389 3)
    ∃ y, cmdOf t core c.id = some y ∧ y.filled = true ∧ (∀ key, rowAt (coreOf t core) key = rowAt (coreOf s core) key) ∧
      ∀ d,
        (∀ q b, q < places → memoryBit c q = none → b < c.sideCont → hasBit c b → d = rowBit c q b →
          awaited y.wq d = some (bitAt c.fillWord b)) ∧
        ((¬∃ q b, q < places ∧ memoryBit c q = none ∧ b < c.sideCont ∧ hasBit c b ∧ d = rowBit c q b) →
          awaited y.wq d = awaited c.wq d)) ∧
  (∀ (s : State) (core : Nat) (c : Cmd) (before after : List Cmd) (r : Nat) (l : List BitRun)
      (rest : List (Nat × List BitRun)),
    (coreOf s core).cq = before ++ c :: after → (∀ q ∈ before, q.wq = []) → (∀ q ∈ after, q.wq = []) →
    (∀ q ∈ before ++ after, q.id ≠ c.id) → c.wq = (r, l) :: rest →
    let k := coreOf s core
    let b := c.dest.1
    let key := 768 * b + (c.dest.2 + r)
    let free_ := ceLane b true ∉ k.lanes ∧ b ∉ k.st.wrUsed ∧ b ∉ k.st.scrubs
    let t := ceWrites core s
    (∀ j, ctxOf t j = ctxOf s j) ∧
    (¬free_ → ∀ j, rowAt (coreOf t core) j = rowAt k j) ∧
    (free_ → (∀ j, j ≠ key → rowAt (coreOf t core) j = rowAt k j) ∧
      (∀ j, j < 4096 → (rowAt (coreOf t core) key).getLsbD j = (runValue l j).getD ((rowAt k key).getLsbD j)) ∧
      ∃ y, cmdOf t core c.id = some y ∧ y.wq = rest))

/-- The semaphore instructions at issue (R336 to R338). -/
def Obligations.SemaphoreUpdatesGoOnTheirWay : Prop :=
  (∀ (i : Instr) (s : State) (r : SemRow), i.wf = true → semRow i s = some r →
    let c := cur s
    let k := coreOf s s.core
    let pois := r.reads = true ∧ spois c r.f.sc.toNat = true
    let room := r.answers = true → semResults s (curId s) < 2
    (¬pois → mayName c r.f.idx.toNat → room →
      Answers i s fun t => Frame [curId s] [s.core] [] s t ∧ t.ids = s.ids + 1 ∧
        coreOf t s.core = { k with semq := k.semq ++ [updateOf r s] } ∧
        ctxOf t (curId s) = { c with fly := { c.fly with seq := c.fly.seq + 1 } }) ∧
    (pois → Traps i s .sy (plain 0x06)) ∧
    (¬pois → ¬mayName c r.f.idx.toNat → Traps i s .sy (plain 0x08)) ∧
    (¬pois → mayName c r.f.idx.toNat → ¬room → Traps i s .sy (plain 0x04))) ∧
  (∀ (f : YSyl) (s : State), (Instr.swait f).wf = true →
    let c := cur s
    let n := f.idx.toNat
    let reason := tget 0 n c.reasons
    let passes := waitPasses (coreOf s s.core) n f.val.toNat
    let p := partOfCore s.dev s.core
    let m := (partAt s p).memory
    (¬mayName c n → Traps (.swait f) s .sy (plain 0x08)) ∧
    (mayName c n → reason ≠ 0 → Traps (.swait f) s .sy ⟨if reason = 3 then 0x0A else 0x10, reason, n⟩) ∧
    (mayName c n → reason = 0 → passes →
      Answers (.swait f) s fun t => Frame [] [] [p] s t ∧
        partAt t p = { partAt s p with memory := { m with peer := acquired s f.agent.toNat f.store m.peer } }) ∧
    (mayName c n → reason = 0 → ¬passes →
      (f.sill = 1 → WaitsAtSill (.swait f) s (.sem n f.val.toNat)) ∧
      (f.sill = 0 → Traps (.swait f) s .sy (plain 0x04))))

/-- SEMAPHORE_UPDATE_APPLY (R212, R213). -/
def Obligations.SemaphoreUpdatesApply : Prop :=
  ∀ (s : State) (core : Nat),
    let k := coreOf s core
    let apply : Instr := .semaphoreUpdateApply core
    ((∀ v ∈ k.semq, (∃ d, v.src = .doorbell d) ∨ ¬isDue s v) → exec apply s = .next s) ∧
    (∀ u, dueUpdate s core = some u → u.slot < 5 →
      let id := ctxId core u.slot
      let c := ctxOf s id
      let v := if u.idx = 0 then 0 else tget 0 u.idx k.sems
      let queue (t : State) : Prop := (coreOf t core).semq = k.semq.filter fun x => x.id != u.id
      let leaves (new : BitVec 16) (t : State) : Prop := queue t ∧ ∀ j,
        tget 0 j (coreOf t core).sems = if j = u.idx ∧ j ≠ 0 then new else tget 0 j k.sems
      let gives (reg : Nat) (t : State) : Prop := ctxOf t id = { c with fly := { c.fly with
        flights := c.fly.flights ++ [semResult c u reg v] } }
      let past (n : Nat) := u.idx ≠ 0 ∧ n ≠ 0 ∧ 0xFFFF < v.toNat + n
      (u ∈ k.semq ∧ isDue s u ∧ ∀ w ∈ k.semq, isDue s w → (∀ d, w.src ≠ .doorbell d) →
        sourcePlace s u ≤ sourcePlace s w) ∧
      (∀ n, u.op = .add n → ¬past n →
        Answers apply s fun t => Frame [] [core] [] s t ∧ leaves (BitVec.ofNat 16 (v.toNat + n)) t) ∧
      (∀ x, u.op = .set x → Answers apply s fun t => Frame [] [core] [] s t ∧ leaves x t) ∧
      (∀ n reg, u.op = .fetchAdd n reg → ¬past n →
        Answers apply s fun t => Frame [id] [core] [] s t ∧ leaves (BitVec.ofNat 16 (v.toNat + n)) t ∧ gives reg t) ∧
      (∀ e w reg, u.op = .cas e w reg →
        Answers apply s fun t => Frame [id] [core] [] s t ∧ leaves (if v = e then w else v) t ∧ gives reg t) ∧
      (∀ n, u.op = .add n → past n →
        ((∃ g, u.src = .gateway g) → Answers apply s fun t =>
          (∀ j, ctxOf t j = ctxOf s j) ∧ queue t ∧ (coreOf t core).sems = k.sems) ∧
        (u.src = .sy ∨ u.src = .mEngine ∨ (∃ q, u.src = .cpEngine q) → u.slot ≠ 4 → c.status = .ready → c.boundary = [] →
          Answers apply s fun t => queue t ∧ (coreOf t core).sems = k.sems ∧ isTrapped (ctxOf t id) = true ∧
            ∃ e, (ctxOf t id).event = some e ∧ e.cause = 0x0B ∧ e.val = u.idx ∧ e.va = bundleVa c)) ∧
      (∀ n reg, u.op = .fetchAdd n reg → past n → u.src = .sy → u.slot ≠ 4 → c.status = .ready → c.boundary = [] → reg < 64 →
        (∀ f ∈ c.fly.flights, f.seq ≠ u.seq) →
        Answers apply s fun t => queue t ∧ (coreOf t core).sems = k.sems ∧ isTrapped (ctxOf t id) = true ∧
          (∀ j, j < 64 → sget (ctxOf t id) j = if j = reg ∧ j ≠ 0 then v.setWidth 64 else sget c j) ∧
          ∃ e, (ctxOf t id).event = some e ∧ e.cause = 0x0B ∧ e.val = u.idx ∧ e.va = bundleVa c)) ∧
    (∀ u d n, u ∈ k.semq → u.src = .doorbell d → u.op = .add n → isDue s u →
      (∀ w ∈ k.semq, isDue s w → ∀ e, w.src = .doorbell e → w = u ∨ d < e) →
      let t := takeBridges core 1 s
      let v := if u.idx = 0 then 0 else tget 0 u.idx k.sems
      let past := u.idx ≠ 0 ∧ n ≠ 0 ∧ 0xFFFF < v.toNat + n
      (coreOf t core).semq = k.semq.filter (fun x => x.id != u.id) ∧ (∀ j, ctxOf t j = ctxOf s j) ∧
        ∀ j, tget 0 j (coreOf t core).sems =
          if j = u.idx ∧ j ≠ 0 ∧ ¬past then BitVec.ofNat 16 (v.toNat + n) else tget 0 j k.sems)

/-- The phaser instructions and PHASER_VIEW_UPDATE (R218, R219, R331). -/
def Obligations.PhaserOperationsFollowTheirRules : Prop :=
  (∀ (i : Instr) (s : State) (f : YSyl) (listed : Bool), i.wf = true → phaserRow i s = some (f, listed) → s.slot < 5 →
    let c := cur s
    let id := curId s
    let k := coreOf s s.core
    let p := partOfCore s.dev s.core
    let pois := spois c f.sc.toNat = true
    let ph := fld (sget c f.sc.toNat) 0 10
    let x := phaserOf s ph
    let held := arrivalHeld s id ph
    let passes := phasePassed s id ph
    let wait : Wait := .phase ph f.agent.toNat f.store c.pos.pc
    let op (kind : PhKind) (rel : List Release) : PhOp := { id := id, ph := ph, op := kind, rel := rel }
    let arrival := op .arrive (arrivalReleases f s)
    (listed = false → Traps i s .sy (plain 0x01)) ∧
    (listed = true → pois → Traps i s .sy (plain 0x06)) ∧
    (listed = true → ¬pois → ¬handleOk f s → Traps i s .sy (plain 0x08)) ∧
    (listed = true → ¬pois → handleOk f s →
      (∀ kind, (i = .phreg f ∧ kind = .reg (BitVec.ofNat 2 (fld f.imm 0 2)) ∨ i = .phdrp f ∧ kind = .drop) →
        let table :=
          if kind = .drop then c.phasers.filter fun m => m.1 != ph
          else c.phasers ++ [(ph, BitVec.ofNat 2 (fld f.imm 0 2))]
        let c' := { c with phasers := table }
        (reachesEngine s (op kind []) → Answers i s fun t => FrameDev [id] [] [] s t ∧ ctxOf t id = c' ∧
          PhaserBecomes s t ph (afterOperation id kind x)) ∧
        (¬reachesEngine s (op kind []) → Answers i s fun t => Frame [id] [s.core] [] s t ∧ ctxOf t id = c' ∧
          coreOf t s.core = { k with phq := k.phq ++ [op kind []] })) ∧
      (i = .pharv f → ¬held →
        (reachesEngine s arrival → Answers i s fun t => FrameDev [] [] [] s t ∧
          PhaserBecomes s t ph (afterOperation id .arrive x)) ∧
        (¬reachesEngine s arrival → Answers i s fun t => Frame [] [s.core] [] s t ∧
          coreOf t s.core = { k with phq := k.phq ++ [arrival] })) ∧
      (i = .phwt f → passes → Answers i s fun t => FrameDev [] [] [p] s t ∧
        PhaserBecomes s t ph (afterWait id x) ∧ partAt t p = acquiring s p f.agent.toNat f.store) ∧
      (i = .phaw f → ¬held → passes → reachesEngine s arrival → Answers i s fun t => FrameDev [] [] [p] s t ∧
        PhaserBecomes s t ph (afterWait id (afterOperation id .arrive x)) ∧
        partAt t p = acquiring s p f.agent.toNat f.store) ∧
      (i = .phaw f → ¬held → ¬passes → f.sill = 1 → reachesEngine s arrival →
        Answers i s fun t => FrameDev [id] [s.core] [p] s t ∧ Invoked s t s.core ∧
          PhaserBecomes s t ph (afterOperation id .arrive x) ∧ partAt t p = acquiring s p f.agent.toNat f.store ∧
          ctxOf t id = { c with status := .waiting wait true }) ∧
      (i = .phaw f → ¬held → passes → ¬reachesEngine s arrival → Answers i s fun t => FrameDev [] [s.core] [p] s t ∧
        coreOf t s.core = { k with phq := k.phq ++ [arrival] } ∧ PhaserBecomes s t ph (afterWait id x) ∧
        partAt t p = acquiring s p f.agent.toNat f.store) ∧
      (i = .phaw f → ¬held → ¬passes → f.sill = 1 → ¬reachesEngine s arrival →
        Answers i s fun t => Frame [id] [s.core] [p] s t ∧ Chose (now s) k.sel (coreOf t s.core).sel ∧
          coreOf t s.core = { k with phq := k.phq ++ [arrival], sel := (coreOf t s.core).sel } ∧
          partAt t p = acquiring s p f.agent.toNat f.store ∧ ctxOf t id = { c with status := .waiting wait true }) ∧
      ((i = .pharv f ∨ i = .phaw f) → held →
        (f.sill = 1 → WaitsAtSill i s (.arrive ph)) ∧ (f.sill = 0 → Traps i s .sy (plain 0x04))) ∧
      (i = .phaw f → ¬passes → f.sill = 0 → Traps i s .sy (plain 0x04)) ∧
      (i = .phwt f → ¬passes →
        (f.sill = 1 → WaitsAtSill i s wait) ∧ (f.sill = 0 → Traps i s .sy (plain 0x04))))) ∧
  (∀ (s : State) (core ph : Nat), Answers (.phaserViewUpdate core ph) s fun t => Frame [] [core] [] s t ∧
    coreOf t core = { coreOf s core with phView := tset 0 ph (phaserOf s ph).cnt (coreOf s core).phView })

/-- PEND, PSEL, SIGN_OFF_SEND, SIGN_OFF_ARRIVAL and PHASE_START (R38 to R42, R328, R332). What is outstanding at a PEND
(logs 11 and 80) and the root of a gang of one (log 83) are the model's readings. -/
def Obligations.PhasesEndAndBegin : Prop :=
  (∀ (f : YSyl) (s : State), (Instr.pend f).wf = true →
    let c := cur s
    let n := f.idx.toNat
    let reason := tget 0 n c.reasons
    let open_ := Outstanding s ∨ c.pos.loops.length ≠ c.pos.depth0
    let barred := s.slot = 4 ∨ inDelay c = true ∨ aloneIn s .sy = false
    (barred → Traps (.pend f) s .sy (plain 0x01)) ∧
    (¬barred → anyPoison c = true → Traps (.pend f) s .sy (plain 0x06)) ∧
    (¬barred → anyPoison c = false →
      (¬mayName c n → Traps (.pend f) s .sy (plain 0x08)) ∧
      (mayName c n → reason ≠ 0 → Traps (.pend f) s .sy ⟨if reason = 3 then 0x0A else 0x10, reason, n⟩) ∧
      (mayName c n → reason = 0 → open_ →
        exec (.pend f) s = .next (takeTrap (curId s) (issueEvent s 7 (plain 0x05)) (returnTiles (curId s) s))) ∧
      (mayName c n → reason = 0 → ¬open_ → Answers (.pend f) s fun t => Frame [curId s] [s.core] [] s t ∧
        Invoked s t s.core ∧ ctxOf t (curId s) =
          { c with status := .transom false, pos := { c.pos with pend := (n, f.val.toNat), inph := false } }))) ∧
  (∀ (f : YSyl) (s : State), (Instr.psel f).wf = true →
    (s.slot = 4 → Traps (.psel f) s .sy (plain 0x01)) ∧
    (s.slot ≠ 4 → IssuesTo (.psel f) s { cur s with ctl := { (cur s).ctl with
      psv := true, psg := f.sc, pst := BitVec.ofNat 7 (fld f.imm 0 7), psf := BitVec.ofNat 7 (fld f.val 0 7) } })) ∧
  (∀ (s : State) (id n : Nat) (x : Task),
    let c := ctxOf s id
    let p := partOfCore s.dev (id / 5)
    c.task = some n → taskOf s p n = some x →
    let lets := waitPasses (coreOf s (id / 5)) c.pos.pend.1 c.pos.pend.2 ∧ tget 0 c.pos.pend.1 c.reasons = 0 ∧
      (c.ctl.psv = true → gresolved c (c.ctl.psg.toNat % 32) = true)
    c.fly.stores = [] → (c.status = .transom false ∧ lets ∨ c.status = .ended ∧ c.pos.endSent = false) →
    Answers (.signOffSend id) s fun t => Frame [id] [] [p] s t ∧ (ctxOf t id).regs = c.regs ∧ (ctxOf t id).ctl = c.ctl ∧
      (c.status = .ended → ctxOf t id = { c with pos := { c.pos with endSent := true } }) ∧
      (c.status ≠ .ended → ctxOf t id = { c with status := .transom true }) ∧
      ∃ o, taskOf t p n = some { x with signoffs := x.signoffs ++ [o] } ∧ o.rank = c.rank ∧ o.arrived = false ∧
        o.succ = (if c.status = .ended then none else some (chosenSuccessor c)) ∧
        o.solo = decide (fld (phaseEntry c) 87 1 = 1) ∧ now s + 4 ≤ o.arrive ∧ o.arrive ≤ now s + 40 ∧
        (o.solo = true ∨ x.members.length ≤ 1 → o.arrive = now s + 4)) ∧
  (∀ (s : State) (p n : Nat) (x : Task), taskOf s p n = some x → x.members ≠ [] →
    (∀ o ∈ x.signoffs, o.solo = false) → x.signoffs.length = x.members.length →
    (∀ o ∈ x.signoffs, o.arrived = false → o.arrive ≤ now s) → (∃ o ∈ x.signoffs, o.arrived = false) →
    Answers (.signOffArrival p n) s fun t => Frame [] [] [p] s t ∧ ∃ y, taskOf t p n = some y ∧
      y.startAt = some (now s + 96) ∧ (∀ o ∈ y.signoffs, o.arrived = true) ∧ y.members = x.members) ∧
  (∀ (s : State) (p n : Nat) (x : Task), taskOf s p n = some x →
    let due (o : SignOff) : Prop := o.arrived = false ∧ o.arrive ≤ now s
    Answers (.signOffArrival p n) s fun t => Frame [] [] [p] s t ∧ ∃ y, taskOf t p n = some y ∧ y.members = x.members ∧
      y.signoffs.length = x.signoffs.length ∧ ∀ (j : Nat) (o : SignOff), x.signoffs[j]? = some o →
        (due o → y.signoffs[j]? = some { o with
          arrived := true, start := if o.solo = true then some (now s + 96) else none }) ∧
        (¬due o → y.signoffs[j]? = some o)) ∧
  (∀ (s : State) (p n : Nat) (x : Task) (o : SignOff) (m : Nat × Nat), taskOf s p n = some x → x.stage = .bound →
    (∀ w, x.startAt = some w → now s < w) → (x.signoffs.find? fun o => o.start.any fun w => decide (w ≤ now s)) = some o →
    x.members[o.rank]? = some m → m.2 < 5 →
    let id := ctxId m.1 m.2
    let c := ctxOf s id
    Answers (.phaseStart p n) s fun t => Frame [id] [] [p] s t ∧
      taskOf t p n = some { x with signoffs := x.signoffs.erase o } ∧ (c.status = .ended → ctxOf t id = c) ∧
      (∀ e, c.status ≠ .ended → o.succ = some e → entryOf c e ≠ 0 → PhaseBegun c (ctxOf t id) e) ∧
      (c.status ≠ .ended → (¬∃ e, o.succ = some e ∧ entryOf c e ≠ 0) →
        ∃ v, ctxOf t id = { c with boundary := c.boundary ++ [v] } ∧ v.cause = 0x05 ∧ v.slot = m.2)) ∧
  (∀ (s : State) (p n : Nat) (x : Task), taskOf s p n = some x → x.stage = .bound →
    (∃ w, x.startAt = some w ∧ w ≤ now s) → x.members.Nodup → (∀ m ∈ x.members, m.2 < 5) →
    Answers (.phaseStart p n) s fun t => Frame (x.members.map fun m => ctxId m.1 m.2) [] [p] s t ∧
      taskOf t p n = some { x with startAt := none, signoffs := x.signoffs.filter (·.solo) } ∧
      ∀ m ∈ x.members,
        let id := ctxId m.1 m.2
        let c := ctxOf s id
        let offs := x.signoffs.filter fun o => !o.solo
        (c.status = .ended → ctxOf t id = c) ∧
        (∀ e, c.status ≠ .ended → offs ≠ [] → (∀ o ∈ offs, o.succ = some e) → entryOf c e ≠ 0 →
          PhaseBegun c (ctxOf t id) e) ∧
        (c.status ≠ .ended → (¬∃ e, offs ≠ [] ∧ (∀ o ∈ offs, o.succ = some e) ∧ entryOf c e ≠ 0) →
          ∃ v, ctxOf t id = { c with boundary := c.boundary ++ [v] } ∧ v.cause = 0x05 ∧ v.slot = m.2)) ∧
  (∀ (s : State) (id : Nat),
    let c := ctxOf s id
    let reason := tget 0 c.pos.pend.1 c.reasons
    id % 5 < 4 → c.status = .transom false → reason ≠ 0 → c.boundary = [] →
    let d := ctxOf (boundaryTrap id s) id
    d.status = .trapped (some false) none ∧ d.reasons = tset 0 c.pos.pend.1 0 c.reasons ∧ d.regs = c.regs ∧ d.pos = c.pos ∧
      ∃ e, d.event = some e ∧ e.cause = (if reason = 3 then 0x0A else 0x10) ∧ e.detail = reason ∧ e.val = c.pos.pend.1 ∧
        e.va = bundleVa c)

/-- NOP, the hint region, HINT, FENCE, YIELD and SELECTED_CONTEXT_ISSUE (R46, R47, R121, R133, R303, R305, R374). That a
context held by its PHAW acquires again as it takes the slot is the model's reading (log 75, DEDUCED). -/
def Obligations.NopsHintsFencesAndYields : Prop :=
  (∀ (sl : Slot) (w : BitVec 96) (s : State), (Instr.nop sl w).wf = true → exec (.nop sl w) s = .next s) ∧
  (∀ (sl : Slot) (w : BitVec 96) (s : State), exec (.hintRegion sl w) s = .next s) ∧
  (∀ (f : YSyl) (s : State), (Instr.hint f).wf = true →
    let p := partOfCore s.dev s.core
    let x := partAt s p
    let trace := if x.host.traceOn then x.host.trace ++ [(fld f.imm 0 4, f.val.toNat, now s % 2 ^ 64)] else x.host.trace
    Answers (.hint f) s fun t => Frame [] [] [p] s t ∧ partAt t p = { x with host := { x.host with trace := trace } }) ∧
  (∀ (f : YSyl) (s : State), (Instr.fence f).wf = true →
    let p := partOfCore s.dev s.core
    let k := coreOf s s.core
    let r := releaseNow s (curId s) f.agent.toNat f.store
    Answers (.fence f) s fun t => Frame [curId s] [s.core] [p] s t ∧
      ctxOf t (curId s) = { cur s with fences := (cur s).fences ++ [r] } ∧
      coreOf t s.core = { k with
        mq := k.mq.map fun m => if m.slot = s.slot ∧ m.issued = now s then { m with fences := m.fences ++ [r] } else m
        cq := k.cq.map fun q =>
        if q.slot = s.slot ∧ q.stage = .queued ∧ q.wake = now s then { q with fences := q.fences ++ [r] } else q } ∧
      partAt t p = acquiring s p f.agent.toNat f.store) ∧
  (∀ (f : YSyl) (s : State), (Instr.yield f).wf = true →
    (s.slot = 4 → Traps (.yield f) s .sy (plain 0x01)) ∧
    (s.slot ≠ 4 → Answers (.yield f) s fun t => Frame [curId s] [s.core] [] s t ∧ Invoked s t s.core ∧
      (coreOf t s.core).sel.keep = 7 ∧ ctxOf t (curId s) = { cur s with status := .waiting .sill true } ∧
      ((cur s).status = .ready → s.slot < 4 → (coreOf t s.core).sel.sel = selectSlot s s.core s.slot))) ∧
  (∀ (s : State) (core excl : Nat),
    let b := selectSlot s core excl
    let last := (coreOf s core).sel.last
    let ready (sl : Nat) := isReady s (ctxId core sl) = true
    let prio (sl : Nat) := min ((ctxOf s (ctxId core sl)).ctl.prio.toNat + tget 0 sl (coreOf s core).sel.aged / 2 ^ 20) 7
    let turn (sl : Nat) := (sl + 7 - last % 4) % 4
    (superReady s core = true → b = 4) ∧
    (superReady s core = false →
      (b = 7 ∧ ∀ sl, sl < 4 → ¬ready sl) ∨
      (b < 4 ∧ ready b ∧ (b = excl → ∀ sl, sl < 4 → sl ≠ excl → ¬ready sl) ∧
        (b ≠ excl → ∀ sl, sl < 4 → sl ≠ excl → ready sl →
          prio sl < prio b ∨ prio sl = prio b ∧ turn b ≤ turn sl)))) ∧
  (∀ (s : State) (core sl : Nat), sl < 5 →
    let k := coreOf s core
    let x := k.sel
    let id := ctxId core sl
    let c := ctxOf s id
    let keeps := x.keep = sl ∧ now s = x.invAt + 1 ∧ isReady s id = true
    let chosen := x.sel = sl ∧ x.from_ ≤ now s ∧ canTake s id = true ∧ (x.keep < 5 → now s ≠ x.invAt + 1)
    x.cur = 7 → keeps ∨ chosen →
    let p := partOfCore s.dev core
    Answers (.selectedContextIssue core) s fun t => FrameDev [id] [core] [p] s t ∧
      ctxOf t id = { c with status := .ready } ∧
      coreOf t core = { k with sel := { x with cur := sl, sel := sl, keep := 7 } } ∧
      (∀ ph agent store pc, c.status = .waiting (.phase ph agent store pc) true →
        PhaserBecomes s t ph (afterWait id (phaserOf s ph)) ∧ partAt t p = acquiring s p agent store) ∧
      ((∀ ph agent store pc, c.status ≠ .waiting (.phase ph agent store pc) true) →
        t.dev = s.dev ∧ partAt t p = partAt s p)) ∧
  (∀ (s : State) (core : Nat),
    let x := (coreOf s core).sel
    let b := selectSlot s core 7
    let id := ctxId core b
    x.cur = 7 → x.sel = 7 → (x.keep < 5 → x.invAt + 1 < now s) → x.from_ ≤ now s → b < 4 →
    Answers (.selectedContextIssue core) s fun t => FrameDev [id] [core] [partOfCore s.dev core] s t ∧
      ctxOf t id = { ctxOf s id with status := .ready } ∧
      coreOf t core = { coreOf s core with sel := { x with
        cur := b, sel := b, keep := 7, last := b, aged := tset 0 b 0 x.aged } })

/-- LAUNCH_TASK_RECORD, LAUNCH_NOP_RECORD, RING_STAMP_WAIT_EXPIRY, GANG_BIND, PREEMPTION_REQUEST, GANG_REBIND and
TASK_COMPLETION (R27 to R36, R49, R50). Where memberships and banks stand in an area (log 22) and that a faulting read at a
rebinding ends the task (log 25) are the model's (DESIGN CHOICE, DEDUCED). -/
def Obligations.TasksAreLaunchedBoundAndCompleted : Prop :=
  (∀ (s s1 : State) (p ring : Nat) (r : BitVec 512), nextRing s p = some ring → readRecord p ring s = (some r, s1) →
    let x := ringOf s1 p ring
    (fld r 0 16 ≠ x.head.toNat % 65536 → ∀ i, i = .launchTaskRecord p ring ∨ i = .launchNopRecord p ring →
      Answers i s fun t => sameTasks s1 t p ∧ ringOf t p ring = { x with stamped := some (now s1) }) ∧
    (fld r 0 16 = x.head.toNat % 65536 → fld r 16 4 = 0 →
      exec (.launchTaskRecord p ring) s = .next s1 ∧
      Answers (.launchNopRecord p ring) s fun t => sameTasks s1 t p ∧ headMoved s1 t p ring ∧ (∀ j, ctxOf t j = ctxOf s1 j)) ∧
    (fld r 0 16 = x.head.toNat % 65536 → fld r 16 4 ≠ 0 → recordBad s1 p r = true →
      Answers (.launchTaskRecord p ring) s fun t => sameTasks s1 t p ∧ headMoved s1 t p ring ∧
        (∀ j, ctxOf t j = ctxOf s1 j) ∧ ∃ u, Reports p 3 r
          (logErr p 3 0xFF 0xFFFF ring (recordVa x) (fld r 167 24) (countErr p ring s1)) u ∧
          t = consume p ring u) ∧
    (∀ g h s2 v v' s3, fld r 0 16 = x.head.toNat % 65536 → fld r 16 4 ≠ 0 → recordBad s1 p r = false →
      headerSeg s1 p (fld r 391 57) = some g → unitRead p (fld r 391 57) 256 s1 = (some h, s2) → g.nbv.toNat ≤ 3 →
      depUpdate p (fld r 167 24) (fun y => if y / 256 = 0x800000 then y else y + 0x80000000 + fld r 191 8) s2 =
        (some (v, v'), s3) → v / 256 ≠ 0x800000 → taskOf s3 p (partAt s3 p).launch.order = none →
      Answers (.launchTaskRecord p ring) s fun t => headMoved s3 t p ring ∧
        ∃ y, taskOf t p (partAt s3 p).launch.order = some y ∧ y.record = r ∧ y.ring = ring ∧ y.prio = (ringOf s3 p ring).prio ∧
          y.header = BitVec.ofNat 2048 (leNat h) ∧ y.nbv = g.nbv ∧ y.members = [] ∧ y.sheaf = 0 ∧
          (v' ≠ 0x80000000 → y.stage = .accepted) ∧
          (v' = 0x80000000 → (∀ e ∈ (partAt s3 p).launch.tasks, ∀ z, e.2 = some z → z.stage = .accepted →
            fld z.record 167 24 ≠ fld r 167 24) → y.stage = .ready))) ∧
  (∀ (s s1 : State) (p id q : Nat) (w : Where) (f : Nat → Nat),
    let a := (partAt s p).launch.depBase + 4 * id
    translate p ((partDies s.dev p).headD 0) (a % 2 ^ 57) .atomic s = (.ok w, s1) → w.dest = .local q →
    q < s.dev.parts → w.pa + 4 ≤ usableBytes s.dev q → (partAt s1 p).memory.acc = [] → (partAt s1 q).memory.retrain = [] →
    (partAt s1 q).memory.dramErr = [] →
    let key := q * 2 ^ 57 + w.pa
    let v := leNat (memRead s1.mem key 4)
    let v' := f v % 2 ^ 32
    ∃ t, depUpdate p id f s = (some (v, v'), t) ∧ (∀ n, taskOf t p n = taskOf s p n) ∧
      leNat (memRead t.mem key 4) = (if v' = 0x80000000 ∧ v ≠ 0x80000000 then 0 else v') ∧
      ∀ b, b < key ∨ key + 4 ≤ b → memGet t.mem b = memGet s1.mem b) ∧
  (∀ (s : State) (p id n : Nat) (x : Task), taskOf s p n = some x → x.stage = .accepted → fld x.record 167 24 = id →
    (∀ e ∈ (partAt s p).launch.tasks, ∀ z, e.2 = some z → z.stage = .accepted → fld z.record 167 24 = id → e.1 = n) →
    Frame [] [] [p] s (makeReady p id s) ∧
      taskOf (makeReady p id s) p n = some { x with stage := .ready, order := (partAt s p).launch.order }) ∧
  (∀ (s : State) (p ring : Nat),
    let x := ringOf s p ring
    (∀ c, x.stamped = some c → c + 4096 ≤ now s → Answers (.ringStampWaitExpiry p ring) s fun t => Frame [] [] [p] s t ∧
      sameTasks s t p ∧ ringOf t p ring = { x with stamped := none }) ∧
    ((∀ c, x.stamped = some c → now s < c + 4096) → exec (.ringStampWaitExpiry p ring) s = .next s)) ∧
  (∀ (s s1 : State) (p n : Nat) (x : Task) (ms : List (Nat × Nat)) (sems : List (Nat × Nat)) phtab expect,
    placement s p n = some ms → taskOf s p n = some x → ms.Nodup → (∀ m ∈ ms, m.2 < 4) →
    bindTables p x s = (.ok (sems, phtab, expect), s1) →
    (x.stage = .ready → ms.length < 257 → Answers (.gangBind p n) s fun t => t.mem = s1.mem ∧ t.dev = s1.dev ∧
      (∀ j, j ∉ ms.map (fun m => ctxId m.1 m.2) → ctxOf t j = ctxOf s1 j) ∧
      (∀ rank m, ms[rank]? = some m → BoundMember x n rank (ctxOf t (ctxId m.1 m.2)) ∧
        (ctxOf t (ctxId m.1 m.2)).phtab = phtab ∧ (ctxOf t (ctxId m.1 m.2)).expect = expect) ∧
      ∃ y, taskOf t p n = some y ∧ y.stage = .bound ∧ y.members = ms ∧ y.record = x.record ∧ y.sheaf = x.sheaf ∧
        y.signoffs.length = ms.length ∧ ∀ o ∈ y.signoffs, o.succ = some 0 ∧ o.arrived = false ∧ o.solo = false) ∧
    (x.stage = .preempted → (ms.map (·.1)).Nodup → (∀ m ∈ ms, m.1 < 256 ∧ partOfCore s.dev m.1 = p) →
      (∀ areas s2, RebindsTo p n x sems phtab expect ms.zipIdx areas (noteBound p n ms id s1) s2 →
        Answers (.gangRebind p n) s fun t =>
          (∀ j, j ∉ ms.map (fun m => ctxId m.1 m.2) → ctxOf t j = ctxOf s1 j) ∧
          (∀ rank m, ms[rank]? = some m →
            ((keptFor x rank).ended ≠ none → (ctxOf t (ctxId m.1 m.2)).status = .ended) ∧
            (∀ h b, (keptFor x rank).ended = none → areas[rank]? = some (h, b) →
              Restored x rank h b (ctxOf t (ctxId m.1 m.2)) (coreOf t m.1)) ∧
            (coreOf t m.1).st.pubs = (coreOf s1 m.1).st.pubs ∧
            ∀ e v, e ∈ s1.dev.phasers → (huskKey p n rank, v) ∈ e.2.members →
              ∃ e', e' ∈ t.dev.phasers ∧ e'.1 = e.1 ∧ (ctxId m.1 m.2, v) ∈ e'.2.members) ∧
          ∃ y, taskOf t p n = some y ∧ y.stage = .bound ∧ y.members = ms ∧ y.record = x.record ∧ y.sheaf = x.sheaf ∧
            y.signoffs = x.signoffs ∧ y.kept = []) ∧
      (∀ rank m u u' areas, ms[rank]? = some m →
        RebindsTo p n x sems phtab expect (ms.zipIdx.take rank) areas (noteBound p n ms id s1) u →
        rebindMember p n x sems phtab expect m.1 m.2 rank u = (false, u') →
        Answers (.gangRebind p n) s fun t => taskOf t p n = none))) ∧
  (∀ (s s1 : State) (p n a : Nat) (x : Task) (ms : List (Nat × Nat)), placement s p n = some ms → taskOf s p n = some x →
    bindTables p x s = (.error a, s1) →
    (x.stage = .ready → Answers (.gangBind p n) s fun t => taskOf t p n = none) ∧
    (x.stage = .preempted → Answers (.gangRebind p n) s fun t => taskOf t p n = none)) ∧
  (∀ (s : State) (p n v : Nat) (x : Task), victim s p n = some (v, x) → x.members.Nodup → (∀ m ∈ x.members, m.2 < 4) →
    Answers (.preemptionRequest p n) s fun t => Frame [] (x.members.map (·.1)) [p] s t ∧
      taskOf t p v = some { x with stage := .preempting } ∧
      ∀ m ∈ x.members, (ctxOf s (ctxId m.1 m.2)).status ≠ .ended →
        requestFor s 0x21 (ctxId m.1 m.2) ∈ (coreOf t m.1).sup.events) ∧
  (∀ (s : State) (p n : Nat) (x : Task), taskOf s p n = some x → completable s x = true → x.members.Nodup →
    (∀ m ∈ x.members, m.2 < 4) →
    Answers (.taskCompletion p n) s fun t => taskOf t p n = none ∧
      (∀ m ∈ x.members, ctxOf t (ctxId m.1 m.2) = Ctx.reset ∧ ∀ tile, tile < 768 →
        tileMine (coreOf s m.1) m.2 tile = true → tget 0 tile (coreOf t m.1).st.tileOwn = 0 ∧
          tget 0 tile (coreOf t m.1).st.tags = 0 ∧
          ∀ i, i < 8 → rowAt (coreOf t m.1) (768 * (tile / 96) + 8 * (tile % 96) + i) = 0) ∧
      (∀ j, j ∉ x.members.map (fun m => ctxId m.1 m.2) → (ctxOf t j).regs = (ctxOf s j).regs) ∧
      ∃ s1 u, s1.mem = s.mem ∧ (partAt s1 p).memory = (partAt s p).memory ∧ taskOf s1 p n = none ∧ (∀ m ∈ x.members, ctxOf s1 (ctxId m.1 m.2) = Ctx.reset) ∧
        Reports p (if x.cancelling = true ∧ x.status = 0 then 2 else x.status) x.record s1 u ∧
        ((x.cancelling = true ∨ x.status ≠ 0) → t = u) ∧
        (x.cancelling = false → x.status = 0 → Decrements p x.record (fld x.record 199 8) 0 u t))

/-- The port of a partition (R215, R237 to R244). The transitions of TDISP_REQUEST (log 28), that a refused read is logged under
KIND 9 (log 27) and that BAR 0 reads 0 where nothing stands (log 43) are the model's. -/
def Obligations.HostRequestsAreTaken : Prop :=
  let taken (s : State) (p : Nat) (own : Bool) : Prop :=
    s.dev.fwUp = true ∧ p < s.dev.parts ∧ (partAt s p).host.tdi ≠ .error ∧ ((partAt s p).host.tdi = .run → own = true)
  let rings (s : State) (p k : Nat) (v : W64) : Prop := ∃ r, ringOfBell s p k = some r ∧
    (bellOf s p k).dbv.toNat < v.toNat ∧ (v - r.head).toNat ≤ 2 ^ r.logcap
  let onlyBell (s t : State) (p k : Nat) (b : Doorbell) : Prop := bellOf t p k = b ∧ ∀ j, j ≠ k → bellOf t p j = bellOf s p j
  let answered (s t : State) (o : Out) : Prop := t.dev = { s.dev with out := s.dev.out ++ [o] }
  let unsupported (s : State) (p off : Nat) (o : Host.Outcome State Fault Refusal) : Prop := ∃ t, o = .next t ∧
    (∀ j, ctxOf t j = ctxOf s j) ∧ (∀ j, coreOf t j = coreOf s j) ∧ answered s t (.unsupported p) ∧
    t.mem = if (partAt s p).host.tdi = .run then (logErr p 9 0xFF 0xFFFF 0 off 0 s).mem else s.mem
  let refuses (i : Instr) (s : State) (p : Nat) : Prop :=
    ((partAt s p).host.tdi ≠ .run → exec i s = .next s) ∧
    ((partAt s p).host.tdi = .run → Answers i s fun t => (∀ j, ctxOf t j = ctxOf s j) ∧ (∀ j, coreOf t j = coreOf s j) ∧
      (∀ j, bellOf t p j = bellOf s p j) ∧ (partAt t p).host = (partAt s p).host ∧
      tget 0 9 (partAt t p).memory.errCounts = tget 0 9 (partAt s p).memory.errCounts + 1)
  (∀ (w : DbWrite) (s : State), w.k < 64 → (w.fromPort = true → taken s w.part w.trusted) →
    let b := bellOf s w.part w.k
    let ok := w.whole = true ∧ fld b.dbc 63 1 = 1 ∧ fld b.dbc 60 2 = 0 ∧ rings s w.part w.k w.value
    (ok → fld b.dbc 62 1 = 0 ∨ fld b.dbc 36 4 = 0 → Answers (.doorbellWrite w) s fun t => Frame [] [] [w.part] s t ∧
      onlyBell s t w.part w.k { b with dbv := w.value }) ∧
    (∀ core, ok → fld b.dbc 62 1 = 1 → fld b.dbc 36 4 ≠ 0 → fld b.dbc 40 8 ≠ 0 →
      physCore s.dev w.part (fld b.dbc 28 8) = some core → semBound s core (fld b.dbc 40 8) = true →
      Answers (.doorbellWrite w) s fun t => Frame [] [core] [w.part] s t ∧
        onlyBell s t w.part w.k { b with dbv := w.value } ∧
        coreOf t core = { coreOf s core with
          semq := signalled s 7 (fld b.dbc 40 8) (fld b.dbc 36 4) (now s) (.doorbell w.k) (coreOf s core).semq }) ∧
    (w.whole = false ∨ fld b.dbc 63 1 = 0 ∨ 2 ≤ fld b.dbc 60 2 ∨ (fld b.dbc 60 2 = 0 ∧ ¬rings s w.part w.k w.value) →
      Answers (.doorbellWrite w) s fun t => Frame [] [] [w.part] s t ∧
        onlyBell s t w.part w.k { b with ign := b.ign + 1 })) ∧
  (∀ (w : DbWrite) (s : State), w.k < 64 → (w.fromPort = true → taken s w.part w.trusted) →
    let b := bellOf s w.part w.k
    let p := w.part
    let found := translate p ((partDies s.dev p).headD 0) b.dbh.toNat .read s
    let counts (t : State) : Prop := (∀ j, ctxOf t j = ctxOf s j) ∧ (∀ j, coreOf t j = coreOf s j) ∧
      onlyBell s t p w.k { b with ign := b.ign + 1 }
    let unread (s1 : State) : Prop := Answers (.doorbellWrite w) s fun t => counts t ∧
      t.mem = (logErr p 7 0xFF 0xFFFF w.k b.dbh.toNat 0 s1).mem
    w.whole = true → fld b.dbc 63 1 = 1 → fld b.dbc 60 2 = 1 →
    (∀ e s1, found = (.error e, s1) → unread s1) ∧
    (∀ x s1, found = (.ok x, s1) → (x.dest ≠ .local p ∨ fld x.pte 6 2 ≠ 0) → unread s1) ∧
    (∀ x s1 e s2, found = (.ok x, s1) → x.dest = .local p → fld x.pte 6 2 = 0 → readFrom p x.dest x.pa 8 s1 = (.error e, s2) →
      unread s2) ∧
    (∀ x s1 h s2, found = (.ok x, s1) → x.dest = .local p → fld x.pte 6 2 = 0 → readFrom p x.dest x.pa 8 s1 = (.ok h, s2) →
      let rises := b.dbv.toNat < w.value.toNat ∧ (w.value - BitVec.ofNat 64 (leNat h)).toNat ≤ 2 ^ fld b.dbc 56 4
      (¬rises → Answers (.doorbellWrite w) s fun t => counts t ∧ t.mem = s2.mem) ∧
      (rises → fld b.dbc 62 1 = 0 ∨ fld b.dbc 36 4 = 0 → Answers (.doorbellWrite w) s fun t => t.mem = s2.mem ∧
        (∀ j, ctxOf t j = ctxOf s j) ∧ (∀ j, coreOf t j = coreOf s j) ∧ onlyBell s t p w.k { b with dbv := w.value }) ∧
      (∀ core, rises → fld b.dbc 62 1 = 1 → fld b.dbc 36 4 ≠ 0 → fld b.dbc 40 8 ≠ 0 →
        physCore s.dev p (fld b.dbc 28 8) = some core → semBound s core (fld b.dbc 40 8) = true →
        Answers (.doorbellWrite w) s fun t => (∀ j, ctxOf t j = ctxOf s j) ∧ onlyBell s t p w.k { b with dbv := w.value } ∧
          coreOf t core = { coreOf s core with
            semq := signalled s 7 (fld b.dbc 40 8) (fld b.dbc 36 4) (now s) (.doorbell w.k) (coreOf s core).semq }))) ∧
  (∀ (w : DbWrite) (s : State), w.k < 64 → w.fromPort = true → ¬taken s w.part w.trusted → refuses (.doorbellWrite w) s w.part) ∧
  (∀ (s : State) (p k : Nat) (v : W64) (own : Bool), k < 64 →
    let b := bellOf s p k
    let free := (partAt s p).host.tdi = .unlocked
    (taken s p own →
      (Answers (.dbcWrite ⟨p, own⟩ k v) s fun t => Frame [] [] [p] s t ∧
        onlyBell s t p k (if free then { b with dbc := v &&& 0xFF00FFFFF0000000#64 } else b)) ∧
      (Answers (.dbhWrite ⟨p, own⟩ k v) s fun t => Frame [] [] [p] s t ∧
        onlyBell s t p k (if free then { b with dbh := v &&& 0x01FFFFFFFFFFFFF8#64 } else b)) ∧
      Answers (.dbignWrite ⟨p, own⟩ k) s fun t => Frame [] [] [p] s t ∧ onlyBell s t p k { b with ign := 0 }) ∧
    (¬taken s p own → refuses (.dbcWrite ⟨p, own⟩ k v) s p ∧ refuses (.dbhWrite ⟨p, own⟩ k v) s p ∧
      refuses (.dbignWrite ⟨p, own⟩ k) s p)) ∧
  (∀ (s : State) (p off : Nat) (data : List Byte) (own : Bool), taken s p own → data ≠ [] →
    notReady s p off data.length = false →
    Answers (.hostBar2Write p off data own) s fun t => (∀ j, ctxOf t j = ctxOf s j) ∧ (∀ j, coreOf t j = coreOf s j) ∧
      (∀ q, q ≠ p ∨ (partAt s p).memory.dramErr = [] → partAt t q = partAt s q) ∧ ∀ key, memGet t.mem key =
        if p * 2 ^ 57 + off ≤ key ∧ key < p * 2 ^ 57 + off + data.length ∧ key - p * 2 ^ 57 < usableBytes s.dev p then
          data.getD (key - (p * 2 ^ 57 + off)) 0
        else memGet s.mem key) ∧
  (∀ (s : State) (p off len : Nat) (own : Bool), 0 < len →
    (taken s p own → notReady s p off len = false → (partAt s p).memory.dramErr = [] →
      Answers (.hostBar2Read p off len own) s fun t => FrameDev [] [] [] s t ∧
        answered s t (.barData p ((List.range len).map fun i =>
          if off + i < usableBytes s.dev p then memGet (s.memBefore.getD s.mem) (p * 2 ^ 57 + (off + i)) else 0xFF))) ∧
    (taken s p own → notReady s p off len = true →
      Answers (.hostBar2Read p off len own) s fun t => FrameDev [] [] [] s t ∧ answered s t (.unsupported p)) ∧
    (¬taken s p own → unsupported s p off (exec (.hostBar2Read p off len own) s))) ∧
  (∀ (s : State) (r : HostAtomic), ¬taken s r.part r.trusted → unsupported s r.part r.off (exec (.hostAtomicop r) s)) ∧
  (∀ (s : State) (r : HostAtomic), taken s r.part r.trusted → r.size = 4 ∨ r.size = 8 → r.off % r.size = 0 →
    r.off + r.size ≤ usableBytes s.dev r.part → notReady s r.part r.off r.size = false → (partAt s r.part).memory.dramErr = [] →
    let key := r.part * 2 ^ 57 + r.off
    let bytes := memRead s.mem key r.size
    let m := 2 ^ (8 * r.size)
    let new : Nat := match r.op with
      | .fetchAdd => (leNat bytes + r.operand.toNat) % m
      | .swap => r.operand.toNat % m
      | .cas => if leNat bytes = r.compare.toNat % m then r.operand.toNat % m else leNat bytes
    Answers (.hostAtomicop r) s fun t => (∀ j, ctxOf t j = ctxOf s j) ∧ (∀ j, coreOf t j = coreOf s j) ∧
      t.dev.out = s.dev.out ++ [.barData r.part bytes] ∧ leNat (memRead t.mem key r.size) = new ∧
      ∀ a, a < key ∨ key + r.size ≤ a → memGet t.mem a = memGet s.mem a) ∧
  (∀ (s : State) (p v : Nat) (own : Bool), v < 2048 →
    let h := (partAt s p).host
    let message (x : Nat) : Out := .msix p x (fld (tget 0 x h.msixTable) 0 64) (fld (tget 0 x h.msixTable) 64 32)
    let open' := h.msixEnable = true ∧ h.msixMask = false
    (taken s p own → (∀ x ∈ h.msixPend, x ∉ h.msixOn ∨ ¬open') →
      (open' →
        Answers (.msixVectorUnmask ⟨p, own⟩ v) s fun t => FrameDev [] [] [p] s t ∧ v ∈ (partAt t p).host.msixOn ∧
          (partAt t p).host.msixPend = h.msixPend.filter (· != v) ∧
          t.dev.out = s.dev.out ++ if v ∈ h.msixPend then [message v] else []) ∧
      (¬open' → Answers (.msixVectorUnmask ⟨p, own⟩ v) s fun t => FrameDev [] [] [p] s t ∧
        v ∈ (partAt t p).host.msixOn ∧ (partAt t p).host.msixPend = h.msixPend ∧ t.dev.out = s.dev.out)) ∧
    (¬taken s p own → refuses (.msixVectorUnmask ⟨p, own⟩ v) s p) ∧
    (∀ word (x : BitVec 32), taken s p own → word < 3 →
      let t := msixWrite p v word x own s
      FrameDev [] [] [p] s t ∧ t.dev.out = s.dev.out ∧ (partAt t p).host.msixOn = h.msixOn ∧
        (partAt t p).host.msixPend = h.msixPend ∧
        (∀ k, k < 3 → fld (tget 0 v (partAt t p).host.msixTable) (32 * k) 32 =
          if k = word then x.toNat else fld (tget 0 v h.msixTable) (32 * k) 32) ∧
        ∀ y, y ≠ v → tget 0 y (partAt t p).host.msixTable = tget 0 y h.msixTable) ∧
    (∀ (x : BitVec 32), taken s p own → x.getLsbD 0 = true →
      let t := msixWrite p v 3 x own s
      v ∉ (partAt t p).host.msixOn ∧ ∀ y, y ≠ v → (y ∈ (partAt t p).host.msixOn ↔ y ∈ h.msixOn))) ∧
  (∀ (s : State) (p off : Nat) (own : Bool), off < 2 ^ 17 →
    let h := (partAt s p).host
    let b := bellOf s p (off / 32)
    let word (v : W64) : Byte := BitVec.ofNat 8 (fld v (8 * (off % 8)) 8)
    let byte : Byte :=
      if off < 0x800 then word (match off / 8 % 4 with | 0 => b.dbv | 1 => b.dbc | 2 => b.dbh | _ => b.ign.setWidth 64)
      else if 0x8000 ≤ off ∧ off < 0x10000 then
        let v := (off - 0x8000) / 16
        if off % 16 < 12 then BitVec.ofNat 8 (fld (tget 0 v h.msixTable) (8 * (off % 16)) 8)
        else if off % 16 = 12 ∧ v ∉ h.msixOn then 1 else 0
      else if 0x10000 ≤ off ∧ off < 0x10100 then
        BitVec.ofNat 8 (((List.range 8).map fun i => if 8 * (off - 0x10000) + i ∈ h.msixPend then 2 ^ i else 0).sum)
      else 0
    (taken s p own → answered s (bar0Read p off 1 own s) (.barData p [byte])) ∧
    (¬taken s p own → unsupported s p off (.next (bar0Read p off 1 own s)))) ∧
  (∀ (s : State) (p : Nat),
    let tdi := (partAt s p).host.tdi
    (tdi ≠ .error → p < s.dev.parts → Answers (.ideIntegrityFailure p) s fun t => (partAt t p).host.tdi = .error ∧
      (∀ j, (ctxOf t j).regs = (ctxOf s j).regs)) ∧
    (tdi = .error ∨ s.dev.parts ≤ p → exec (.ideIntegrityFailure p) s = .next s) ∧
    (∀ new, s.dev.fwUp = false ∨ s.dev.parts ≤ p → exec (.tdispRequest p new) s = .next s) ∧
    (∀ new, new ≠ .error → s.dev.fwUp = true → p < s.dev.parts →
      (tdi = .unlocked ∧ new = .locked ∨ tdi = .locked ∧ (new = .run ∨ new = .unlocked) ∨ tdi = .run ∧ new = .unlocked →
        Answers (.tdispRequest p new) s fun t => Frame [] [] [p] s t ∧ (partAt t p).host.tdi = new ∧
          (partAt t p).launch = (partAt s p).launch ∧ (partAt t p).memory = (partAt s p).memory) ∧
      (tdi = .error ∨ tdi = .unlocked ∧ new ≠ .locked ∨ tdi = .run ∧ new ≠ .unlocked ∨ tdi = .locked ∧ new = .locked →
        exec (.tdispRequest p new) s = .next s))) ∧
  (∀ (s : State) (p : Nat) (req : SpdmReq), 
    (s.dev.fwUp = false ∨ s.dev.parts ≤ p → exec (.spdmRequest p req) s = .next s) ∧
    (s.dev.fwUp = true → p < s.dev.parts → Answers (.spdmRequest p req) s fun t => FrameDev [] [] [] s t ∧ ∃ a, answered s t (.spdm p a) ∧
      (req = .measurement 16 → leNat a = (partAt s p).host.attest.digest.toNat)))

/-- The commands of the management mailbox (R245 to R248), their effects and MAILBOX_COMMAND_COMPLETE. The order of RESULTs
(log 34), which task a CANCEL takes (log 26), what PARTSET and WRESET keep (logs 35, 36), the numbers of a RETIRE (log 37),
the layouts of COUNTERS and PORTS (log 38) and the errors a command's read of DRAM meets (log 82) are the model's. -/
def Obligations.MailboxCommandsBeginAndComplete : Prop :=
  (∀ (i : Instr) (s : State) (r : MbRow), mbRow i = some r →
    let busy := s.dev.mb.stat.getLsbD 63 = true
    let named := fld s.dev.mb.cmd 0 16 = r.opc
    let up := (s.dev.fwUp = true ∧ (partAt s (mbTgt s)).memory.retrain = []) ∨ r.boot = true
    let fits := fld s.dev.mb.cmd 24 8 = 0 ∧ tgtFits s r = true ∧ r.fits s (mbTgt s) = true
    (busy ∨ ¬named → exec i s = .next s) ∧
    (¬busy → named → ¬up → Begins i s 6 [] (MailboxAlone s)) ∧
    (¬busy → named → up → ¬fits → Begins i s 2 [] (MailboxAlone s)) ∧
    (¬busy → named → up → fits → mbLocked s r = true → Begins i s 3 [] (MailboxAlone s))) ∧
  (∀ (s : State), s.dev.mb.stat.getLsbD 63 = false → (∀ i r, mbRow i = some r → r.opc ≠ fld s.dev.mb.cmd 0 16) →
    Begins .unknownOpc s (if s.dev.fwUp then 4 else 6) [] (MailboxAlone s)) ∧
  (∀ (s : State),
    let p := mbTgt s
    let a := mbArg s
    let m := (partAt s p).memory
    let h := (partAt s p).host
    let devBecomes (t : State) (d : Dev) : Prop := FrameDev [] [] [] s t ∧ t.dev = { d with mb := t.dev.mb }
    let memory (t : State) (x : MemSys) : Prop := OnlyPart p s t ∧ partAt t p = { partAt s p with memory := x }
    let clean (pa n : Nat) : Prop := ∀ e ∈ m.dramErr, ¬(pa / 256 ≤ e.1 ∧ e.1 ≤ (pa + n - 1) / 256)
    let host (t : State) (x : HostSide) : Prop := OnlyPart p s t ∧ partAt t p = { partAt s p with host := x }
    let bulk (t : State) (n : Nat) (f : Nat → Byte) : Prop := MailboxAlone s t ∧ ∀ j, bulkByte t j = if j < n then f j else bulkByte s j
    let bound := ∃ q, q < 4 ∧ ∃ e ∈ (partAt s q).launch.tasks, ∃ x, e.2 = some x ∧
      (x.stage = .bound ∨ x.stage = .preempting ∨ x.stage = .ending)
    let placed := m.errlog ≠ none
    (MbTaken .partset s → (bound → Begins .partset s 1 [] (MailboxAlone s)) ∧
      (¬bound → Begins .partset s 0 [] fun t => devBecomes t { s.dev with parts := a 0 })) ∧
    (MbTaken .fabaddr s → Begins .fabaddr s 0 [] fun t => devBecomes t { s.dev with group := a 0, member := a 1 }) ∧
    (MbTaken .pbase s → Begins .pbase s 0 [] fun t => host t { h with pbase := a 0 }) ∧
    (MbTaken .pair s → Begins .pair s 0 [] fun t => OnlyPart p s t ∧ ∀ y,
      y ∈ (partAt t p).host.pairs ↔ if y = (a 0, a 1) then a 2 = 1 else y ∈ h.pairs) ∧
    (MbTaken .xroot s → Begins .xroot s 0 [] fun t => memory t { m with root := some (a 0) }) ∧
    (MbTaken .xinval s →
      let lo := if a 1 = 0 then 0 else a 0
      let hi := if a 1 = 0 then 2 ^ 57 else a 0 + a 1
      Begins .xinval s 0 [] fun t => memory t { m with tlb := m.tlb.filter fun e => !e.meets lo hi } ∧
        t.dev.mb.wait = some (now s, lo, hi)) ∧
    (MbTaken .expool s →
      let n := 8 * a 1
      let good := ∀ f ∈ listedFrames s p, f % codeSize (a 2) = 0 ∧ within s p f (codeSize (a 2)) = true
      (dramBad s p (a 0) n = true → Begins .expool s 2 [] fun t => (partAt t p).memory.pool = m.pool) ∧
      (clean (a 0) n →
        (good → Begins .expool s 0 [] fun t =>
          memory t { m with pool := m.pool ++ (listedFrames s p).map fun f => (f, a 2 == 1) }) ∧
        (¬good → Begins .expool s 2 [] (MailboxAlone s)))) ∧
    (MbTaken .compress s →
      dramBad s p (a 0) (codeSize (a 1)) = true → Begins .compress s 2 [] fun t => (partAt t p).memory.frames = m.frames) ∧
    (MbTaken .compress s → clean (a 0) (codeSize (a 1)) → ∃ w, Begins .compress s 0 [(0, w)] fun t => w.toNat ≤ codeSize (a 1) ∧
      (∀ j, ctxOf t j = ctxOf s j) ∧ (∀ j, coreOf t j = coreOf s j) ∧ (∀ b,
        b < p * 2 ^ 57 + a 2 ∨ p * 2 ^ 57 + a 2 + w.toNat ≤ b → memGet t.mem b = memGet s.mem b) ∧
      ∃ x ∈ (partAt t p).memory.frames, x.frame = a 2 ∧ x.data = memRead s.mem (p * 2 ^ 57 + a 0) (codeSize (a 1))) ∧
    (MbTaken .peercopy s → Begins .peercopy s 0 [] fun t => memory t { m with peerBase := a 0, peerSize := a 1, peer := [] }) ∧
    (MbTaken .errlog s → Begins .errlog s 0 [] fun t => (∀ j, ctxOf t j = ctxOf s j) ∧
      partAt t p = { partAt s p with memory := { m with errlog := some ⟨a 0, a 1, false⟩, cntPage := a 2 } } ∧
      memRead t.mem (p * 2 ^ 57 + a 2 + 128) 16 = List.replicate 16 0 ∧
      ∀ b, b < p * 2 ^ 57 + a 2 ∨ p * 2 ^ 57 + a 2 + 144 ≤ b → memGet t.mem b = memGet s.mem b) ∧
    (MbTaken .faq s → (¬placed → Begins .faq s 1 [] (MailboxAlone s)) ∧
      (placed → Begins .faq s 0 [] fun t => partAt t p = { partAt s p with memory := { m with faq := some ⟨a 0, a 1, false⟩ } } ∧
        ∀ b, b < p * 2 ^ 57 + m.cntPage + 144 ∨ p * 2 ^ 57 + m.cntPage + 160 ≤ b → memGet t.mem b = memGet s.mem b)) ∧
    (MbTaken .migq s → (¬placed → Begins .migq s 1 [] (MailboxAlone s)) ∧
      (placed → Begins .migq s 0 [] fun t => partAt t p = { partAt s p with memory := { m with migq := some ⟨a 0, a 1, false⟩ } } ∧
        ∀ b, b < p * 2 ^ 57 + m.cntPage + 160 ∨ p * 2 ^ 57 + m.cntPage + 176 ≤ b → memGet t.mem b = memGet s.mem b)) ∧
    (MbTaken .cethr s → Begins .cethr s 0 [] fun t => memory t { m with cethr := a 0 }) ∧
    (MbTaken .phallot s →
      let used := ∃ k, a 0 ≤ k ∧ k < a 0 + a 1 ∧ (phaserOf s k).owner ≠ some p ∧ (phaserOf s k).members ≠ []
      (used → Begins .phallot s 1 [] (MailboxAlone s)) ∧
      (¬used → Begins .phallot s 0 [] fun t => FrameDev [] [] [] s t ∧ ∀ k, phaserOf t k =
        if a 0 ≤ k ∧ k < a 0 + a 1 then { phaserOf s k with owner := some p } else phaserOf s k)) ∧
    (MbTaken .latchl s → ∃ w : W64, 4 ≤ w.toNat ∧ w.toNat ≤ 40 ∧ Begins .latchl s 0 [(0, w)] (MailboxAlone s)) ∧
    (MbTaken .physmap s →
      let cores := partCores s.dev p
      Begins .physmap s 0 [] fun t => bulk t (2 * cores.length) fun j =>
        let c := cores.getD (j / 2) 0
        let w := c / 64 * 2 ^ 12 + c / 4 % 16 * 2 ^ 4 + c % 4
        BitVec.ofNat 8 (if j % 2 = 0 then w else w / 256)) ∧
    (MbTaken .signer s → Begins .signer s 0 [] fun t => OnlyPart p s t ∧
      (∀ j, j < 57 → fld (tget 0 (a 0) (partAt t p).host.signers) (8 * j) 8 = (bulkByte s j).toNat) ∧
      ∀ k, k ≠ a 0 → tget 0 k (partAt t p).host.signers = tget 0 k h.signers) ∧
    (MbTaken .load s →
      let s0 := updHost p (fun h => { h with attest := { h.attest with loads := h.attest.loads + 1 } }) s
      let counted (t : State) : Prop := (∀ j, ctxOf t j = ctxOf s j) ∧ (∀ j, coreOf t j = coreOf s j) ∧
        (partAt t p).host.attest.loads = h.attest.loads + 1
      let rejects (k : Nat) (ds : List (List Byte)) : Prop := Begins .load s 5 [(0, BitVec.ofNat 64 k)] fun t => counted t ∧
        (partAt t p).host.segs = h.segs ∧
          (partAt t p).host.attest.digest = digestAfter h.attest.loads.toNat ds.zipIdx h.attest.digest
      (∀ s1, readAll p (a 0) 128 s0 = (none, s1) → rejects 1 []) ∧
      (∀ head s1, readAll p (a 0) 128 s0 = (some head, s1) →
        (¬HeadFits head → rejects 1 []) ∧
        (∀ s2, HeadFits head → readAll p (a 0 + 128) (256 * numAt head 12 2) s1 = (none, s2) → rejects 1 []) ∧
        (∀ bytes s2, HeadFits head → readAll p (a 0 + 128) (256 * numAt head 12 2) s1 = (some bytes, s2) →
          let ds := (List.range (numAt head 12 2)).map fun i => (bytes.drop (256 * i)).take 256
          let key := tget 0 (numAt head 14 2) h.signers
          let segs := segmentsOf (numAt head 11 1) ds
          let nbvOk := 1 ≤ numAt head 11 1 ∧ numAt head 11 1 ≤ 3
          ((∃ d ∈ ds, ¬DescFits d) → rejects 1 []) ∧
          ((∀ d ∈ ds, DescFits d) → (∀ s3, ¬SegmentsLoad p (a 0) key ds s2 s3) → rejects 2 []) ∧
          (∀ s3, (∀ d ∈ ds, DescFits d) → SegmentsLoad p (a 0) key ds s2 s3 →
            let s4 := updHost p (fun x => { x with attest := extendAll ds h.attest.loads.toNat x.attest }) s3
            (¬nbvOk ∨ (headersOk p segs s4).1 = false → rejects 4 ds) ∧
            (nbvOk → (headersOk p segs s4).1 = true → Begins .load s 0 [(0, h.attest.loads)] fun t => counted t ∧
              (partAt t p).host.segs = segs ++ h.segs ∧
              (partAt t p).host.attest.digest = digestAfter h.attest.loads.toNat ds.zipIdx h.attest.digest ∧
              ∃ u, PagesMadeCode p (codePages segs) (headersOk p segs s4).2 u ∧ t.mem = u.mem ∧
                (partAt t p).memory = (partAt u p).memory))))) ∧
    (MbTaken .cancel s → ((∀ e ∈ (partAt s p).launch.tasks, ∀ x, e.2 = some x → fld x.record 167 24 ≠ a 0) → Begins .cancel s 1 [] (MailboxAlone s)) ∧
      (∀ n x, taskOfId s p (a 0) = some (n, x) → Begins .cancel s 0 [] fun t => (∀ j, (ctxOf t j).regs = (ctxOf s j).regs) ∧
        (x.stage = .bound → taskOf t p n = some { x with cancelling := true }) ∧
        (x.stage = .accepted ∨ x.stage = .ready ∨ x.stage = .preempted → taskOf t p n = none))) ∧
    (MbTaken .wreset s → Begins .wreset s 0 [] fun t => t.ccn = s.ccn ∧ t.dev.fw = s.dev.nvImage ∧
      t.dev.fwLen = s.dev.nvLen ∧ ∀ q, (p = 0xFF ∧ q < s.dev.parts ∨ p ≠ 0xFF ∧ p = q) →
      (partAt t q).launch = Launch.reset ∧ (partAt t q).host.tdi = .unlocked ∧ (partAt t q).memory.root = none ∧
        (partAt t q).host.signers = (partAt s q).host.signers ∧ (partAt t q).host.attest = Attest.reset ∧
        (partAt t q).host.keys = [] ∧ ((partAt s q).host.leftUnlocked = false → p = q → t.mem = s.mem) ∧
        ((partAt s q).host.leftUnlocked = true → ∀ b, q * 2 ^ 57 ≤ b → b < (q + 1) * 2 ^ 57 → memGet t.mem b = 0) ∧
        ∀ core ∈ partCores s.dev q, coreOf t core = Core.reset ∧ ∀ sl, sl < 5 → ctxOf t (ctxId core sl) = Ctx.reset) ∧
    (MbTaken .badadd s → (8192 ≤ s.dev.badPages.length → Begins .badadd s 1 [] (MailboxAlone s)) ∧
      (s.dev.badPages.length < 8192 → Begins .badadd s 0 [] fun t =>
        devBecomes t { s.dev with badPages := s.dev.badPages ++ [a 0] })) ∧
    (MbTaken .badread s → Begins .badread s 0 [(0, BitVec.ofNat 64 s.dev.badPages.length)] fun t =>
      bulk t (8 * min 7680 (s.dev.badPages.length - a 0)) fun j =>
        BitVec.ofNat 8 (s.dev.badPages.getD (a 0 + j / 8) 0 / 2 ^ (8 * (j % 8)))) ∧
    (MbTaken .retire s → (boundOn s (a 0) (a 1) = true → Begins .retire s 1 [] (MailboxAlone s)) ∧
      (boundOn s (a 0) (a 1) = false → Begins .retire s 0 [] fun t => FrameDev [] [] [] s t ∧
        (∀ q, t.dev.quads.getLsbD q = (s.dev.quads.getLsbD q && !decide (a 0 = 1 ∧ q = a 1))) ∧
        ∀ c i, i < 16 → (tget 0 c t.dev.chansOff).getLsbD i = ((tget 0 c s.dev.chansOff).getLsbD i ||
          decide (a 0 = 2 ∧ a 1 = 16 * c + i ∨ a 0 = 3 ∧ a 1 = c)))) ∧
    (MbTaken .counters s → Begins .counters s 0 [] fun t => bulk t (8 * (8 * 256 + 128)) fun j =>
      BitVec.ofNat 8 ((tget 0 (j / 8) m.counters).toNat / 2 ^ (8 * (j % 8)))) ∧
    (MbTaken .ports s → Begins .ports s 0 [] fun t => MailboxAlone s t ∧ ∀ k, k < 95 →
      bulkByte t (16 * k + 8) = BitVec.ofNat 8 (portOf s k).lanes ∧
      bulkByte t (16 * k + 12) = if (portOf s k).up then 1 else 0) ∧
    (MbTaken .trace s → Begins .trace s 0 [] fun t =>
      host t { h with traceBase := a 0, traceSize := a 1, traceOn := a 2 == 1 }) ∧
    (MbTaken .fwprov s →
      let writes (t : State) (n : Nat) : Prop := FrameDev [] [] [] s t ∧ t.dev.nvLen = n ∧ ∀ j, tget 0 j t.dev.nvImage =
        if a 0 ≤ j ∧ j < a 0 + a 1 then bulkByte s (j - a 0) else tget 0 j s.dev.nvImage
      (a 2 = 0 → Begins .fwprov s 0 [] fun t => writes t s.dev.nvLen) ∧
      (a 2 = 1 → ∃ n, (n = 0 ∨ n = 2) ∧ Begins .fwprov s n [] fun t => writes t (a 0 + a 1)))) ∧
  (∀ (s : State) (result : Nat) (words : List (Nat × W64)), s.dev.mb.pending = some (result, words) → result < 7 →
    let m := s.dev.mb
    (commandDone s = true → Answers .mailboxCommandComplete s fun t => FrameDev [] [] [0] s t ∧
      (partAt t 0).launch = (partAt s 0).launch ∧ (partAt t 0).memory = (partAt s 0).memory ∧
      t.dev.mb.pending = none ∧ t.dev.mb.stat.toNat = fld m.run 32 32 * 2 ^ 16 + result ∧
      (∀ k, (∀ w ∈ words, w.1 ≠ k) → tget 0 k t.dev.mb.rsp = tget 0 k m.rsp) ∧
      (∀ w, words = [w] → tget 0 w.1 t.dev.mb.rsp = w.2) ∧
      (fld m.cfg 63 1 = 1 →
        let v := fld m.cfg 0 11
        let h := (partAt s 0).host
        (v ∈ h.msixOn ∧ h.msixEnable = true ∧ h.msixMask = false → t.dev.out = s.dev.out ++
          [.msix 0 v (fld (tget 0 v h.msixTable) 0 64) (fld (tget 0 v h.msixTable) 64 32)]) ∧
        (v ∉ h.msixOn ∨ h.msixEnable = false ∨ h.msixMask = true →
          t.dev.out = s.dev.out ∧ v ∈ (partAt t 0).host.msixPend)) ∧
      (fld m.cfg 63 1 = 0 → t.dev.out = s.dev.out ∧ partAt t 0 = partAt s 0)) ∧
    (commandDone s = false → exec .mailboxCommandComplete s = .next s)) ∧
  (∀ (s : State) (off len : Nat),
    let m := s.dev.mb
    let k := off / 8 % 32
    let reads (b : List Byte) : Prop := (mbRead off len s).dev = { s.dev with out := s.dev.out ++ [.barData 0 b] }
    let words (w : W64) : Prop := reads (leBytes 8 w.toNat)
    (len ≠ 8 ∨ off % 8 ≠ 0 → reads (List.replicate len 0xFF)) ∧
    (len = 8 → off % 8 = 0 →
      (off = 0 → words (m.cmd &&& 0xFFFFFFFF00FFFFFF#64)) ∧ (off = 8 → words 0) ∧ (off = 0x10 → words m.stat) ∧ (off = 0x18 → words m.cfg) ∧
      (off / 0x100 = 1 → words (tget 0 k m.args)) ∧ (off / 0x100 = 2 → words (tget 0 k m.rsp)) ∧
      (0x1000 ≤ off ∧ off < 0x10000 → reads ((List.range 8).map fun i => bulkByte s (off - 0x1000 + i))) ∧
      (0x20 ≤ off ∧ off < 0x100 ∨ 0x300 ≤ off ∧ off < 0x1000 ∨ 0x10000 ≤ off → words 0xFFFFFFFFFFFFFFFF#64)))

/-- The fabric ports (R228, R229, R232 to R235) and the events of controllers, scrubbers, counters and translation units
(R13, R80, R177, R192, R195, R197, R231, R274). What a refused request answers (log 31), the port of an answer (log 69),
which group a tag is of and which flits it asks for again (log 67), KIND 10 in every partition (log 70), the scrubber's
pace (log 63), the page kept beside a frame (log 7) and the count that starts again (log 86) are the model's. -/
def Obligations.FabricAndDeviceEventsActAsStated : Prop :=
  let opened (s : State) (port : Nat) : Prop :=
    s.dev.fwUp = true ∧ port < 95 ∧ (portOf s port).up = true ∧ (portOf s port).retraining = false
  let becomes (s t : State) (port : Nat) (x : Port) : Prop := FrameDev [] [] [] s t ∧
    ∀ j, portOf t j = if j = port then x else portOf s j
  let sends (s t : State) (o : Out) : Prop := t.dev.out = s.dev.out ++ [o]
  let quiet (s t : State) : Prop := t.dev.out = s.dev.out
  let still (s t : State) : Prop := (∀ j, ctxOf t j = ctxOf s j) ∧ (∀ j, coreOf t j = coreOf s j)
  let isDown (s t : State) (port : Nat) : Prop := still s t ∧
    (∀ j, portOf t j = if j = port then { portOf s port with
      up := false, retraining := false, retry := [], reseq := [], held := [], queue := [] } else portOf s j) ∧
    t.mem = ((List.range s.dev.parts).foldl (fun s p => logErr p 10 0xFF 0xFFFF port 0 0 s) s).mem
  let memory (s t : State) (p : Nat) (x : MemSys) : Prop := Frame [] [] [p] s t ∧ partAt t p = { partAt s p with memory := x }
  (∀ (s : State) (port n : Nat) (good : Bool) (w : W64),
    let x := portOf s port
    let size := if port < 31 then 2 ^ 12 else 2 ^ 16
    let seq := n % size
    let last := (x.recvSeq + size - 1) % size
    let before (a b : Nat) : Prop := (a + size - b) % size < size / 2
    let flit : Instr := .flitReceive port n good w
    (¬opened s port → exec flit s = .next s) ∧
    (opened s port → port < 31 →
      (good = true → seq = x.recvSeq → Answers flit s fun t => sends s t (.ack port seq 0 true) ∧
        becomes s t port { x with recvSeq := (seq + 1) % size, delivered := x.delivered ++ [w], nak := none }) ∧
      (good = true → seq ≠ x.recvSeq → before last seq → Answers flit s fun t => sends s t (.ack port last 0 true) ∧
        becomes s t port x) ∧
      (good = false ∨ seq ≠ x.recvSeq ∧ ¬before last seq →
        Answers flit s fun t => becomes s t port { x with nak := some (x.recvSeq, seq) } ∧
          ((∃ old, x.nak = some (x.recvSeq, old) ∧ seq ≠ old ∧ ¬before old seq) → quiet s t) ∧
          ((∀ old, x.nak = some (x.recvSeq, old) → seq = old ∨ before old seq) → sends s t (.ack port last 0 false)))) ∧
    (opened s port → 31 ≤ port → x.recvSeq < size →
      let ahead := (seq + size - x.recvSeq) % size
      let kept (y : Port) : Prop := Answers flit s fun t => becomes s t port y ∧
        ∃ got : BitVec 256, (∀ i, i < 256 → (got.getLsbD i = true ↔ ∃ f ∈ y.reseq, f.1 = (y.recvSeq + i) % size)) ∧
          sends s t (.ack port ((y.recvSeq + size - 1) % size) got true)
      (good = false ∨ 4096 ≤ ahead ∨ (∃ f ∈ x.reseq, f.1 = seq) → kept x) ∧
      (good = true → ahead < 4096 → (∀ f ∈ x.reseq, f.1 ≠ seq) →
        (∀ run later, ahead = 0 → x.reseq = (run.zipIdx.map fun e => ((seq + 1 + e.2) % size, e.1)) ++ later →
          run.length < 4096 → (∀ f ∈ later, ∀ j, j ≤ run.length → f.1 ≠ (seq + 1 + j) % size) →
          kept { x with recvSeq := (seq + 1 + run.length) % size, reseq := later, delivered := x.delivered ++ w :: run }) ∧
        (ahead ≠ 0 → (∀ f ∈ x.reseq, f.1 ≠ x.recvSeq) → kept { x with reseq := x.reseq ++ [(seq, w)] })))) ∧
  (∀ (s : State) (port base : Nat) (bitmap : BitVec 256) (nak : Bool),
    let size := if port < 31 then 2 ^ 12 else 2 ^ 16
    let b := base % size
    let after (q : Nat) := (q + size - b - 1) % size
    let acked (q : Nat) : Bool := decide ((b + size - q) % size < size / 2) ||
      (decide (31 ≤ port) && decide (after q < 256) && bitmap.getLsbD (after q))
    let numbers (l : List (Nat × W64 × Nat)) := l.map fun f => (f.1, f.2.1)
    (¬opened s port → exec (.linkAck port base bitmap nak) s = .next s) ∧
    (∀ n o, opened s port → port < 31 → nak = false → (portOf s port).queue = [(n, o)] →
      let left := (portOf s port).retry.filter fun f => !acked f.1
      Answers (.linkAck port base bitmap nak) s fun t => FrameDev [] [] [] s t ∧
        (left.length + n ≤ 512 → sends s t o ∧ (portOf t port).queue = [] ∧ ∃ l, l.length = n ∧ (portOf t port).retry = left ++ l) ∧
        (512 < left.length + n → quiet s t ∧ (portOf t port).queue = [(n, o)] ∧ (portOf t port).retry = left)) ∧
    (opened s port → (portOf s port).queue = [] → Answers (.linkAck port base bitmap nak) s fun t => FrameDev [] [] [] s t ∧
      (∀ j, j ≠ port → portOf t j = portOf s j) ∧ (portOf t port).delivered = (portOf s port).delivered ∧
      (portOf t port).recvSeq = (portOf s port).recvSeq ∧
      numbers (portOf t port).retry = numbers ((portOf s port).retry.filter fun f => !acked f.1) ∧
      (port < 31 → nak = false → quiet s t ∧ (portOf t port).retry = (portOf s port).retry.filter fun f => !acked f.1) ∧
      (port < 31 → nak = true → t.dev.out = s.dev.out ++
        ((portOf s port).retry.filter fun f => !acked f.1).map fun f => .resend port f.1))) ∧
  (∀ (s : State) (port : Nat), (portOf s port).retraining = true →
    ((portOf s port).queue = [] → Answers (.linkRetrain port true) s fun t => becomes s t port { portOf s port with
      retraining := false, retry := (portOf s port).retry.map fun f => (f.1, f.2.1, 0) }) ∧
    Answers (.linkRetrain port false) s fun t => isDown s t port) ∧
  (∀ (s : State) (port good : Nat), port < 95 →
    let x := portOf s port
    let runs := if port < 31 then (if 16 ≤ good then 16 else if 8 ≤ good then 8 else if 4 ≤ good then 4 else 0)
      else if good < 32 then 0 else min good 128
    let y := { x with lanes := min runs x.lanes }
    (y.lanes ≠ 0 → Answers (.laneFailure port good) s fun t => becomes s t port y) ∧
    (y.lanes = 0 → Answers (.laneFailure port good) s fun t => isDown (setPort port y s) t port)) ∧
  (∀ (s : State) (port : Nat), opened s port →
    let x := portOf s port
    (∀ ok, x.held = [] → exec (.gcmTagVerify port ok) s = .next s) ∧
    (∀ h fails rest, x.held = (h, fails) :: rest →
      (∀ core pkt, h = .answer core pkt → Answers (.gcmTagVerify port true) s fun t =>
        FrameDev [] [core] [partOfCore s.dev core] s t ∧
        t.dev = (setPort port { x with held := rest } s).dev ∧ (coreOf t core).cq = (coreOf s core).cq ∧
        (coreOf t core).st = (coreOf s core).st ∧
        (coreOf t core).pkts = (coreOf s core).pkts.map fun q =>
          if q.id = pkt ∧ q.port = some port then { q with port := none } else q) ∧
      (∀ r u, h = .request r → r.port = port → r.held = true →
        exec (.remoteRequestArrival { r with held := false }) (setPort port { x with held := rest } s) = .next u →
        Answers (.gcmTagVerify port true) s fun t => (∃ dev free, u = { t with dev := dev, free := free }) ∧
          (∀ j, j ≠ port → portOf t j = portOf u j) ∧
          ∀ d, sends s u (.reply r.tag d) → x.queue = [] →
            let n := 1 + (d.length + 63) / 64
            x.retry.length + (n + (n + 15) / 16) ≤ (if port < 31 then 512 else 4096) →
              sends s t (.reply r.tag d) ∧ (portOf t port).retry.length = x.retry.length + (n + (n + 15) / 16)) ∧
      (∀ core pkt q, h = .answer core pkt → pktOf s core pkt = some q → q.port = some port → q.bad = 0 →
        Answers (.gcmTagVerify port true) s fun t => (partAt t (partOfCore s.dev core)).memory =
          { (partAt s (partOfCore s.dev core)).memory with
            peer := (partAt s (partOfCore s.dev core)).memory.peer.map fun y =>
              if y.filling = some pkt then { y with filling := none } else y }) ∧
      (fails < 7 →
        let size := if port < 31 then 2 ^ 12 else 2 ^ 16
        let want := (x.recvSeq + size - groupFlits h s % size) % size
        Answers (.gcmTagVerify port false) s fun t =>
          becomes s t port { x with
            held := (h, fails + 1) :: rest, recvSeq := want
            delivered := x.delivered.take (x.delivered.length - groupFlits h s)
            nak := if port < 31 then some (want, (x.recvSeq + size - 1) % size) else x.nak } ∧
          ∃ got, sends s t (.ack port ((want + size - 1) % size) got (decide (31 ≤ port)))) ∧
      (7 ≤ fails → Answers (.gcmTagVerify port false) s fun t => isDown s t port))) ∧
  (∀ (s : State) (r : RemoteReq),
    let arrival : Instr := .remoteRequestArrival r
    let base := r.part * 2 ^ 57 + r.addr
    let serves (n : Nat) : Prop := opened s r.port ∧ r.held = false ∧ r.part < s.dev.parts ∧
      r.addr + n ≤ usableBytes s.dev r.part ∧ r.addr < 0x01FFFFFFFFFF0000
    let x := portOf s r.port
    let replies (t : State) (d : List Byte) : Prop :=
      let n := 1 + (d.length + 63) / 64
      let cap := if r.port < 31 then 512 else 4096
      (x.queue = [] → x.retry.length + n ≤ cap → sends s t (.reply r.tag d) ∧ (portOf t r.port).queue = [] ∧
        (portOf t r.port).retry.length = x.retry.length + n) ∧
      (x.queue = [] → cap < x.retry.length + n → quiet s t ∧ (portOf t r.port).queue = [(n, .reply r.tag d)] ∧
        (portOf t r.port).retry = x.retry)
    let ready (n : Nat) : Prop := notReady s r.part r.addr n = false
    let sound := (partAt s r.part).memory.dramErr = []
    (¬opened s r.port → exec arrival s = .next s) ∧
    (opened s r.port → r.held = true → (∀ e ∈ (portOf s r.port).held, ∀ q, e.1 = .request q → q.tag ≠ r.tag) →
      Answers arrival s fun t =>
        becomes s t r.port { portOf s r.port with held := (portOf s r.port).held ++ [(.request r, 0)] }) ∧
    (∀ data, serves data.length → r.op = .write data → ready data.length → Answers arrival s fun t => still s t ∧
      replies t [] ∧ ∀ key, memGet t.mem key =
        if base ≤ key ∧ key < base + data.length then data.getD (key - base) 0 else memGet s.mem key) ∧
    (∀ n, serves n → r.op = .read n → ready n → sound → Answers arrival s fun t => FrameDev [] [] [] s t ∧
      replies t (memRead (s.memBefore.getD s.mem) base n)) ∧
    (∀ op n v cmp, serves n → r.op = .atomic op n v cmp → ready n → sound → Answers arrival s fun t => still s t ∧
      replies t (memRead s.mem base n) ∧
      (op < 10 → leNat (memRead t.mem base n) =
        amoResult op (8 * n) (leNat (memRead s.mem base n)) (v % 2 ^ (8 * n)) (cmp % 2 ^ (8 * n))) ∧
      (∀ key, key < base ∨ base + n ≤ key → memGet t.mem key = memGet s.mem key)) ∧
    (∀ n, opened s r.port → r.held = false → r.op = .read n → r.addr < 0x01FFFFFFFFFF0000 →
      s.dev.parts ≤ r.part ∨ usableBytes s.dev r.part < r.addr + n → Answers arrival s fun t => still s t ∧
        replies t [])) ∧
  (∀ (s : State) (hot : Bool), Answers (.powerLimiter hot) s fun t => FrameDev [] [] [] s t ∧
    t.dev = { s.dev with slowClock := hot }) ∧
  (∀ (s : State) (p c : Nat),
    let m := (partAt s p).memory
    let k := 2048 + (partCtrls s.dev p).findIdx (· == c)
    (Answers (.controllerRetrainComplete p c) s fun t => memory s t p { m with retrain := m.retrain.filter (· != c) }) ∧
    (Answers (.refreshLimitReached p c) s fun t =>
      memory s t p { m with counters := tset 0 k (tget 0 k m.counters + 1) m.counters }) ∧
    (m.cethr = 0 ∨ tget 0 c m.ceCount < m.cethr → exec (.correctableThresholdCrossed p c) s = .next s) ∧
    (m.cethr ≠ 0 → m.cethr ≤ tget 0 c m.ceCount → Answers (.correctableThresholdCrossed p c) s fun t =>
      still s t ∧ (partAt t p).memory.ceCount = tset 0 c 0 m.ceCount)) ∧
  (∀ (s : State) (core : Nat),
    let st := (coreOf s core).st
    let size (a : Nat) := if a < 8 then 768 else 1024
    let n (a : Nat) := (now s - tget 0 a st.held) * size a / 2 ^ 27
    let row (a : Nat) := 768 * a + (n a - 1) % size a
    let stands (a : Nat) := n a ≤ tget 0 a st.scrubbed ∨ a ∈ st.rdUsed ++ st.wrUsed ++ drainBlocks s core
    ((∀ a, a < 9 → stands a) → exec (.scrubberPass core) s = .next s) ∧
    (∀ a, a < 9 → ¬stands a → (∀ b, b < a → stands b) → (∀ w, w < 64 → tget 0 (64 * row a + w) st.ecc ≤ 1) →
      Answers (.scrubberPass core) s fun t =>
      (∀ j, ctxOf t j = ctxOf s j) ∧ (coreOf t core).st.rows = st.rows ∧ (coreOf t core).st.acc = st.acc ∧
        (coreOf t core).st.tags = st.tags ∧ tget 0 a (coreOf t core).st.scrubbed = n a ∧
        ∀ key, tget 0 key (coreOf t core).st.ecc = if key / 64 = row a then 0 else tget 0 key st.ecc)) ∧
  (∀ (s : State) (p die x : Nat),
    let m := (partAt s p).memory
    (∀ y, m.acc.find? (fun y => y.die == die && y.region == x && decide (2 ^ (y.act + 7) ≤ y.count)) = some y →
      Answers (.accessCounterThreshold p die x) s fun t => still s t ∧
        (partAt t p).memory.acc = m.acc.map fun z => if z = y then { z with count := 0 } else z) ∧
    ((die, x) ∉ m.walks → exec (.tlbWalkComplete p die x) s = .next s) ∧
    (∀ l, (die, x) ∈ m.walks → m.dramErr = [] → walk s p (65536 * x) = some l →
      (m.tlb.filter fun e => e.die == die).length < 4096 →
      Answers (.tlbWalkComplete p die x) s fun t => memory s t p { m with
        walks := m.walks.erase (die, x), tlb := m.tlb ++ [⟨die, x, l.level, l.pte, l.home⟩] })) ∧
  (∀ (s : State) (p x : Nat),
    let m := (partAt s p).memory
    let expansion : Instr := .compressedPageExpansion p x
    (x ∉ m.expanding → exec expansion s = .next s) ∧
    (∀ l, x ∈ m.expanding → walk s p (65536 * x) = some l →
      let left := m.tlb.filter fun e => e.home != l.home
      let large : Bool := l.level == 2
      (l.pte.getLsbD 8 = false → Answers expansion s fun t =>
        memory s t p { m with expanding := m.expanding.erase x, tlb := left }) ∧
      (l.pte.getLsbD 8 = true → (∀ f ∈ m.pool, f.2 ≠ large) → Answers expansion s fun t =>
        (partAt t p).memory.expanding = m.expanding.erase x ∧ (partAt t p).memory.pool = m.pool ∧
          (partAt t p).memory.frames = m.frames ∧ t.mem = s.mem) ∧
      (∀ f, l.pte.getLsbD 8 = true → m.pool.find? (fun f => f.2 == large) = some f → f.1 < 2 ^ 57 →
        let n := if large then 2 ^ 21 else 2 ^ 16
        let entry := p * 2 ^ 57 + l.home
        let frame := p * 2 ^ 57 + f.1
        let old := 512 * fld l.pte 64 48
        entry + 16 ≤ frame ∨ frame + n ≤ entry → BitVec.ofNat 128 (leNat (memRead s.mem entry 16)) = l.pte →
        ∃ u, exec expansion s = .next (postFaq p old 3 (granulePlace u p (old / 256)).1 (granulePlace u p (old / 256)).2 u) ∧
          still s u ∧ partAt u p = { partAt s p with memory := { m with
            expanding := m.expanding.erase x, tlb := left, pool := m.pool.erase f
            frames := m.frames.filter fun y => y.frame != old } } ∧
          (∀ i, i < 128 → (leNat (memRead u.mem entry 16)).testBit i =
            if i = 8 then false else if 64 ≤ i ∧ i < 112 then (f.1 / 512).testBit (i - 64) else l.pte.getLsbD i) ∧
          (∀ y, m.frames.find? (fun y => y.frame == old && y.large == large) = some y → y.data.length = n →
            memRead u.mem frame n = y.data) ∧
          ((∀ y ∈ m.frames, y.data.length ≤ n) → ∀ key, (key < entry ∨ entry + 16 ≤ key) → (key < frame ∨ frame + n ≤ key) →
            memGet u.mem key = memGet s.mem key))))

/-- State.reset, and COLD_RESET (R200, R272): the values the spec gives for reset, and the canonical form of memory. That semaphores
start at 0 (log 2) and that COLD_RESET keeps the quads (log 36) are the model's (DESIGN CHOICE). -/
def Obligations.ResetLeavesTheStatedValues : Prop :=
  let stated (t : State) : Prop := t.ccn = 0 ∧ memWf t.mem = true ∧
    (∀ core,
      let k := coreOf t core
      k.sel.last = 3 ∧ k.sup.trapc = 0 ∧ k.sup.trapa = 0 ∧ k.sup.trapv = 0xF000000000000000#64 ∧
        k.mx.act = 0 ∧ k.mx.doff = 0 ∧ k.mx.bw = 128 ∧ k.mx.bank0 = k.mx.bank1 ∧ k.mx.bank0.w = [] ∧
        k.mx.bank0.kv = 0 ∧ k.mx.bank0.nv = 0 ∧ k.mx.bank0.intw = true ∧ k.mx.bank0.wsc = false ∧
        (∀ i, tget 0 i k.sems = 0)) ∧
    (∀ p,
      let x := partAt t p
      x.launch.lcb = 0 ∧ (∀ i, tget 0 i x.memory.counters = 0) ∧ x.host.attest.digest = 0 ∧ x.host.attest.loads = 0 ∧
        x.host.tdi = .unlocked ∧ ∀ k, bellOf t p k = { dbv := 0, dbc := 0, dbh := 0, ign := 0 }) ∧
    (∀ k, let x := phaserOf t k
      x.cnt = 0 ∧ x.nsig = 0 ∧ x.arr = 0 ∧ x.drops = 0 ∧ x.owner = none) ∧
    (∀ id, let c := (ctxOf t id).ctl
      c.flush = 0 ∧ c.rmode = 0 ∧ c.flags = 0 ∧ c.subst = 0 ∧ ∀ i, tget 0 i c.fm = 0) ∧
    t.dev.mb.cmd = 0 ∧ t.dev.mb.stat = 0 ∧ t.dev.mb.cfg = 0 ∧ (∀ i, tget 0 i t.dev.mb.args = 0) ∧
    (∀ i, tget 0 i t.dev.mb.rsp = 0)
  stated State.reset ∧
  ∀ s, Answers .coldReset s fun t => stated t ∧ t.dev.nvImage = s.dev.nvImage ∧ t.dev.nvLen = s.dev.nvLen ∧
    t.dev.fw = s.dev.nvImage ∧ t.dev.fwLen = s.dev.nvLen ∧
    t.dev.badPages = s.dev.badPages ∧ t.dev.quads = s.dev.quads

/-- Equal memories stay equal data: the step keeps the canonical form (log 2 says what an unlisted byte reads as). -/
def Obligations.StepKeepsMemoryCanonical : Prop :=
  ∀ (s t : State), memWf s.mem = true → step s = .next t → memWf t.mem = true
end

