-- ==== Sys2Proof/Laws/Encoding.lean ====
section
/-! SUPPORT. Every syllable the encoder writes fits in its slot (R120). -/

namespace Sys2Proof

theorem encS_lt (op : BitVec 8) (f : SSyl) : (encS op f).toNat < 2 ^ Slot.s.width := by
  have h := (op ++ f.d ++ f.a ++ f.b ++ f.g ++ f.gn ++ f.imm : BitVec 64).isLt
  simp only [encS, BitVec.toNat_setWidth, Slot.width]
  omega

theorem encV_slot_lt (cl : Cluster) (op : BitVec 8) (f : VSyl) : (encV op f).toNat < 2 ^ cl.slot.width := by
  have h := (op ++ f.t ++ f.d ++ f.a ++ f.b ++ f.c ++ f.p ++ f.z ++ f.m ++ f.x : BitVec 64).isLt
  cases cl <;> simp only [encV, BitVec.toNat_setWidth, Slot.width, Cluster.slot] <;> omega

theorem encL_lt (op : BitVec 6) (f : LSyl) : (encL op f).toNat < 2 ^ Slot.ld.width := by
  have h := (op ++ f.cl ++ f.d ++ f.blk ++ f.lane ++ f.am ++ f.sb ++ f.off ++ f.p ++ f.zero : BitVec 40).isLt
  simp only [encL, BitVec.toNat_setWidth, Slot.width]
  omega

theorem encY_lt (op : BitVec 6) (f : YSyl) : (encY op f).toNat < 2 ^ Slot.sy.width := by
  have h := (op ++ f.sill ++ f.idx ++ f.val ++ f.sc ++ f.agent ++ f.store ++ f.imm : BitVec 48).isLt
  simp only [encY, BitVec.toNat_setWidth, Slot.width]
  omega

theorem nop_lt {sl sl' : Slot} {b w : BitVec 96} (hw : (Instr.nop sl b).wf = true)
    (h : encodeSyl (.nop sl b) = some (sl', w)) : w.toNat < 2 ^ sl'.width := by
  simp only [encodeSyl, Option.some.injEq, Prod.mk.injEq] at h
  obtain ⟨rfl, rfl⟩ := h
  simp only [Instr.wf, Machine.enc, Machine.nz, Bool.not_false, Bool.true_and, Bool.and_eq_true, Bool.not_eq_true'] at hw
  obtain ⟨hw, -⟩ := hw
  cases sl
  case sy =>
    simp only [if_true, bne_eq_false_iff_eq] at hw
    have hb : b = b &&& BitVec.ofNat 96 (2 ^ 41) := by
      ext n hn
      have := congrArg (fun x : BitVec 96 => x.getLsbD n) hw
      simp only [BitVec.getLsbD_and, BitVec.getLsbD_not, hn, decide_true, Bool.true_and] at this
      simp only [← BitVec.getLsbD_eq_getElem]
      cases hb : b.getLsbD n <;> simp_all
    rw [hb, BitVec.toNat_and]
    exact Nat.lt_of_le_of_lt Nat.and_le_right (by decide)
  all_goals
    simp only [reduceCtorEq, if_false, bne_eq_false_iff_eq] at hw
    subst hw
    decide

theorem hint_lt {sl sl' : Slot} {b w : BitVec 96} (hw : (Instr.hintRegion sl b).wf = true)
    (h : encodeSyl (.hintRegion sl b) = some (sl', w)) : w.toNat < 2 ^ sl'.width := by
  simp only [encodeSyl, Option.some.injEq, Prod.mk.injEq] at h
  obtain ⟨rfl, rfl⟩ := h
  simp only [Instr.wf, Instr.tagOk, Bool.and_eq_true] at hw
  obtain ⟨-, hw⟩ := hw
  cases sl <;> simp only [hintSyllable, beq_iff_eq, Bool.and_eq_true] at hw <;> simp only [Slot.width] <;> omega

end Sys2Proof
end

