-- ==== Sys2Proof/Laws/Sparse.lean ====
section
/-! SUPPORT. The tables: what a write leaves to read, and that it keeps the canonical form. -/

namespace Sys2Proof.Machine

variable {α : Type}

theorem tget_tdel_ne (d : α) {j k : Nat} (h : j ≠ k) : (m : Sparse α) → tget d j (tdel k m) = tget d j m
  | [] => rfl
  | (i, w) :: m => by
    by_cases hi : i = k
    · subst hi; simp [tdel, tget, tget_tdel_ne d h m, Ne.symm h]
    · simp [tdel, tget, hi, tget_tdel_ne d h m]

theorem tget_tdel_same (d : α) (k : Nat) : (m : Sparse α) → tget d k (tdel k m) = d
  | [] => rfl
  | (i, w) :: m => by
    by_cases hi : i = k <;> simp [tdel, tget, hi, tget_tdel_same d k m]

theorem tget_tins_ne (d v : α) {j k : Nat} (h : j ≠ k) : (m : Sparse α) → tget d j (tins k v m) = tget d j m
  | [] => by simp [tins, tget, Ne.symm h]
  | (i, w) :: m => by
    by_cases hk : k < i
    · simp [tins, hk, tget, Ne.symm h]
    · simp [tins, tget, hk, tget_tins_ne d v h m]

theorem tget_tins_tdel (d v : α) (k : Nat) : (m : Sparse α) → tget d k (tins k v (tdel k m)) = v
  | [] => by simp [tins, tdel, tget]
  | (i, w) :: m => by
    by_cases hi : i = k
    · simp only [tdel, hi, if_true]; exact tget_tins_tdel d v k m
    · by_cases hk : k < i
      · simp [tdel, hi, tins, hk, tget]
      · simp [tdel, hi, tins, hk, tget, tget_tins_tdel d v k m]

/-- Entries of a table that rises from `b` are above any lower number. -/
theorem risingFrom_mono {a b : Nat} (h : a ≤ b) : (m : Sparse α) → risingFrom b m = true → risingFrom a m = true
  | [], _ => rfl
  | (j, _) :: m, hb => by
    simp only [risingFrom, Bool.and_eq_true, decide_eq_true_eq] at hb ⊢
    exact ⟨by omega, hb.2⟩

theorem risingFrom_tdel (k : Nat) : (lo : Nat) → (m : Sparse α) → risingFrom lo m = true →
    risingFrom lo (tdel k m) = true
  | _, [], _ => rfl
  | lo, (j, v) :: m, h => by
    simp only [risingFrom, Bool.and_eq_true, decide_eq_true_eq] at h
    unfold tdel
    split
    · exact risingFrom_tdel k lo m (risingFrom_mono (by omega) m h.2)
    · simp [risingFrom, h.1, risingFrom_tdel k j m h.2]

theorem risingFrom_tins (k : Nat) (v : α) : (lo : Nat) → lo < k → (m : Sparse α) → risingFrom lo m = true →
    (∀ e ∈ m, e.1 ≠ k) → risingFrom lo (tins k v m) = true
  | _, hk, [], _, _ => by simp [tins, risingFrom, hk]
  | lo, hk, (j, w) :: m, h, hn => by
    simp only [risingFrom, Bool.and_eq_true, decide_eq_true_eq] at h
    have hj : j ≠ k := hn (j, w) (by simp)
    unfold tins
    split
    · next hc => simp [risingFrom, hk, hc, h.2]
    · next hc =>
      simp [risingFrom, h.1, risingFrom_tins k v j (by omega) m h.2 (fun e he => hn e (by simp [he]))]

/-- A number taken out is not in the table. -/
theorem not_mem_tdel (k : Nat) : (m : Sparse α) → ∀ e ∈ tdel k m, e.1 ≠ k
  | [], e, h => by simp [tdel] at h
  | (j, v) :: m, e, h => by
    unfold tdel at h
    split at h
    · exact not_mem_tdel k m e h
    · next hj =>
      rcases List.mem_cons.mp h with h | h
      · simpa [h] using hj
      · exact not_mem_tdel k m e h

section
variable [DecidableEq α]

@[simp] theorem tget_tset_same (d v : α) (k : Nat) (m : Sparse α) : tget d k (tset d k v m) = v := by
  unfold tset
  split
  · next h => rw [tget_tdel_same, h]
  · exact tget_tins_tdel d v k m

theorem tget_tset_ne (d v : α) {j k : Nat} (h : j ≠ k) (m : Sparse α) : tget d j (tset d k v m) = tget d j m := by
  unfold tset
  split
  · exact tget_tdel_ne d h m
  · rw [tget_tins_ne d v h, tget_tdel_ne d h]

theorem tget_tset (d v : α) (j k : Nat) (m : Sparse α) :
    tget d j (tset d k v m) = if j = k then v else tget d j m := by
  split
  · next h => rw [h, tget_tset_same]
  · next h => exact tget_tset_ne d v h m

theorem canonical_tdel (d : α) (k : Nat) : (m : Sparse α) → canonical d m = true → canonical d (tdel k m) = true
  | [], _ => rfl
  | (j, v) :: m, h => by
    simp only [canonical, Bool.and_eq_true, decide_eq_true_eq] at h
    unfold tdel
    split
    · exact canonical_tdel d k m h.2
    · simp [canonical, h.1.1, risingFrom_tdel k j m h.1.2, canonical_tdel d k m h.2]

theorem canonical_tins (d v : α) (k : Nat) (hv : v ≠ d) :
    (m : Sparse α) → (∀ e ∈ m, e.1 ≠ k) → canonical d m = true → canonical d (tins k v m) = true
  | [], _, _ => by simp [tins, canonical, risingFrom, hv]
  | (j, w) :: m, hn, h => by
    simp only [canonical, Bool.and_eq_true, decide_eq_true_eq] at h
    have hj : j ≠ k := hn (j, w) (by simp)
    have hm : ∀ e ∈ m, e.1 ≠ k := fun e he => hn e (by simp [he])
    unfold tins
    split
    · next hk => simp [canonical, hv, risingFrom, hk, h.1.1, h.2, h.1.2]
    · simp [canonical, h.1.1, risingFrom_tins k v j (by omega) m h.1.2 hm, canonical_tins d v k hv m hm h.2]

/-- A write keeps the canonical form. -/
theorem canonical_tset (d v : α) (k : Nat) (m : Sparse α) (h : canonical d m = true) :
    canonical d (tset d k v m) = true := by
  unfold tset
  split
  · exact canonical_tdel d k m h
  · next hv => exact canonical_tins d v k hv _ (not_mem_tdel k m) (canonical_tdel d k m h)

/-- Dropping entries keeps the canonical form. -/
theorem canonical_filter (d : α) (f : Nat × α → Bool) (m : Sparse α) (h : canonical d m = true) :
    canonical d (m.filter f) = true := by
  have rise : ∀ (m : Sparse α) (lo : Nat), risingFrom lo m = true → risingFrom lo (m.filter f) = true := by
    intro m
    induction m with
    | nil => simp
    | cons x m ih =>
      intro lo h
      obtain ⟨j, v⟩ := x
      simp only [risingFrom, Bool.and_eq_true, decide_eq_true_eq] at h
      by_cases hf : f (j, v)
      · simp [hf, risingFrom, h.1, ih j h.2]
      · simp [hf, ih lo (risingFrom_mono (by omega) m h.2)]
  induction m with
  | nil => rfl
  | cons x m ih =>
    obtain ⟨j, v⟩ := x
    simp only [canonical, Bool.and_eq_true, decide_eq_true_eq] at h
    by_cases hf : f (j, v)
    · simp [hf, canonical, h.1.1, rise m j h.1.2, ih h.2]
    · simp [hf, ih h.2]

end

end Sys2Proof.Machine
end

