-- ==== Sys2Proof/Laws/Memory.lean ====
section
/-! SUPPORT. Memory: what a write of one byte or of many leaves to read, and that every memory operation keeps the
canonical form. -/

namespace Sys2Proof.Machine

/-- A byte read after a byte written. -/
theorem memGet_memSet (m : List Host.Cell) (a b : Nat) (v : Byte) :
    memGet (memSet m a v) b = if b = a then v else memGet m b := tget_tset _ _ _ _ _

/-- Bytes below a run written stand. -/
theorem memGet_memWrite_below (bs : List Byte) : ∀ (m : List Host.Cell) (a x : Nat), x < a →
    memGet (memWrite m a bs) x = memGet m x := by
  induction bs with
  | nil => intro m a x _; rfl
  | cons b bs ih =>
    intro m a x h
    rw [memWrite, ih _ _ _ (by omega), memGet_memSet, if_neg (by omega)]

/-- A write of one byte keeps the canonical form. -/
theorem memWf_memSet (m : List Host.Cell) (a : Nat) (v : Byte) (h : memWf m = true) :
    memWf (memSet m a v) = true := canonical_tset _ _ _ _ h

/-- A write of many bytes keeps the canonical form. -/
theorem memWf_memWrite (bs : List Byte) : ∀ (m : List Host.Cell) (a : Nat), memWf m = true →
    memWf (memWrite m a bs) = true := by
  induction bs with
  | nil => intro m a h; exact h
  | cons b bs ih => intro m a h; exact ih _ _ (memWf_memSet m a b h)

/-- A write to a partition's DRAM keeps the canonical form. -/
theorem memWf_physWrite (p a : Nat) (bs : List Byte) (s : State) (h : memWf s.mem = true) :
    memWf (physWrite p a bs s).mem = true := memWf_memWrite bs _ _ h

/-- A number written to a partition's DRAM keeps the canonical form. -/
theorem memWf_physWriteNat (p a n v : Nat) (s : State) (h : memWf s.mem = true) :
    memWf (physWriteNat p a n v s).mem = true := memWf_physWrite p a _ s h

end Sys2Proof.Machine
end

