-- ==== Sys2Proof/Laws/State.lean ====
section
/-! SUPPORT. What each named change of the state leaves: one lemma for each field and change. -/

namespace Sys2Proof.Machine

@[simp] theorem setCtx_cores (id : Nat) (x : Ctx) (s : State) : (setCtx id x s).cores = s.cores := rfl
@[simp] theorem setCtx_parts (id : Nat) (x : Ctx) (s : State) : (setCtx id x s).parts = s.parts := rfl
@[simp] theorem setCtx_dev (id : Nat) (x : Ctx) (s : State) : (setCtx id x s).dev = s.dev := rfl
@[simp] theorem setCtx_mem (id : Nat) (x : Ctx) (s : State) : (setCtx id x s).mem = s.mem := rfl
@[simp] theorem setCtx_memBefore (id : Nat) (x : Ctx) (s : State) : (setCtx id x s).memBefore = s.memBefore := rfl
@[simp] theorem setCtx_ccn (id : Nat) (x : Ctx) (s : State) : (setCtx id x s).ccn = s.ccn := rfl
@[simp] theorem setCtx_core (id : Nat) (x : Ctx) (s : State) : (setCtx id x s).core = s.core := rfl
@[simp] theorem setCtx_slot (id : Nat) (x : Ctx) (s : State) : (setCtx id x s).slot = s.slot := rfl
@[simp] theorem setCtx_bnd (id : Nat) (x : Ctx) (s : State) : (setCtx id x s).bnd = s.bnd := rfl
@[simp] theorem setCtx_inbox (id : Nat) (x : Ctx) (s : State) : (setCtx id x s).inbox = s.inbox := rfl
@[simp] theorem setCtx_ids (id : Nat) (x : Ctx) (s : State) : (setCtx id x s).ids = s.ids := rfl
@[simp] theorem setCtx_free (id : Nat) (x : Ctx) (s : State) : (setCtx id x s).free = s.free := rfl

@[simp] theorem updCtx_cores (id : Nat) (f : Ctx → Ctx) (s : State) : (updCtx id f s).cores = s.cores := rfl
@[simp] theorem updCtx_parts (id : Nat) (f : Ctx → Ctx) (s : State) : (updCtx id f s).parts = s.parts := rfl
@[simp] theorem updCtx_dev (id : Nat) (f : Ctx → Ctx) (s : State) : (updCtx id f s).dev = s.dev := rfl
@[simp] theorem updCtx_mem (id : Nat) (f : Ctx → Ctx) (s : State) : (updCtx id f s).mem = s.mem := rfl
@[simp] theorem updCtx_memBefore (id : Nat) (f : Ctx → Ctx) (s : State) : (updCtx id f s).memBefore = s.memBefore := rfl
@[simp] theorem updCtx_ccn (id : Nat) (f : Ctx → Ctx) (s : State) : (updCtx id f s).ccn = s.ccn := rfl
@[simp] theorem updCtx_core (id : Nat) (f : Ctx → Ctx) (s : State) : (updCtx id f s).core = s.core := rfl
@[simp] theorem updCtx_slot (id : Nat) (f : Ctx → Ctx) (s : State) : (updCtx id f s).slot = s.slot := rfl
@[simp] theorem updCtx_bnd (id : Nat) (f : Ctx → Ctx) (s : State) : (updCtx id f s).bnd = s.bnd := rfl
@[simp] theorem updCtx_inbox (id : Nat) (f : Ctx → Ctx) (s : State) : (updCtx id f s).inbox = s.inbox := rfl
@[simp] theorem updCtx_ids (id : Nat) (f : Ctx → Ctx) (s : State) : (updCtx id f s).ids = s.ids := rfl
@[simp] theorem updCtx_free (id : Nat) (f : Ctx → Ctx) (s : State) : (updCtx id f s).free = s.free := rfl

@[simp] theorem updCur_cores (f : Ctx → Ctx) (s : State) : (updCur f s).cores = s.cores := rfl
@[simp] theorem updCur_parts (f : Ctx → Ctx) (s : State) : (updCur f s).parts = s.parts := rfl
@[simp] theorem updCur_dev (f : Ctx → Ctx) (s : State) : (updCur f s).dev = s.dev := rfl
@[simp] theorem updCur_mem (f : Ctx → Ctx) (s : State) : (updCur f s).mem = s.mem := rfl
@[simp] theorem updCur_memBefore (f : Ctx → Ctx) (s : State) : (updCur f s).memBefore = s.memBefore := rfl
@[simp] theorem updCur_ccn (f : Ctx → Ctx) (s : State) : (updCur f s).ccn = s.ccn := rfl
@[simp] theorem updCur_core (f : Ctx → Ctx) (s : State) : (updCur f s).core = s.core := rfl
@[simp] theorem updCur_slot (f : Ctx → Ctx) (s : State) : (updCur f s).slot = s.slot := rfl
@[simp] theorem updCur_bnd (f : Ctx → Ctx) (s : State) : (updCur f s).bnd = s.bnd := rfl
@[simp] theorem updCur_inbox (f : Ctx → Ctx) (s : State) : (updCur f s).inbox = s.inbox := rfl
@[simp] theorem updCur_ids (f : Ctx → Ctx) (s : State) : (updCur f s).ids = s.ids := rfl
@[simp] theorem updCur_free (f : Ctx → Ctx) (s : State) : (updCur f s).free = s.free := rfl

@[simp] theorem setCore_ctxs (c : Nat) (x : Core) (s : State) : (setCore c x s).ctxs = s.ctxs := rfl
@[simp] theorem setCore_parts (c : Nat) (x : Core) (s : State) : (setCore c x s).parts = s.parts := rfl
@[simp] theorem setCore_dev (c : Nat) (x : Core) (s : State) : (setCore c x s).dev = s.dev := rfl
@[simp] theorem setCore_mem (c : Nat) (x : Core) (s : State) : (setCore c x s).mem = s.mem := rfl
@[simp] theorem setCore_memBefore (c : Nat) (x : Core) (s : State) : (setCore c x s).memBefore = s.memBefore := rfl
@[simp] theorem setCore_ccn (c : Nat) (x : Core) (s : State) : (setCore c x s).ccn = s.ccn := rfl
@[simp] theorem setCore_core (c : Nat) (x : Core) (s : State) : (setCore c x s).core = s.core := rfl
@[simp] theorem setCore_slot (c : Nat) (x : Core) (s : State) : (setCore c x s).slot = s.slot := rfl
@[simp] theorem setCore_bnd (c : Nat) (x : Core) (s : State) : (setCore c x s).bnd = s.bnd := rfl
@[simp] theorem setCore_inbox (c : Nat) (x : Core) (s : State) : (setCore c x s).inbox = s.inbox := rfl
@[simp] theorem setCore_ids (c : Nat) (x : Core) (s : State) : (setCore c x s).ids = s.ids := rfl
@[simp] theorem setCore_free (c : Nat) (x : Core) (s : State) : (setCore c x s).free = s.free := rfl

@[simp] theorem updCore_ctxs (c : Nat) (f : Core → Core) (s : State) : (updCore c f s).ctxs = s.ctxs := rfl
@[simp] theorem updCore_parts (c : Nat) (f : Core → Core) (s : State) : (updCore c f s).parts = s.parts := rfl
@[simp] theorem updCore_dev (c : Nat) (f : Core → Core) (s : State) : (updCore c f s).dev = s.dev := rfl
@[simp] theorem updCore_mem (c : Nat) (f : Core → Core) (s : State) : (updCore c f s).mem = s.mem := rfl
@[simp] theorem updCore_memBefore (c : Nat) (f : Core → Core) (s : State) : (updCore c f s).memBefore = s.memBefore := rfl
@[simp] theorem updCore_ccn (c : Nat) (f : Core → Core) (s : State) : (updCore c f s).ccn = s.ccn := rfl
@[simp] theorem updCore_core (c : Nat) (f : Core → Core) (s : State) : (updCore c f s).core = s.core := rfl
@[simp] theorem updCore_slot (c : Nat) (f : Core → Core) (s : State) : (updCore c f s).slot = s.slot := rfl
@[simp] theorem updCore_bnd (c : Nat) (f : Core → Core) (s : State) : (updCore c f s).bnd = s.bnd := rfl
@[simp] theorem updCore_inbox (c : Nat) (f : Core → Core) (s : State) : (updCore c f s).inbox = s.inbox := rfl
@[simp] theorem updCore_ids (c : Nat) (f : Core → Core) (s : State) : (updCore c f s).ids = s.ids := rfl
@[simp] theorem updCore_free (c : Nat) (f : Core → Core) (s : State) : (updCore c f s).free = s.free := rfl

@[simp] theorem updCurCore_ctxs (f : Core → Core) (s : State) : (updCurCore f s).ctxs = s.ctxs := rfl
@[simp] theorem updCurCore_parts (f : Core → Core) (s : State) : (updCurCore f s).parts = s.parts := rfl
@[simp] theorem updCurCore_dev (f : Core → Core) (s : State) : (updCurCore f s).dev = s.dev := rfl
@[simp] theorem updCurCore_mem (f : Core → Core) (s : State) : (updCurCore f s).mem = s.mem := rfl
@[simp] theorem updCurCore_memBefore (f : Core → Core) (s : State) : (updCurCore f s).memBefore = s.memBefore := rfl
@[simp] theorem updCurCore_ccn (f : Core → Core) (s : State) : (updCurCore f s).ccn = s.ccn := rfl
@[simp] theorem updCurCore_core (f : Core → Core) (s : State) : (updCurCore f s).core = s.core := rfl
@[simp] theorem updCurCore_slot (f : Core → Core) (s : State) : (updCurCore f s).slot = s.slot := rfl
@[simp] theorem updCurCore_bnd (f : Core → Core) (s : State) : (updCurCore f s).bnd = s.bnd := rfl
@[simp] theorem updCurCore_inbox (f : Core → Core) (s : State) : (updCurCore f s).inbox = s.inbox := rfl
@[simp] theorem updCurCore_ids (f : Core → Core) (s : State) : (updCurCore f s).ids = s.ids := rfl
@[simp] theorem updCurCore_free (f : Core → Core) (s : State) : (updCurCore f s).free = s.free := rfl

@[simp] theorem setPart_ctxs (p : Nat) (x : Part) (s : State) : (setPart p x s).ctxs = s.ctxs := rfl
@[simp] theorem setPart_cores (p : Nat) (x : Part) (s : State) : (setPart p x s).cores = s.cores := rfl
@[simp] theorem setPart_dev (p : Nat) (x : Part) (s : State) : (setPart p x s).dev = s.dev := rfl
@[simp] theorem setPart_mem (p : Nat) (x : Part) (s : State) : (setPart p x s).mem = s.mem := rfl
@[simp] theorem setPart_memBefore (p : Nat) (x : Part) (s : State) : (setPart p x s).memBefore = s.memBefore := rfl
@[simp] theorem setPart_ccn (p : Nat) (x : Part) (s : State) : (setPart p x s).ccn = s.ccn := rfl
@[simp] theorem setPart_core (p : Nat) (x : Part) (s : State) : (setPart p x s).core = s.core := rfl
@[simp] theorem setPart_slot (p : Nat) (x : Part) (s : State) : (setPart p x s).slot = s.slot := rfl
@[simp] theorem setPart_bnd (p : Nat) (x : Part) (s : State) : (setPart p x s).bnd = s.bnd := rfl
@[simp] theorem setPart_inbox (p : Nat) (x : Part) (s : State) : (setPart p x s).inbox = s.inbox := rfl
@[simp] theorem setPart_ids (p : Nat) (x : Part) (s : State) : (setPart p x s).ids = s.ids := rfl
@[simp] theorem setPart_free (p : Nat) (x : Part) (s : State) : (setPart p x s).free = s.free := rfl

@[simp] theorem updPart_ctxs (p : Nat) (f : Part → Part) (s : State) : (updPart p f s).ctxs = s.ctxs := rfl
@[simp] theorem updPart_cores (p : Nat) (f : Part → Part) (s : State) : (updPart p f s).cores = s.cores := rfl
@[simp] theorem updPart_dev (p : Nat) (f : Part → Part) (s : State) : (updPart p f s).dev = s.dev := rfl
@[simp] theorem updPart_mem (p : Nat) (f : Part → Part) (s : State) : (updPart p f s).mem = s.mem := rfl
@[simp] theorem updPart_memBefore (p : Nat) (f : Part → Part) (s : State) : (updPart p f s).memBefore = s.memBefore := rfl
@[simp] theorem updPart_ccn (p : Nat) (f : Part → Part) (s : State) : (updPart p f s).ccn = s.ccn := rfl
@[simp] theorem updPart_core (p : Nat) (f : Part → Part) (s : State) : (updPart p f s).core = s.core := rfl
@[simp] theorem updPart_slot (p : Nat) (f : Part → Part) (s : State) : (updPart p f s).slot = s.slot := rfl
@[simp] theorem updPart_bnd (p : Nat) (f : Part → Part) (s : State) : (updPart p f s).bnd = s.bnd := rfl
@[simp] theorem updPart_inbox (p : Nat) (f : Part → Part) (s : State) : (updPart p f s).inbox = s.inbox := rfl
@[simp] theorem updPart_ids (p : Nat) (f : Part → Part) (s : State) : (updPart p f s).ids = s.ids := rfl
@[simp] theorem updPart_free (p : Nat) (f : Part → Part) (s : State) : (updPart p f s).free = s.free := rfl

@[simp] theorem updLaunch_ctxs (p : Nat) (f : Launch → Launch) (s : State) : (updLaunch p f s).ctxs = s.ctxs := rfl
@[simp] theorem updLaunch_cores (p : Nat) (f : Launch → Launch) (s : State) : (updLaunch p f s).cores = s.cores := rfl
@[simp] theorem updLaunch_dev (p : Nat) (f : Launch → Launch) (s : State) : (updLaunch p f s).dev = s.dev := rfl
@[simp] theorem updLaunch_mem (p : Nat) (f : Launch → Launch) (s : State) : (updLaunch p f s).mem = s.mem := rfl
@[simp] theorem updLaunch_memBefore (p : Nat) (f : Launch → Launch) (s : State) : (updLaunch p f s).memBefore = s.memBefore := rfl
@[simp] theorem updLaunch_ccn (p : Nat) (f : Launch → Launch) (s : State) : (updLaunch p f s).ccn = s.ccn := rfl
@[simp] theorem updLaunch_core (p : Nat) (f : Launch → Launch) (s : State) : (updLaunch p f s).core = s.core := rfl
@[simp] theorem updLaunch_slot (p : Nat) (f : Launch → Launch) (s : State) : (updLaunch p f s).slot = s.slot := rfl
@[simp] theorem updLaunch_bnd (p : Nat) (f : Launch → Launch) (s : State) : (updLaunch p f s).bnd = s.bnd := rfl
@[simp] theorem updLaunch_inbox (p : Nat) (f : Launch → Launch) (s : State) : (updLaunch p f s).inbox = s.inbox := rfl
@[simp] theorem updLaunch_ids (p : Nat) (f : Launch → Launch) (s : State) : (updLaunch p f s).ids = s.ids := rfl
@[simp] theorem updLaunch_free (p : Nat) (f : Launch → Launch) (s : State) : (updLaunch p f s).free = s.free := rfl

@[simp] theorem updMem_ctxs (p : Nat) (f : MemSys → MemSys) (s : State) : (updMem p f s).ctxs = s.ctxs := rfl
@[simp] theorem updMem_cores (p : Nat) (f : MemSys → MemSys) (s : State) : (updMem p f s).cores = s.cores := rfl
@[simp] theorem updMem_dev (p : Nat) (f : MemSys → MemSys) (s : State) : (updMem p f s).dev = s.dev := rfl
@[simp] theorem updMem_mem (p : Nat) (f : MemSys → MemSys) (s : State) : (updMem p f s).mem = s.mem := rfl
@[simp] theorem updMem_memBefore (p : Nat) (f : MemSys → MemSys) (s : State) : (updMem p f s).memBefore = s.memBefore := rfl
@[simp] theorem updMem_ccn (p : Nat) (f : MemSys → MemSys) (s : State) : (updMem p f s).ccn = s.ccn := rfl
@[simp] theorem updMem_core (p : Nat) (f : MemSys → MemSys) (s : State) : (updMem p f s).core = s.core := rfl
@[simp] theorem updMem_slot (p : Nat) (f : MemSys → MemSys) (s : State) : (updMem p f s).slot = s.slot := rfl
@[simp] theorem updMem_bnd (p : Nat) (f : MemSys → MemSys) (s : State) : (updMem p f s).bnd = s.bnd := rfl
@[simp] theorem updMem_inbox (p : Nat) (f : MemSys → MemSys) (s : State) : (updMem p f s).inbox = s.inbox := rfl
@[simp] theorem updMem_ids (p : Nat) (f : MemSys → MemSys) (s : State) : (updMem p f s).ids = s.ids := rfl
@[simp] theorem updMem_free (p : Nat) (f : MemSys → MemSys) (s : State) : (updMem p f s).free = s.free := rfl

@[simp] theorem updHost_ctxs (p : Nat) (f : HostSide → HostSide) (s : State) : (updHost p f s).ctxs = s.ctxs := rfl
@[simp] theorem updHost_cores (p : Nat) (f : HostSide → HostSide) (s : State) : (updHost p f s).cores = s.cores := rfl
@[simp] theorem updHost_dev (p : Nat) (f : HostSide → HostSide) (s : State) : (updHost p f s).dev = s.dev := rfl
@[simp] theorem updHost_mem (p : Nat) (f : HostSide → HostSide) (s : State) : (updHost p f s).mem = s.mem := rfl
@[simp] theorem updHost_memBefore (p : Nat) (f : HostSide → HostSide) (s : State) : (updHost p f s).memBefore = s.memBefore := rfl
@[simp] theorem updHost_ccn (p : Nat) (f : HostSide → HostSide) (s : State) : (updHost p f s).ccn = s.ccn := rfl
@[simp] theorem updHost_core (p : Nat) (f : HostSide → HostSide) (s : State) : (updHost p f s).core = s.core := rfl
@[simp] theorem updHost_slot (p : Nat) (f : HostSide → HostSide) (s : State) : (updHost p f s).slot = s.slot := rfl
@[simp] theorem updHost_bnd (p : Nat) (f : HostSide → HostSide) (s : State) : (updHost p f s).bnd = s.bnd := rfl
@[simp] theorem updHost_inbox (p : Nat) (f : HostSide → HostSide) (s : State) : (updHost p f s).inbox = s.inbox := rfl
@[simp] theorem updHost_ids (p : Nat) (f : HostSide → HostSide) (s : State) : (updHost p f s).ids = s.ids := rfl
@[simp] theorem updHost_free (p : Nat) (f : HostSide → HostSide) (s : State) : (updHost p f s).free = s.free := rfl

@[simp] theorem setBell_ctxs (p k : Nat) (b : Doorbell) (s : State) : (setBell p k b s).ctxs = s.ctxs := rfl
@[simp] theorem setBell_cores (p k : Nat) (b : Doorbell) (s : State) : (setBell p k b s).cores = s.cores := rfl
@[simp] theorem setBell_dev (p k : Nat) (b : Doorbell) (s : State) : (setBell p k b s).dev = s.dev := rfl
@[simp] theorem setBell_mem (p k : Nat) (b : Doorbell) (s : State) : (setBell p k b s).mem = s.mem := rfl
@[simp] theorem setBell_memBefore (p k : Nat) (b : Doorbell) (s : State) : (setBell p k b s).memBefore = s.memBefore := rfl
@[simp] theorem setBell_ccn (p k : Nat) (b : Doorbell) (s : State) : (setBell p k b s).ccn = s.ccn := rfl
@[simp] theorem setBell_core (p k : Nat) (b : Doorbell) (s : State) : (setBell p k b s).core = s.core := rfl
@[simp] theorem setBell_slot (p k : Nat) (b : Doorbell) (s : State) : (setBell p k b s).slot = s.slot := rfl
@[simp] theorem setBell_bnd (p k : Nat) (b : Doorbell) (s : State) : (setBell p k b s).bnd = s.bnd := rfl
@[simp] theorem setBell_inbox (p k : Nat) (b : Doorbell) (s : State) : (setBell p k b s).inbox = s.inbox := rfl
@[simp] theorem setBell_ids (p k : Nat) (b : Doorbell) (s : State) : (setBell p k b s).ids = s.ids := rfl
@[simp] theorem setBell_free (p k : Nat) (b : Doorbell) (s : State) : (setBell p k b s).free = s.free := rfl

@[simp] theorem setTask_ctxs (p t : Nat) (x : Option Task) (s : State) : (setTask p t x s).ctxs = s.ctxs := rfl
@[simp] theorem setTask_cores (p t : Nat) (x : Option Task) (s : State) : (setTask p t x s).cores = s.cores := rfl
@[simp] theorem setTask_dev (p t : Nat) (x : Option Task) (s : State) : (setTask p t x s).dev = s.dev := rfl
@[simp] theorem setTask_mem (p t : Nat) (x : Option Task) (s : State) : (setTask p t x s).mem = s.mem := rfl
@[simp] theorem setTask_memBefore (p t : Nat) (x : Option Task) (s : State) : (setTask p t x s).memBefore = s.memBefore := rfl
@[simp] theorem setTask_ccn (p t : Nat) (x : Option Task) (s : State) : (setTask p t x s).ccn = s.ccn := rfl
@[simp] theorem setTask_core (p t : Nat) (x : Option Task) (s : State) : (setTask p t x s).core = s.core := rfl
@[simp] theorem setTask_slot (p t : Nat) (x : Option Task) (s : State) : (setTask p t x s).slot = s.slot := rfl
@[simp] theorem setTask_bnd (p t : Nat) (x : Option Task) (s : State) : (setTask p t x s).bnd = s.bnd := rfl
@[simp] theorem setTask_inbox (p t : Nat) (x : Option Task) (s : State) : (setTask p t x s).inbox = s.inbox := rfl
@[simp] theorem setTask_ids (p t : Nat) (x : Option Task) (s : State) : (setTask p t x s).ids = s.ids := rfl
@[simp] theorem setTask_free (p t : Nat) (x : Option Task) (s : State) : (setTask p t x s).free = s.free := rfl

@[simp] theorem updDev_ctxs (f : Dev → Dev) (s : State) : (updDev f s).ctxs = s.ctxs := rfl
@[simp] theorem updDev_cores (f : Dev → Dev) (s : State) : (updDev f s).cores = s.cores := rfl
@[simp] theorem updDev_parts (f : Dev → Dev) (s : State) : (updDev f s).parts = s.parts := rfl
@[simp] theorem updDev_mem (f : Dev → Dev) (s : State) : (updDev f s).mem = s.mem := rfl
@[simp] theorem updDev_memBefore (f : Dev → Dev) (s : State) : (updDev f s).memBefore = s.memBefore := rfl
@[simp] theorem updDev_ccn (f : Dev → Dev) (s : State) : (updDev f s).ccn = s.ccn := rfl
@[simp] theorem updDev_core (f : Dev → Dev) (s : State) : (updDev f s).core = s.core := rfl
@[simp] theorem updDev_slot (f : Dev → Dev) (s : State) : (updDev f s).slot = s.slot := rfl
@[simp] theorem updDev_bnd (f : Dev → Dev) (s : State) : (updDev f s).bnd = s.bnd := rfl
@[simp] theorem updDev_inbox (f : Dev → Dev) (s : State) : (updDev f s).inbox = s.inbox := rfl
@[simp] theorem updDev_ids (f : Dev → Dev) (s : State) : (updDev f s).ids = s.ids := rfl
@[simp] theorem updDev_free (f : Dev → Dev) (s : State) : (updDev f s).free = s.free := rfl

@[simp] theorem setPhaser_ctxs (p : Nat) (x : Phaser) (s : State) : (setPhaser p x s).ctxs = s.ctxs := rfl
@[simp] theorem setPhaser_cores (p : Nat) (x : Phaser) (s : State) : (setPhaser p x s).cores = s.cores := rfl
@[simp] theorem setPhaser_parts (p : Nat) (x : Phaser) (s : State) : (setPhaser p x s).parts = s.parts := rfl
@[simp] theorem setPhaser_mem (p : Nat) (x : Phaser) (s : State) : (setPhaser p x s).mem = s.mem := rfl
@[simp] theorem setPhaser_memBefore (p : Nat) (x : Phaser) (s : State) : (setPhaser p x s).memBefore = s.memBefore := rfl
@[simp] theorem setPhaser_ccn (p : Nat) (x : Phaser) (s : State) : (setPhaser p x s).ccn = s.ccn := rfl
@[simp] theorem setPhaser_core (p : Nat) (x : Phaser) (s : State) : (setPhaser p x s).core = s.core := rfl
@[simp] theorem setPhaser_slot (p : Nat) (x : Phaser) (s : State) : (setPhaser p x s).slot = s.slot := rfl
@[simp] theorem setPhaser_bnd (p : Nat) (x : Phaser) (s : State) : (setPhaser p x s).bnd = s.bnd := rfl
@[simp] theorem setPhaser_inbox (p : Nat) (x : Phaser) (s : State) : (setPhaser p x s).inbox = s.inbox := rfl
@[simp] theorem setPhaser_ids (p : Nat) (x : Phaser) (s : State) : (setPhaser p x s).ids = s.ids := rfl
@[simp] theorem setPhaser_free (p : Nat) (x : Phaser) (s : State) : (setPhaser p x s).free = s.free := rfl

@[simp] theorem setPort_ctxs (i : Nat) (x : Port) (s : State) : (setPort i x s).ctxs = s.ctxs := rfl
@[simp] theorem setPort_cores (i : Nat) (x : Port) (s : State) : (setPort i x s).cores = s.cores := rfl
@[simp] theorem setPort_parts (i : Nat) (x : Port) (s : State) : (setPort i x s).parts = s.parts := rfl
@[simp] theorem setPort_mem (i : Nat) (x : Port) (s : State) : (setPort i x s).mem = s.mem := rfl
@[simp] theorem setPort_memBefore (i : Nat) (x : Port) (s : State) : (setPort i x s).memBefore = s.memBefore := rfl
@[simp] theorem setPort_ccn (i : Nat) (x : Port) (s : State) : (setPort i x s).ccn = s.ccn := rfl
@[simp] theorem setPort_core (i : Nat) (x : Port) (s : State) : (setPort i x s).core = s.core := rfl
@[simp] theorem setPort_slot (i : Nat) (x : Port) (s : State) : (setPort i x s).slot = s.slot := rfl
@[simp] theorem setPort_bnd (i : Nat) (x : Port) (s : State) : (setPort i x s).bnd = s.bnd := rfl
@[simp] theorem setPort_inbox (i : Nat) (x : Port) (s : State) : (setPort i x s).inbox = s.inbox := rfl
@[simp] theorem setPort_ids (i : Nat) (x : Port) (s : State) : (setPort i x s).ids = s.ids := rfl
@[simp] theorem setPort_free (i : Nat) (x : Port) (s : State) : (setPort i x s).free = s.free := rfl

@[simp] theorem send_ctxs (o : Out) (s : State) : (send o s).ctxs = s.ctxs := rfl
@[simp] theorem send_cores (o : Out) (s : State) : (send o s).cores = s.cores := rfl
@[simp] theorem send_parts (o : Out) (s : State) : (send o s).parts = s.parts := rfl
@[simp] theorem send_mem (o : Out) (s : State) : (send o s).mem = s.mem := rfl
@[simp] theorem send_memBefore (o : Out) (s : State) : (send o s).memBefore = s.memBefore := rfl
@[simp] theorem send_ccn (o : Out) (s : State) : (send o s).ccn = s.ccn := rfl
@[simp] theorem send_core (o : Out) (s : State) : (send o s).core = s.core := rfl
@[simp] theorem send_slot (o : Out) (s : State) : (send o s).slot = s.slot := rfl
@[simp] theorem send_bnd (o : Out) (s : State) : (send o s).bnd = s.bnd := rfl
@[simp] theorem send_inbox (o : Out) (s : State) : (send o s).inbox = s.inbox := rfl
@[simp] theorem send_ids (o : Out) (s : State) : (send o s).ids = s.ids := rfl
@[simp] theorem send_free (o : Out) (s : State) : (send o s).free = s.free := rfl

@[simp] theorem fresh_ctxs (s : State) : (fresh s).2.ctxs = s.ctxs := rfl
@[simp] theorem fresh_cores (s : State) : (fresh s).2.cores = s.cores := rfl
@[simp] theorem fresh_parts (s : State) : (fresh s).2.parts = s.parts := rfl
@[simp] theorem fresh_dev (s : State) : (fresh s).2.dev = s.dev := rfl
@[simp] theorem fresh_mem (s : State) : (fresh s).2.mem = s.mem := rfl
@[simp] theorem fresh_memBefore (s : State) : (fresh s).2.memBefore = s.memBefore := rfl
@[simp] theorem fresh_ccn (s : State) : (fresh s).2.ccn = s.ccn := rfl
@[simp] theorem fresh_core (s : State) : (fresh s).2.core = s.core := rfl
@[simp] theorem fresh_slot (s : State) : (fresh s).2.slot = s.slot := rfl
@[simp] theorem fresh_bnd (s : State) : (fresh s).2.bnd = s.bnd := rfl
@[simp] theorem fresh_inbox (s : State) : (fresh s).2.inbox = s.inbox := rfl
@[simp] theorem fresh_free (s : State) : (fresh s).2.free = s.free := rfl

@[simp] theorem freeBits_ctxs (s : State) : (freeBits s).2.ctxs = s.ctxs := rfl
@[simp] theorem freeBits_cores (s : State) : (freeBits s).2.cores = s.cores := rfl
@[simp] theorem freeBits_parts (s : State) : (freeBits s).2.parts = s.parts := rfl
@[simp] theorem freeBits_dev (s : State) : (freeBits s).2.dev = s.dev := rfl
@[simp] theorem freeBits_mem (s : State) : (freeBits s).2.mem = s.mem := rfl
@[simp] theorem freeBits_memBefore (s : State) : (freeBits s).2.memBefore = s.memBefore := rfl
@[simp] theorem freeBits_ccn (s : State) : (freeBits s).2.ccn = s.ccn := rfl
@[simp] theorem freeBits_core (s : State) : (freeBits s).2.core = s.core := rfl
@[simp] theorem freeBits_slot (s : State) : (freeBits s).2.slot = s.slot := rfl
@[simp] theorem freeBits_bnd (s : State) : (freeBits s).2.bnd = s.bnd := rfl
@[simp] theorem freeBits_inbox (s : State) : (freeBits s).2.inbox = s.inbox := rfl
@[simp] theorem freeBits_ids (s : State) : (freeBits s).2.ids = s.ids := rfl

@[simp] theorem choose_ctxs (n : Nat) (s : State) : (choose n s).2.ctxs = s.ctxs := rfl
@[simp] theorem choose_cores (n : Nat) (s : State) : (choose n s).2.cores = s.cores := rfl
@[simp] theorem choose_parts (n : Nat) (s : State) : (choose n s).2.parts = s.parts := rfl
@[simp] theorem choose_dev (n : Nat) (s : State) : (choose n s).2.dev = s.dev := rfl
@[simp] theorem choose_mem (n : Nat) (s : State) : (choose n s).2.mem = s.mem := rfl
@[simp] theorem choose_memBefore (n : Nat) (s : State) : (choose n s).2.memBefore = s.memBefore := rfl
@[simp] theorem choose_ccn (n : Nat) (s : State) : (choose n s).2.ccn = s.ccn := rfl
@[simp] theorem choose_core (n : Nat) (s : State) : (choose n s).2.core = s.core := rfl
@[simp] theorem choose_slot (n : Nat) (s : State) : (choose n s).2.slot = s.slot := rfl
@[simp] theorem choose_bnd (n : Nat) (s : State) : (choose n s).2.bnd = s.bnd := rfl
@[simp] theorem choose_inbox (n : Nat) (s : State) : (choose n s).2.inbox = s.inbox := rfl
@[simp] theorem choose_ids (n : Nat) (s : State) : (choose n s).2.ids = s.ids := rfl

end Sys2Proof.Machine
end

