-- ==== Sys2Proof/Laws/Frames.lean ====
section
/-! SUPPORT. What the updates of one context, one core or one partition leave as they were, and what they put. -/

namespace Sys2Proof.Safety

open Sys2Proof.Machine

theorem Still.refl (s : State) : Still s s := ⟨fun _ => rfl, rfl, rfl, rfl, rfl, rfl⟩

theorem Still.trans {s t u : State} (h : Still s t) (g : Still t u) : Still s u :=
  ⟨fun a => (g.bytes a).trans (h.bytes a), g.ccn.trans h.ccn, g.place.1.trans h.place.1,
    g.place.2.1.trans h.place.2.1, g.place.2.2.1.trans h.place.2.2.1, g.place.2.2.2.trans h.place.2.2.2⟩

theorem Frame.refl (cs ks ps : List Nat) (s : State) : Frame cs ks ps s s :=
  ⟨fun _ _ => rfl, fun _ _ => rfl, fun _ _ => rfl, rfl, Still.refl s⟩

theorem Frame.trans {cs ks ps : List Nat} {s t u : State} (h : Frame cs ks ps s t) (g : Frame cs ks ps t u) :
    Frame cs ks ps s u :=
  ⟨fun j n => (g.ctx j n).trans (h.ctx j n), fun k n => (g.core k n).trans (h.core k n),
    fun p n => (g.part p n).trans (h.part p n), g.dev.trans h.dev, h.still.trans g.still⟩

theorem Frame.mono {cs ks ps cs' ks' ps' : List Nat} {s t : State} (h : Frame cs ks ps s t)
    (hc : ∀ j ∈ cs, j ∈ cs') (hk : ∀ j ∈ ks, j ∈ ks') (hp : ∀ j ∈ ps, j ∈ ps') : Frame cs' ks' ps' s t :=
  ⟨fun j n => h.ctx j fun m => n (hc j m), fun k n => h.core k fun m => n (hk k m),
    fun p n => h.part p fun m => n (hp p m), h.dev, h.still⟩

@[simp] theorem ctxOf_setCtx_same (id : Nat) (x : Ctx) (s : State) : ctxOf (setCtx id x s) id = x :=
  tget_tset_same _ _ _ _

theorem ctxOf_setCtx_ne {id j : Nat} (h : j ≠ id) (x : Ctx) (s : State) : ctxOf (setCtx id x s) j = ctxOf s j :=
  tget_tset_ne _ _ h _

@[simp] theorem ctxOf_updCtx_same (id : Nat) (f : Ctx → Ctx) (s : State) :
    ctxOf (updCtx id f s) id = f (ctxOf s id) := ctxOf_setCtx_same _ _ _

theorem ctxOf_updCtx_ne {id j : Nat} (h : j ≠ id) (f : Ctx → Ctx) (s : State) :
    ctxOf (updCtx id f s) j = ctxOf s j := ctxOf_setCtx_ne h _ _

@[simp] theorem ctxOf_updCore (k : Nat) (f : Core → Core) (s : State) (j : Nat) :
    ctxOf (updCore k f s) j = ctxOf s j := rfl

@[simp] theorem ctxOf_updPart (p : Nat) (f : Part → Part) (s : State) (j : Nat) :
    ctxOf (updPart p f s) j = ctxOf s j := rfl

@[simp] theorem coreOf_updCtx (id : Nat) (f : Ctx → Ctx) (s : State) (k : Nat) :
    coreOf (updCtx id f s) k = coreOf s k := rfl

@[simp] theorem coreOf_setCtx (id : Nat) (x : Ctx) (s : State) (k : Nat) : coreOf (setCtx id x s) k = coreOf s k := rfl

@[simp] theorem coreOf_updCore_same (k : Nat) (f : Core → Core) (s : State) :
    coreOf (updCore k f s) k = f (coreOf s k) := tget_tset_same _ _ _ _

theorem coreOf_updCore_ne {k j : Nat} (h : j ≠ k) (f : Core → Core) (s : State) :
    coreOf (updCore k f s) j = coreOf s j := tget_tset_ne _ _ h _

@[simp] theorem coreOf_updPart (p : Nat) (f : Part → Part) (s : State) (k : Nat) :
    coreOf (updPart p f s) k = coreOf s k := rfl

@[simp] theorem partAt_updCtx (id : Nat) (f : Ctx → Ctx) (s : State) (p : Nat) :
    partAt (updCtx id f s) p = partAt s p := rfl

@[simp] theorem partAt_updCore (k : Nat) (f : Core → Core) (s : State) (p : Nat) :
    partAt (updCore k f s) p = partAt s p := rfl

@[simp] theorem partAt_updPart_same (p : Nat) (f : Part → Part) (s : State) :
    partAt (updPart p f s) p = f (partAt s p) := tget_tset_same _ _ _ _

theorem partAt_updPart_ne {p q : Nat} (h : q ≠ p) (f : Part → Part) (s : State) :
    partAt (updPart p f s) q = partAt s q := tget_tset_ne _ _ h _

theorem frame_setCtx (id : Nat) (x : Ctx) (s : State) : Frame [id] [] [] s (setCtx id x s) :=
  ⟨fun _ h => ctxOf_setCtx_ne (by simpa using h) x s, fun _ _ => rfl, fun _ _ => rfl, rfl, fun _ => rfl, rfl, rfl, rfl,
    rfl, rfl⟩

theorem frame_updCtx (id : Nat) (f : Ctx → Ctx) (s : State) : Frame [id] [] [] s (updCtx id f s) :=
  frame_setCtx id _ s

theorem frame_updCore (k : Nat) (f : Core → Core) (s : State) : Frame [] [k] [] s (updCore k f s) :=
  ⟨fun _ _ => rfl, fun _ h => coreOf_updCore_ne (by simpa using h) f s, fun _ _ => rfl, rfl, fun _ => rfl, rfl, rfl, rfl,
    rfl, rfl⟩

theorem frame_updPart (p : Nat) (f : Part → Part) (s : State) : Frame [] [] [p] s (updPart p f s) :=
  ⟨fun _ _ => rfl, fun _ _ => rfl, fun _ h => partAt_updPart_ne (by simpa using h) f s, rfl, fun _ => rfl, rfl, rfl, rfl,
    rfl, rfl⟩

/-- An instruction that acts on its own context alone. -/
theorem issuesTo_of_updCur {i : Instr} {s : State} {f : Ctx → Ctx} (h : exec i s = .next (updCur f s)) :
    IssuesTo i s (f (cur s)) :=
  ⟨_, h, ctxOf_updCtx_same _ _ _, frame_updCtx _ _ _⟩

end Sys2Proof.Safety
end

