-- ==== Sys2Proof/Laws/PerInstr.lean ====
section
/-! SUPPORT. A family of statements about every instruction as syntax: the syllable of a well-formed instruction fits
in its slot (R120). -/

namespace Sys2Proof.Laws.Fits

/-- The syllable of a well-formed instruction fits in its slot. -/
def Statement (i : Instr) : Prop :=
  ∀ sl w, i.wf = true → encodeSyl i = some (sl, w) → w.toNat < 2 ^ sl.width

theorem of_some {i : Instr} {sl : Slot} {w : BitVec 96} (h : encodeSyl i = some (sl, w)) (hw : w.toNat < 2 ^ sl.width) :
    Statement i := by
  intro sl' w' _ h'
  rw [h] at h'
  cases h'
  exact hw

theorem of_none {i : Instr} (h : encodeSyl i = none) : Statement i := by
  intro sl w _ h'
  rw [h] at h'
  cases h'

theorem nop (sl : Slot) (bits : BitVec 96) : Statement (.nop sl bits) := fun _ _ hw h => nop_lt hw h
theorem hintRegion (sl : Slot) (bits : BitVec 96) : Statement (.hintRegion sl bits) := fun _ _ hw h => hint_lt hw h
theorem add (f : SSyl) : Statement (.add f) := of_some rfl (encS_lt _ _)
theorem addi (f : SSyl) : Statement (.addi f) := of_some rfl (encS_lt _ _)
theorem sub (f : SSyl) : Statement (.sub f) := of_some rfl (encS_lt _ _)
theorem and (f : SSyl) : Statement (.and f) := of_some rfl (encS_lt _ _)
theorem or (f : SSyl) : Statement (.or f) := of_some rfl (encS_lt _ _)
theorem xor (f : SSyl) : Statement (.xor f) := of_some rfl (encS_lt _ _)
theorem andn (f : SSyl) : Statement (.andn f) := of_some rfl (encS_lt _ _)
theorem shl (f : SSyl) : Statement (.shl f) := of_some rfl (encS_lt _ _)
theorem shr (f : SSyl) : Statement (.shr f) := of_some rfl (encS_lt _ _)
theorem sar (f : SSyl) : Statement (.sar f) := of_some rfl (encS_lt _ _)
theorem rotr (f : SSyl) : Statement (.rotr f) := of_some rfl (encS_lt _ _)
theorem mini (f : SSyl) : Statement (.mini f) := of_some rfl (encS_lt _ _)
theorem maxi (f : SSyl) : Statement (.maxi f) := of_some rfl (encS_lt _ _)
theorem minz (f : SSyl) : Statement (.minz f) := of_some rfl (encS_lt _ _)
theorem maxz (f : SSyl) : Statement (.maxz f) := of_some rfl (encS_lt _ _)
theorem clz (f : SSyl) : Statement (.clz f) := of_some rfl (encS_lt _ _)
theorem popc (f : SSyl) : Statement (.popc f) := of_some rfl (encS_lt _ _)
theorem mul (f : SSyl) : Statement (.mul f) := of_some rfl (encS_lt _ _)
theorem mulh (f : SSyl) : Statement (.mulh f) := of_some rfl (encS_lt _ _)
theorem mulhz (f : SSyl) : Statement (.mulhz f) := of_some rfl (encS_lt _ _)
theorem div (f : SSyl) : Statement (.div f) := of_some rfl (encS_lt _ _)
theorem divz (f : SSyl) : Statement (.divz f) := of_some rfl (encS_lt _ _)
theorem bfx (f : SSyl) : Statement (.bfx f) := of_some rfl (encS_lt _ _)
theorem bfxz (f : SSyl) : Statement (.bfxz f) := of_some rfl (encS_lt _ _)
theorem bfi (f : SSyl) : Statement (.bfi f) := of_some rfl (encS_lt _ _)
theorem sel (f : SSyl) : Statement (.sel f) := of_some rfl (encS_lt _ _)
theorem li (f : SSyl) : Statement (.li f) := of_some rfl (encS_lt _ _)
theorem lih (f : SSyl) : Statement (.lih f) := of_some rfl (encS_lt _ _)
theorem mov (f : SSyl) : Statement (.mov f) := of_some rfl (encS_lt _ _)
theorem movTl (f : SSyl) : Statement (.movTl f) := of_some rfl (encS_lt _ _)
theorem cmp (f : SSyl) : Statement (.cmp f) := of_some rfl (encS_lt _ _)
theorem cmpi (f : SSyl) : Statement (.cmpi f) := of_some rfl (encS_lt _ _)
theorem gset (f : SSyl) : Statement (.gset f) := of_some rfl (encS_lt _ _)
theorem addr (f : SSyl) : Statement (.addr f) := of_some rfl (encS_lt _ _)
theorem fadd (f : SSyl) : Statement (.fadd f) := of_some rfl (encS_lt _ _)
theorem fmul (f : SSyl) : Statement (.fmul f) := of_some rfl (encS_lt _ _)
theorem ffma (f : SSyl) : Statement (.ffma f) := of_some rfl (encS_lt _ _)
theorem fcmp (f : SSyl) : Statement (.fcmp f) := of_some rfl (encS_lt _ _)
theorem fcvt (f : SSyl) : Statement (.fcvt f) := of_some rfl (encS_lt _ _)
theorem br (f : SSyl) : Statement (.br f) := of_some rfl (encS_lt _ _)
theorem call (f : SSyl) : Statement (.call f) := of_some rfl (encS_lt _ _)
theorem ret (f : SSyl) : Statement (.ret f) := of_some rfl (encS_lt _ _)
theorem loop (f : SSyl) : Statement (.loop f) := of_some rfl (encS_lt _ _)
theorem loopi (f : SSyl) : Statement (.loopi f) := of_some rfl (encS_lt _ _)
theorem brk (f : SSyl) : Statement (.brk f) := of_some rfl (encS_lt _ _)
theorem ntreq (f : SSyl) : Statement (.ntreq f) := of_some rfl (encS_lt _ _)
theorem tileLanding (cid : Nat) : Statement (.tileLanding cid) := of_none rfl
theorem sysr (f : SSyl) : Statement (.sysr f) := of_some rfl (encS_lt _ _)
theorem sysw (f : SSyl) : Statement (.sysw f) := of_some rfl (encS_lt _ _)
theorem lcbWrite (f : SSyl) : Statement (.lcbWrite f) := of_some rfl (encS_lt _ _)
theorem tebWrite (f : SSyl) : Statement (.tebWrite f) := of_some rfl (encS_lt _ _)
theorem nbvWrite (f : SSyl) : Statement (.nbvWrite f) := of_some rfl (encS_lt _ _)
theorem prioWrite (f : SSyl) : Statement (.prioWrite f) := of_some rfl (encS_lt _ _)
theorem flagsWrite (f : SSyl) : Statement (.flagsWrite f) := of_some rfl (encS_lt _ _)
theorem phtselWrite (f : SSyl) : Statement (.phtselWrite f) := of_some rfl (encS_lt _ _)
theorem lstkWrite (f : SSyl) : Statement (.lstkWrite f) := of_some rfl (encS_lt _ _)
theorem trapaWrite (f : SSyl) : Statement (.trapaWrite f) := of_some rfl (encS_lt _ _)
theorem ccnr (f : SSyl) : Statement (.ccnr f) := of_some rfl (encS_lt _ _)
theorem trap (f : SSyl) : Statement (.trap f) := of_some rfl (encS_lt _ _)
theorem trapHsave (f : SSyl) : Statement (.trapHsave f) := of_some rfl (encS_lt _ _)
theorem trapHload (f : SSyl) : Statement (.trapHload f) := of_some rfl (encS_lt _ _)
theorem trapCres (f : SSyl) : Statement (.trapCres f) := of_some rfl (encS_lt _ _)
theorem trapCabn (f : SSyl) : Statement (.trapCabn f) := of_some rfl (encS_lt _ _)
theorem trapKill (f : SSyl) : Statement (.trapKill f) := of_some rfl (encS_lt _ _)
theorem trapCancel (f : SSyl) : Statement (.trapCancel f) := of_some rfl (encS_lt _ _)
theorem rft (f : SSyl) : Statement (.rft f) := of_some rfl (encS_lt _ _)
theorem tend (f : SSyl) : Statement (.tend f) := of_some rfl (encS_lt _ _)
theorem vadd (cl : Cluster) (f : VSyl) : Statement (.vadd cl f) := of_some rfl (encV_slot_lt cl _ f)
theorem vsub (cl : Cluster) (f : VSyl) : Statement (.vsub cl f) := of_some rfl (encV_slot_lt cl _ f)
theorem vmul (cl : Cluster) (f : VSyl) : Statement (.vmul cl f) := of_some rfl (encV_slot_lt cl _ f)
theorem vmad (cl : Cluster) (f : VSyl) : Statement (.vmad cl f) := of_some rfl (encV_slot_lt cl _ f)
theorem vmulw (cl : Cluster) (f : VSyl) : Statement (.vmulw cl f) := of_some rfl (encV_slot_lt cl _ f)
theorem vdot4 (cl : Cluster) (f : VSyl) : Statement (.vdot4 cl f) := of_some rfl (encV_slot_lt cl _ f)
theorem vabs (cl : Cluster) (f : VSyl) : Statement (.vabs cl f) := of_some rfl (encV_slot_lt cl _ f)
theorem vneg (cl : Cluster) (f : VSyl) : Statement (.vneg cl f) := of_some rfl (encV_slot_lt cl _ f)
theorem vmin (cl : Cluster) (f : VSyl) : Statement (.vmin cl f) := of_some rfl (encV_slot_lt cl _ f)
theorem vmax (cl : Cluster) (f : VSyl) : Statement (.vmax cl f) := of_some rfl (encV_slot_lt cl _ f)
theorem vminp (cl : Cluster) (f : VSyl) : Statement (.vminp cl f) := of_some rfl (encV_slot_lt cl _ f)
theorem vmaxp (cl : Cluster) (f : VSyl) : Statement (.vmaxp cl f) := of_some rfl (encV_slot_lt cl _ f)
theorem vclmp (cl : Cluster) (f : VSyl) : Statement (.vclmp cl f) := of_some rfl (encV_slot_lt cl _ f)
theorem vand (cl : Cluster) (f : VSyl) : Statement (.vand cl f) := of_some rfl (encV_slot_lt cl _ f)
theorem vor (cl : Cluster) (f : VSyl) : Statement (.vor cl f) := of_some rfl (encV_slot_lt cl _ f)
theorem vxor (cl : Cluster) (f : VSyl) : Statement (.vxor cl f) := of_some rfl (encV_slot_lt cl _ f)
theorem vandn (cl : Cluster) (f : VSyl) : Statement (.vandn cl f) := of_some rfl (encV_slot_lt cl _ f)
theorem vshl (cl : Cluster) (f : VSyl) : Statement (.vshl cl f) := of_some rfl (encV_slot_lt cl _ f)
theorem vshr (cl : Cluster) (f : VSyl) : Statement (.vshr cl f) := of_some rfl (encV_slot_lt cl _ f)
theorem vsar (cl : Cluster) (f : VSyl) : Statement (.vsar cl f) := of_some rfl (encV_slot_lt cl _ f)
theorem vclz (cl : Cluster) (f : VSyl) : Statement (.vclz cl f) := of_some rfl (encV_slot_lt cl _ f)
theorem vpopc (cl : Cluster) (f : VSyl) : Statement (.vpopc cl f) := of_some rfl (encV_slot_lt cl _ f)
theorem vflr (cl : Cluster) (f : VSyl) : Statement (.vflr cl f) := of_some rfl (encV_slot_lt cl _ f)
theorem vcmp (cl : Cluster) (f : VSyl) : Statement (.vcmp cl f) := of_some rfl (encV_slot_lt cl _ f)
theorem vsel (cl : Cluster) (f : VSyl) : Statement (.vsel cl f) := of_some rfl (encV_slot_lt cl _ f)
theorem vmov (cl : Cluster) (f : VSyl) : Statement (.vmov cl f) := of_some rfl (encV_slot_lt cl _ f)
theorem vmovx (cl : Cluster) (f : VSyl) : Statement (.vmovx cl f) := of_some rfl (encV_slot_lt cl _ f)
theorem vbcs (cl : Cluster) (f : VSyl) : Statement (.vbcs cl f) := of_some rfl (encV_slot_lt cl _ f)
theorem vbcl (cl : Cluster) (f : VSyl) : Statement (.vbcl cl f) := of_some rfl (encV_slot_lt cl _ f)
theorem vext (cl : Cluster) (f : VSyl) : Statement (.vext cl f) := of_some rfl (encV_slot_lt cl _ f)
theorem viota (cl : Cluster) (f : VSyl) : Statement (.viota cl f) := of_some rfl (encV_slot_lt cl _ f)
theorem vperm (cl : Cluster) (f : VSyl) : Statement (.vperm cl f) := of_some rfl (encV_slot_lt cl _ f)
theorem vrot (cl : Cluster) (f : VSyl) : Statement (.vrot cl f) := of_some rfl (encV_slot_lt cl _ f)
theorem vzip (cl : Cluster) (f : VSyl) : Statement (.vzip cl f) := of_some rfl (encV_slot_lt cl _ f)
theorem vuzp (cl : Cluster) (f : VSyl) : Statement (.vuzp cl f) := of_some rfl (encV_slot_lt cl _ f)
theorem vcvt (cl : Cluster) (f : VSyl) : Statement (.vcvt cl f) := of_some rfl (encV_slot_lt cl _ f)
theorem vwid (cl : Cluster) (f : VSyl) : Statement (.vwid cl f) := of_some rfl (encV_slot_lt cl _ f)
theorem vnar (cl : Cluster) (f : VSyl) : Statement (.vnar cl f) := of_some rfl (encV_slot_lt cl _ f)
theorem vscl (cl : Cluster) (f : VSyl) : Statement (.vscl cl f) := of_some rfl (encV_slot_lt cl _ f)
theorem vbin (cl : Cluster) (f : VSyl) : Statement (.vbin cl f) := of_some rfl (encV_slot_lt cl _ f)
theorem vunbn (cl : Cluster) (f : VSyl) : Statement (.vunbn cl f) := of_some rfl (encV_slot_lt cl _ f)
theorem vexp2 (cl : Cluster) (f : VSyl) : Statement (.vexp2 cl f) := of_some rfl (encV_slot_lt cl _ f)
theorem vlog2 (cl : Cluster) (f : VSyl) : Statement (.vlog2 cl f) := of_some rfl (encV_slot_lt cl _ f)
theorem vrcp (cl : Cluster) (f : VSyl) : Statement (.vrcp cl f) := of_some rfl (encV_slot_lt cl _ f)
theorem vrsq (cl : Cluster) (f : VSyl) : Statement (.vrsq cl f) := of_some rfl (encV_slot_lt cl _ f)
theorem vsqrt (cl : Cluster) (f : VSyl) : Statement (.vsqrt cl f) := of_some rfl (encV_slot_lt cl _ f)
theorem vrngs (cl : Cluster) (f : VSyl) : Statement (.vrngs cl f) := of_some rfl (encV_slot_lt cl _ f)
theorem vrng (cl : Cluster) (f : VSyl) : Statement (.vrng cl f) := of_some rfl (encV_slot_lt cl _ f)
theorem vred (cl : Cluster) (f : VSyl) : Statement (.vred cl f) := of_some rfl (encV_slot_lt cl _ f)
theorem vramx (cl : Cluster) (f : VSyl) : Statement (.vramx cl f) := of_some rfl (encV_slot_lt cl _ f)
theorem vramn (cl : Cluster) (f : VSyl) : Statement (.vramn cl f) := of_some rfl (encV_slot_lt cl _ f)
theorem vscan (cl : Cluster) (f : VSyl) : Statement (.vscan cl f) := of_some rfl (encV_slot_lt cl _ f)
theorem vcas (cl : Cluster) (f : VSyl) : Statement (.vcas cl f) := of_some rfl (encV_slot_lt cl _ f)
theorem pand (cl : Cluster) (f : VSyl) : Statement (.pand cl f) := of_some rfl (encV_slot_lt cl _ f)
theorem por (cl : Cluster) (f : VSyl) : Statement (.por cl f) := of_some rfl (encV_slot_lt cl _ f)
theorem pxor (cl : Cluster) (f : VSyl) : Statement (.pxor cl f) := of_some rfl (encV_slot_lt cl _ f)
theorem pandn (cl : Cluster) (f : VSyl) : Statement (.pandn cl f) := of_some rfl (encV_slot_lt cl _ f)
theorem pmov (cl : Cluster) (f : VSyl) : Statement (.pmov cl f) := of_some rfl (encV_slot_lt cl _ f)
theorem pset (cl : Cluster) (f : VSyl) : Statement (.pset cl f) := of_some rfl (encV_slot_lt cl _ f)
theorem pfirst (cl : Cluster) (f : VSyl) : Statement (.pfirst cl f) := of_some rfl (encV_slot_lt cl _ f)
theorem pcnt (cl : Cluster) (f : VSyl) : Statement (.pcnt cl f) := of_some rfl (encV_slot_lt cl _ f)
theorem ld (f : LSyl) : Statement (.ld f) := of_some rfl (encL_lt _ _)
theorem ldSp (f : LSyl) : Statement (.ldSp f) := of_some rfl (encL_lt _ _)
theorem ldc (f : LSyl) : Statement (.ldc f) := of_some rfl (encL_lt _ _)
theorem lds (f : LSyl) : Statement (.lds f) := of_some rfl (encL_lt _ _)
theorem ldsSp (f : LSyl) : Statement (.ldsSp f) := of_some rfl (encL_lt _ _)
theorem ldt (f : LSyl) : Statement (.ldt f) := of_some rfl (encL_lt _ _)
theorem st (f : LSyl) : Statement (.st f) := of_some rfl (encL_lt _ _)
theorem stc (f : LSyl) : Statement (.stc f) := of_some rfl (encL_lt _ _)
theorem sts (f : LSyl) : Statement (.sts f) := of_some rfl (encL_lt _ _)
theorem stt (f : LSyl) : Statement (.stt f) := of_some rfl (encL_lt _ _)
theorem stz (f : LSyl) : Statement (.stz f) := of_some rfl (encL_lt _ _)
theorem resultLanding (cid : Nat) : Statement (.resultLanding cid) := of_none rfl
theorem timedLoadRowRead (cid : Nat) : Statement (.timedLoadRowRead cid) := of_none rfl
theorem timedStoreRowWrite (cid : Nat) : Statement (.timedStoreRowWrite cid) := of_none rfl
theorem mlw (h : EHdr) (o : MOp) : Statement (.mlw h o) := of_some rfl (BitVec.isLt _)
theorem mma (h : EHdr) (o : MOp) : Statement (.mma h o) := of_some rfl (BitVec.isLt _)
theorem mdrn (h : EHdr) (o : MOp) : Statement (.mdrn h o) := of_some rfl (BitVec.isLt _)
theorem mdrc (h : EHdr) (o : MOp) : Statement (.mdrc h o) := of_some rfl (BitVec.isLt _)
theorem mclr (h : EHdr) (o : MOp) : Statement (.mclr h o) := of_some rfl (BitVec.isLt _)
theorem mwsw (h : EHdr) (o : MOp) : Statement (.mwsw h o) := of_some rfl (BitVec.isLt _)
theorem mmsk (h : EHdr) (o : MOp) : Statement (.mmsk h o) := of_some rfl (BitVec.isLt _)
theorem matrixCommandCompletion (core : Nat) : Statement (.matrixCommandCompletion core) := of_none rfl
theorem cpy (h : EHdr) (o : COp) : Statement (.cpy h o) := of_some rfl (BitVec.isLt _)
theorem cpw (h : EHdr) (o : COp) : Statement (.cpw h o) := of_some rfl (BitVec.isLt _)
theorem cpx (h : EHdr) (o : COp) : Statement (.cpx h o) := of_some rfl (BitVec.isLt _)
theorem cpmc (h : EHdr) (o : COp) : Statement (.cpmc h o) := of_some rfl (BitVec.isLt _)
theorem cpg (h : EHdr) (o : COp) : Statement (.cpg h o) := of_some rfl (BitVec.isLt _)
theorem cps (h : EHdr) (o : COp) : Statement (.cps h o) := of_some rfl (BitVec.isLt _)
theorem cpaa (h : EHdr) (o : COp) : Statement (.cpaa h o) := of_some rfl (BitVec.isLt _)
theorem cpld (h : EHdr) (o : COp) : Statement (.cpld h o) := of_some rfl (BitVec.isLt _)
theorem cpst (h : EHdr) (o : COp) : Statement (.cpst h o) := of_some rfl (BitVec.isLt _)
theorem amo (h : EHdr) (o : COp) : Statement (.amo h o) := of_some rfl (BitVec.isLt _)
theorem vamo (h : EHdr) (o : COp) : Statement (.vamo h o) := of_some rfl (BitVec.isLt _)
theorem pft (h : EHdr) (o : COp) : Statement (.pft h o) := of_some rfl (BitVec.isLt _)
theorem strm (h : EHdr) (o : COp) : Statement (.strm h o) := of_some rfl (BitVec.isLt _)
theorem strmGraphReplace (core cmd : Nat) : Statement (.strmGraphReplace core cmd) := of_none rfl
theorem invp (h : EHdr) (o : COp) : Statement (.invp h o) := of_some rfl (BitVec.isLt _)
theorem shpl (h : EHdr) (o : COp) : Statement (.shpl h o) := of_some rfl (BitVec.isLt _)
theorem swait (f : YSyl) : Statement (.swait f) := of_some rfl (encY_lt _ _)
theorem ssig (f : YSyl) : Statement (.ssig f) := of_some rfl (encY_lt _ _)
theorem sset (f : YSyl) : Statement (.sset f) := of_some rfl (encY_lt _ _)
theorem sfaa (f : YSyl) : Statement (.sfaa f) := of_some rfl (encY_lt _ _)
theorem scas (f : YSyl) : Statement (.scas f) := of_some rfl (encY_lt _ _)
theorem semaphoreUpdateApply (core : Nat) : Statement (.semaphoreUpdateApply core) := of_none rfl
theorem phreg (f : YSyl) : Statement (.phreg f) := of_some rfl (encY_lt _ _)
theorem phdrp (f : YSyl) : Statement (.phdrp f) := of_some rfl (encY_lt _ _)
theorem pharv (f : YSyl) : Statement (.pharv f) := of_some rfl (encY_lt _ _)
theorem phwt (f : YSyl) : Statement (.phwt f) := of_some rfl (encY_lt _ _)
theorem phaw (f : YSyl) : Statement (.phaw f) := of_some rfl (encY_lt _ _)
theorem pend (f : YSyl) : Statement (.pend f) := of_some rfl (encY_lt _ _)
theorem signOffSend (cid : Nat) : Statement (.signOffSend cid) := of_none rfl
theorem signOffArrival (part task : Nat) : Statement (.signOffArrival part task) := of_none rfl
theorem phaseStart (part task : Nat) : Statement (.phaseStart part task) := of_none rfl
theorem psel (f : YSyl) : Statement (.psel f) := of_some rfl (encY_lt _ _)
theorem fence (f : YSyl) : Statement (.fence f) := of_some rfl (encY_lt _ _)
theorem yield (f : YSyl) : Statement (.yield f) := of_some rfl (encY_lt _ _)
theorem hint (f : YSyl) : Statement (.hint f) := of_some rfl (encY_lt _ _)
theorem selectedContextIssue (core : Nat) : Statement (.selectedContextIssue core) := of_none rfl
theorem timedCommandBegin (core cmd : Nat) : Statement (.timedCommandBegin core cmd) := of_none rfl
theorem untimedCommandBegin (core cmd : Nat) : Statement (.untimedCommandBegin core cmd) := of_none rfl
theorem copyCommandCompletion (core cmd : Nat) : Statement (.copyCommandCompletion core cmd) := of_none rfl
theorem packetIssue (core : Nat) : Statement (.packetIssue core) := of_none rfl
theorem packetReply (core pkt : Nat) : Statement (.packetReply core pkt) := of_none rfl
theorem packetPerform (core pkt : Nat) : Statement (.packetPerform core pkt) := of_none rfl
theorem correctableThresholdCrossed (part granule : Nat) : Statement (.correctableThresholdCrossed part granule) := of_none rfl
theorem refreshLimitReached (part ctrl : Nat) : Statement (.refreshLimitReached part ctrl) := of_none rfl
theorem tlbWalkComplete (part die page : Nat) : Statement (.tlbWalkComplete part die page) := of_none rfl
theorem compressedPageExpansion (part page : Nat) : Statement (.compressedPageExpansion part page) := of_none rfl
theorem accessCounterThreshold (part die region : Nat) : Statement (.accessCounterThreshold part die region) := of_none rfl
theorem scrubberPass (core : Nat) : Statement (.scrubberPass core) := of_none rfl
theorem launchTaskRecord (part ring : Nat) : Statement (.launchTaskRecord part ring) := of_none rfl
theorem launchNopRecord (part ring : Nat) : Statement (.launchNopRecord part ring) := of_none rfl
theorem ringStampWaitExpiry (part ring : Nat) : Statement (.ringStampWaitExpiry part ring) := of_none rfl
theorem gangBind (part task : Nat) : Statement (.gangBind part task) := of_none rfl
theorem preemptionRequest (part task : Nat) : Statement (.preemptionRequest part task) := of_none rfl
theorem gangRebind (part task : Nat) : Statement (.gangRebind part task) := of_none rfl
theorem taskCompletion (part task : Nat) : Statement (.taskCompletion part task) := of_none rfl
theorem supervisorEventDispatch (core : Nat) : Statement (.supervisorEventDispatch core) := of_none rfl
theorem doorbellWrite (w : DbWrite) : Statement (.doorbellWrite w) := of_none rfl
theorem dbcWrite (req : BarReq) (k : Nat) (v : W64) : Statement (.dbcWrite req k v) := of_none rfl
theorem dbhWrite (req : BarReq) (k : Nat) (v : W64) : Statement (.dbhWrite req k v) := of_none rfl
theorem dbignWrite (req : BarReq) (k : Nat) : Statement (.dbignWrite req k) := of_none rfl
theorem hostBar2Write (part off : Nat) (data : List Byte) (trusted : Bool) : Statement (.hostBar2Write part off data trusted) := of_none rfl
theorem hostBar2Read (part off len : Nat) (trusted : Bool) : Statement (.hostBar2Read part off len trusted) := of_none rfl
theorem hostAtomicop (r : HostAtomic) : Statement (.hostAtomicop r) := of_none rfl
theorem msixVectorUnmask (req : BarReq) (vec : Nat) : Statement (.msixVectorUnmask req vec) := of_none rfl
theorem ideIntegrityFailure (part : Nat) : Statement (.ideIntegrityFailure part) := of_none rfl
theorem spdmRequest (part : Nat) (req : SpdmReq) : Statement (.spdmRequest part req) := of_none rfl
theorem flitReceive (port seq : Nat) (crcOk : Bool) (payload : W64) : Statement (.flitReceive port seq crcOk payload) := of_none rfl
theorem linkAck (port base : Nat) (bitmap : BitVec 256) (nak : Bool) : Statement (.linkAck port base bitmap nak) := of_none rfl
theorem linkRetrain (port : Nat) (ok : Bool) : Statement (.linkRetrain port ok) := of_none rfl
theorem gcmTagVerify (port : Nat) (ok : Bool) : Statement (.gcmTagVerify port ok) := of_none rfl
theorem laneFailure (port good : Nat) : Statement (.laneFailure port good) := of_none rfl
theorem fabricResponseTimeout (core pkt : Nat) : Statement (.fabricResponseTimeout core pkt) := of_none rfl
theorem remoteRequestArrival (r : RemoteReq) : Statement (.remoteRequestArrival r) := of_none rfl
theorem powerLimiter (overBudget : Bool) : Statement (.powerLimiter overBudget) := of_none rfl
theorem controllerRetrainComplete (part ctrl : Nat) : Statement (.controllerRetrainComplete part ctrl) := of_none rfl
theorem illegalOpcode (sl : Slot) (bits : BitVec 96) : Statement (.illegalOpcode sl bits) := fun _ _ hw => by cases hw
theorem tdispRequest (part : Nat) (target : Tdi) : Statement (.tdispRequest part target) := of_none rfl
theorem phaserViewUpdate (core ph : Nat) : Statement (.phaserViewUpdate core ph) := of_none rfl
theorem partset : Statement (.partset) := of_none rfl
theorem fabaddr : Statement (.fabaddr) := of_none rfl
theorem pbase : Statement (.pbase) := of_none rfl
theorem pair : Statement (.pair) := of_none rfl
theorem xroot : Statement (.xroot) := of_none rfl
theorem xinval : Statement (.xinval) := of_none rfl
theorem expool : Statement (.expool) := of_none rfl
theorem compress : Statement (.compress) := of_none rfl
theorem peercopy : Statement (.peercopy) := of_none rfl
theorem errlog : Statement (.errlog) := of_none rfl
theorem faq : Statement (.faq) := of_none rfl
theorem migq : Statement (.migq) := of_none rfl
theorem cethr : Statement (.cethr) := of_none rfl
theorem phallot : Statement (.phallot) := of_none rfl
theorem latchl : Statement (.latchl) := of_none rfl
theorem physmap : Statement (.physmap) := of_none rfl
theorem signer : Statement (.signer) := of_none rfl
theorem load : Statement (.load) := of_none rfl
theorem cancel : Statement (.cancel) := of_none rfl
theorem wreset : Statement (.wreset) := of_none rfl
theorem badadd : Statement (.badadd) := of_none rfl
theorem badread : Statement (.badread) := of_none rfl
theorem retire : Statement (.retire) := of_none rfl
theorem counters : Statement (.counters) := of_none rfl
theorem ports : Statement (.ports) := of_none rfl
theorem trace : Statement (.trace) := of_none rfl
theorem fwprov : Statement (.fwprov) := of_none rfl
theorem mailboxCommandComplete : Statement (.mailboxCommandComplete) := of_none rfl
theorem coldReset : Statement (.coldReset) := of_none rfl
theorem unknownOpc : Statement (.unknownOpc) := of_none rfl

end Sys2Proof.Laws.Fits
end

