-- ==== Sys2Proof/Laws/Raises.lean ====
section
/-! SUPPORT. What the shared steps of the syllables do: nothing raised, the effect; something raised, the trap. -/

namespace Sys2Proof.Machine

@[simp] theorem chk_false (k : Nat) : chk false k = [] := rfl
@[simp] theorem chk_true (k : Nat) : chk true k = [⟨k, 0, 0⟩] := rfl

theorem chk_eq_nil (b : Bool) (k : Nat) : chk b k = [] ↔ b = false := by cases b <;> simp

@[simp] theorem firstRaise_nil : firstRaise [] = none := rfl

theorem firstRaise_eq_none (l : List Raise) : firstRaise l = none ↔ l = [] := by
  cases l with
  | nil => simp
  | cons r rs =>
    simp only [firstRaise, reduceCtorEq, iff_false]
    split
    · simp
    · split <;> simp

/-- A syllable that raises nothing has its effect. -/
theorem syllableStep_clean {sl : Slot} {l : List Raise} {eff : State → State} {s : State} (h : l = []) :
    syllableStep sl l eff s = .next (eff s) := by subst h; rfl

/-- A syllable that raises takes the trap of its first cause. -/
theorem syllableStep_raise {sl : Slot} {l : List Raise} {eff : State → State} {s : State} {r : Raise}
    (h : firstRaise l = some r) : syllableStep sl l eff s = .next (takeTrap (curId s) (issueEvent s sl.num r) s) := by
  simp [syllableStep, h]

/-- Every syllable answers a next state. -/
theorem syllableStep_next (sl : Slot) (l : List Raise) (eff : State → State) (s : State) :
    ∃ t, syllableStep sl l eff s = .next t := by
  unfold syllableStep
  split <;> exact ⟨_, rfl⟩

/-- A well-formed instruction's bits raise nothing. -/
theorem encRaises_wf {i : Instr} (h : i.wf = true) : encRaises (enc i) = [] := by
  simp only [Instr.wf, Bool.and_eq_true, Bool.not_eq_true'] at h
  simp [encRaises, h.1.1, h.1.2]

/-- An illegal encoding is the first cause of its syllable among those of R250 (R122, R250). -/
theorem firstRaise_illegal (l : List Raise) (h : ∀ r ∈ l, 2 ≤ issueRank r.cause) :
    firstRaise (⟨0x01, 0, 0⟩ :: l) = some ⟨0x01, 0, 0⟩ := by
  simp only [firstRaise]
  split
  · rfl
  · next q hq =>
    have : q ∈ l := by
      clear h
      induction l generalizing q with
      | nil => simp at hq
      | cons a l ih =>
        simp only [firstRaise] at hq
        split at hq
        · simp_all
        · next p hp =>
          split at hq
          · simp_all
          · simp only [Option.some.injEq] at hq
            subst hq
            exact List.mem_cons_of_mem _ (ih _ hp)
    have := h q this
    rw [if_pos (by simpa [issueRank] using this)]

/-- The guard of an S syllable holds and nothing raised: the effect (R123). -/
theorem scalarStep_on {i : Instr} {f : SSyl} {always checks : State → List Raise} {eff : State → State} {s : State}
    (he : encRaises (enc i) = []) (hr : gresolved (cur s) f.g.toNat = true)
    (hg : gget (cur s) f.g.toNat = (f.gn == 0)) (ha : always s = []) (hc : checks s = []) :
    scalarStep (enc i) f always checks eff s = .next (eff s) := by
  have hb : ∀ b : BitVec 1, ((b == 0) != (b == 1)) = true := by decide
  have hn := hb f.gn
  simp only [scalarStep, scalarRaises, guardOn, syllableStep, he, hr, hg, ha, hc, hn, Bool.not_true, chk_false,
    List.append_nil, if_true]
  rfl

/-- The guard of an S syllable does not hold: nothing happens (R123). -/
theorem scalarStep_off {i : Instr} {f : SSyl} {always checks : State → List Raise} {eff : State → State} {s : State}
    (he : encRaises (enc i) = []) (hr : gresolved (cur s) f.g.toNat = true)
    (hg : gget (cur s) f.g.toNat = (f.gn == 1)) (ha : always s = []) :
    scalarStep (enc i) f always checks eff s = .next s := by
  simp [scalarStep, scalarRaises, guardOn, syllableStep, he, hr, hg, ha]

end Sys2Proof.Machine
end

