-- ==== Sys2Proof/Tests/Slice0.lean ====
section
/-! SUPPORT. Tests: words written out from the spec's encodings, values from its worked examples, ill-formed terms, and
states that meet the hypotheses of every statement. -/

set_option maxRecDepth 20000
set_option Elab.async false

namespace Sys2Proof.Tests

open Sys2Proof Sys2Proof.Machine Sys2Proof.Safety

/-! ### Decoding (R120 to R138): words of the spec's examples, and words laid out by hand from R123 to R132 -/

theorem test_decode_spec_examples :
    decodeSyl .s 0x1A14108000000004 = .sel ⟨5, 1, 2, 0, 0, 4⟩ ∧ decodeSyl .s 0x3C0000000000002A = .trap ⟨0, 0, 0, 0, 0, 42⟩ ∧
    decodeSyl .s 0x390000000000000B = .flagsWrite ⟨0, 0, 0, 0, 0, 11⟩ ∧
    decodeSyl .va 0x3284000001000400 = .vcvt .a ⟨8, 8, 0, 0, 0, 0, 0, 8, 0x400⟩ ∧
    decodeSyl .vb 0x44850420000000F0 = .vcas .b ⟨8, 10, 2, 4, 0, 0, 0, 0, 0xF0⟩ ∧
    decodeSyl .ld 0x0E86018820 = .lds ⟨1, 8, 3, 0, 0, 6, 130, 0, 0⟩ ∧
    decodeSyl .m 0x070000000000800012000000 = .mmsk ⟨0, 0, 0, 0, 2, 0, 0⟩ ⟨0, 0, 9, 0, 0, 0, 0, 0, 0, 0, 0, 0⟩ ∧
    decodeSyl .cp 0x030000061FFFC00014540590 =
      .cpx ⟨0, 0, 6, 1, 0x3FFF, 0, 0⟩ ⟨0, 0, 20, 21, 0, 0, 1, 3, 1, 0⟩ ∧
    decodeSyl .sy 0x480000046000 = .fence ⟨0, 0, 0, 0, 4, 3, 0⟩ ∧ decodeSyl .sy 0x4E0000000000 = .yield ⟨1, 0, 0, 0, 0, 0, 0⟩ ∧
    decodeSyl .sy 0x300000644000 = .phaw ⟨0, 0, 0, 12, 4, 2, 0⟩ := by decide

/-- The all-zero syllable is a NOP (R121); opcodes 0xE0 to 0xFF of the S slot are hints (R133). -/
theorem test_decode_nop_and_hint : decodeSyl .m 0 = .nop .m 0 ∧
    decodeSyl .s 0xE000000000000001 = .hintRegion .s 0xE000000000000001 ∧
    decodeSyl .s 0xFF00000000000000 = .hintRegion .s 0xFF00000000000000 := by decide

/-- The table's numbering: a syllable of 64 bits. -/
theorem test_decode_table_word : decodeTableWord 64 0x010C108000000000 = some (.add ⟨3, 1, 2, 0, 0, 0⟩) := by decide +kernel

/-- The words of the S opcodes (R134), each with fields of its own. -/
theorem test_scalar_opcodes_low : ∀ x ∈ ([
    (0x107E14300010008, .add ⟨1, 62, 5, 1, 1, 0x10008⟩),
    (0x20BD28400010010, .addi ⟨2, 61, 10, 2, 0, 0x10010⟩),
    (0x30FC3C700010018, .sub ⟨3, 60, 15, 3, 1, 0x10018⟩),
    (0x413B50800010020, .mul ⟨4, 59, 20, 4, 0, 0x10020⟩),
    (0x517A64B00010028, .mulh ⟨5, 58, 25, 5, 1, 0x10028⟩),
    (0x61B978C00010030, .mulhz ⟨6, 57, 30, 6, 0, 0x10030⟩),
    (0x71F88CF00010038, .div ⟨7, 56, 35, 7, 1, 0x10038⟩),
    (0x8237A1000010040, .divz ⟨8, 55, 40, 8, 0, 0x10040⟩),
    (0x9276B5300010048, .and ⟨9, 54, 45, 9, 1, 0x10048⟩),
    (0xA2B5C9400010050, .or ⟨10, 53, 50, 10, 0, 0x10050⟩),
    (0xB2F4DD700010058, .xor ⟨11, 52, 55, 11, 1, 0x10058⟩),
    (0xC333F1800010060, .andn ⟨12, 51, 60, 12, 0, 0x10060⟩),
    (0xD37205B00010068, .shl ⟨13, 50, 1, 13, 1, 0x10068⟩),
    (0xE3B119C00010070, .shr ⟨14, 49, 6, 14, 0, 0x10070⟩),
    (0xF3F02DF00010078, .sar ⟨15, 48, 11, 15, 1, 0x10078⟩),
    (0x1042F42000010080, .rotr ⟨16, 47, 16, 16, 0, 0x10080⟩),
    (0x1146E56300010088, .mini ⟨17, 46, 21, 17, 1, 0x10088⟩),
    (0x124AD6A400010090, .maxi ⟨18, 45, 26, 18, 0, 0x10090⟩),
    (0x134EC7E700010098, .minz ⟨19, 44, 31, 19, 1, 0x10098⟩),
    (0x1452B928000100A0, .maxz ⟨20, 43, 36, 20, 0, 0x100A0⟩),
    (0x1556AA6B000100A8, .clz ⟨21, 42, 41, 21, 1, 0x100A8⟩),
    (0x165A9BAC000100B0, .popc ⟨22, 41, 46, 22, 0, 0x100B0⟩),
    (0x175E8CEF000100B8, .bfx ⟨23, 40, 51, 23, 1, 0x100B8⟩),
    (0x18627E30000100C0, .bfxz ⟨24, 39, 56, 24, 0, 0x100C0⟩),
    (0x19666F73000100C8, .bfi ⟨25, 38, 61, 25, 1, 0x100C8⟩)] : List (BitVec 96 × Instr)), decodeSyl .s x.1 = x.2 := by decide +kernel

/-- The words of the S opcodes (R134), each with fields of its own. -/
theorem test_scalar_opcodes_high : ∀ x ∈ ([
    (0x1A6A50B4000100D0, .sel ⟨26, 37, 2, 26, 0, 0x100D0⟩),
    (0x1B6E41F7000100D8, .li ⟨27, 36, 7, 27, 1, 0x100D8⟩),
    (0x1C723338000100E0, .lih ⟨28, 35, 12, 28, 0, 0x100E0⟩),
    (0x1D76247B000100E8, .mov ⟨29, 34, 17, 29, 1, 0x100E8⟩),
    (0x1E7A15BC000100F0, .cmp ⟨30, 33, 22, 30, 0, 0x100F0⟩),
    (0x1F7E06FF000100F8, .cmpi ⟨31, 32, 27, 31, 1, 0x100F8⟩),
    (0x2081F80000010100, .gset ⟨32, 31, 32, 0, 0, 0x10100⟩),
    (0x2185E94300010108, .addr ⟨33, 30, 37, 1, 1, 0x10108⟩),
    (0x2289DA8400010110, .fadd ⟨34, 29, 42, 2, 0, 0x10110⟩),
    (0x238DCBC700010118, .fmul ⟨35, 28, 47, 3, 1, 0x10118⟩),
    (0x2491BD0800010120, .ffma ⟨36, 27, 52, 4, 0, 0x10120⟩),
    (0x2595AE4B00010128, .fcmp ⟨37, 26, 57, 5, 1, 0x10128⟩),
    (0x26999F8C00010130, .fcvt ⟨38, 25, 62, 6, 0, 0x10130⟩),
    (0x309D80CF00010138, .br ⟨39, 24, 3, 7, 1, 0x10138⟩),
    (0x31A1721000010140, .call ⟨40, 23, 8, 8, 0, 0x10140⟩),
    (0x32A5635300010148, .ret ⟨41, 22, 13, 9, 1, 0x10148⟩),
    (0x33A9549400010150, .loop ⟨42, 21, 18, 10, 0, 0x10150⟩),
    (0x34AD45D700010158, .loopi ⟨43, 20, 23, 11, 1, 0x10158⟩),
    (0x35B1371800010160, .brk ⟨44, 19, 28, 12, 0, 0x10160⟩),
    (0x36B5285B00010168, .ntreq ⟨45, 18, 33, 13, 1, 0x10168⟩),
    (0x38B9199C00010170, .sysr ⟨46, 17, 38, 14, 0, 0x10170⟩),
    (0x3AC0FC2000010180, .ccnr ⟨48, 15, 48, 16, 0, 0x10180⟩),
    (0x3CC4ED6300010188, .trap ⟨49, 14, 53, 17, 1, 0x10188⟩),
    (0x3DC8DEA400010190, .rft ⟨50, 13, 58, 18, 0, 0x10190⟩),
    (0x3ECCCFE700010198, .tend ⟨51, 12, 63, 19, 1, 0x10198⟩)] : List (BitVec 96 × Instr)), decodeSyl .s x.1 = x.2 := by decide +kernel

/-- Rows that share an opcode: MOV from tl (R321), the registers of SYSW (R140), the functions of TRAP (R255). -/
theorem test_scalar_rows_of_one_opcode : ∀ x ∈ ([
    (0x1D0C000000000006, .movTl ⟨3, 0, 0, 0, 0, 6⟩),
    (0x3900700000000100, .sysw ⟨0, 7, 0, 0, 0, 0x100⟩),
    (0x3900700000000040, .lcbWrite ⟨0, 7, 0, 0, 0, 0x40⟩),
    (0x3900700000000022, .tebWrite ⟨0, 7, 0, 0, 0, 0x22⟩),
    (0x3900700000000008, .nbvWrite ⟨0, 7, 0, 0, 0, 0x8⟩),
    (0x3900700000000002, .prioWrite ⟨0, 7, 0, 0, 0, 0x2⟩),
    (0x390070000000000B, .flagsWrite ⟨0, 7, 0, 0, 0, 0xB⟩),
    (0x3900700000000021, .phtselWrite ⟨0, 7, 0, 0, 0, 0x21⟩),
    (0x3900700000000020, .lstkWrite ⟨0, 7, 0, 0, 0, 0x20⟩),
    (0x3900700000000031, .trapaWrite ⟨0, 7, 0, 0, 0, 0x31⟩),
    (0x3C24800080000002, .trapHsave ⟨9, 8, 0, 0, 0, 0x80000002⟩),
    (0x3C24800088000002, .trapHload ⟨9, 8, 0, 0, 0, 0x88000002⟩),
    (0x3C24800090000002, .trapCres ⟨9, 8, 0, 0, 0, 0x90000002⟩),
    (0x3C24800098000002, .trapCabn ⟨9, 8, 0, 0, 0, 0x98000002⟩),
    (0x3C248000A0000002, .trapKill ⟨9, 8, 0, 0, 0, 0xA0000002⟩),
    (0x3C248000A8000002, .trapCancel ⟨9, 8, 0, 0, 0, 0xA8000002⟩)] : List (BitVec 96 × Instr)), decodeSyl .s x.1 = x.2 := by decide +kernel

/-- The words of the V opcodes (R135), the odd ones in VA. -/
theorem test_vector_opcodes_a : ∀ x ∈ ([
    (0x1108628E6610001, .vadd .a ⟨1, 1, 3, 5, 7, 1, 1, 3, 0x10001⟩),
    (0x331927AAF210003, .vmul .a ⟨3, 3, 9, 15, 21, 3, 1, 9, 0x10003⟩),
    (0x5529ECC77E10005, .vmulw .a ⟨5, 5, 15, 25, 35, 5, 1, 15, 0x10005⟩),
    (0x773AB1E3EA10007, .vabs .a ⟨7, 7, 21, 35, 49, 7, 1, 5, 0x10007⟩),
    (0x994B76FE7610009, .vmin .a ⟨9, 9, 27, 45, 63, 1, 1, 11, 0x10009⟩),
    (0xBB5C3B9AE21000B, .vminp .a ⟨11, 11, 33, 55, 13, 3, 1, 1, 0x1000B⟩),
    (0xDD6CE0B76E1000D, .vclmp .a ⟨13, 13, 39, 1, 27, 5, 1, 7, 0x1000D⟩),
    (0x11F7DA5D3FA1000F, .vor .a ⟨15, 15, 45, 11, 41, 7, 1, 13, 0x1000F⟩),
    (0x1318E6AEE6610011, .vandn .a ⟨1, 17, 51, 21, 55, 1, 1, 3, 0x10011⟩),
    (0x1539F2F8AF210013, .vshr .a ⟨3, 19, 57, 31, 5, 3, 1, 9, 0x10013⟩),
    (0x175AFF4A77E10015, .vclz .a ⟨5, 21, 63, 41, 19, 5, 1, 15, 0x10015⟩),
    (0x197B8B9C3EA10017, .vflr .a ⟨7, 23, 5, 51, 33, 7, 1, 5, 0x10017⟩),
    (0x1B9C97EDE7610019, .vsel .a ⟨9, 25, 11, 61, 47, 1, 1, 11, 0x10019⟩),
    (0x21BDA23FAE21001B, .vmovx .a ⟨11, 27, 17, 7, 61, 3, 1, 1, 0x1001B⟩),
    (0x23DEAE8976E1001D, .vbcl .a ⟨13, 29, 23, 17, 11, 5, 1, 7, 0x1001D⟩),
    (0x25FFBADB3FA1001F, .vperm .a ⟨15, 31, 29, 27, 25, 7, 1, 13, 0x1001F⟩),
    (0x2710C72CE6610021, .vzip .a ⟨1, 1, 35, 37, 39, 1, 1, 3, 0x10021⟩),
    (0x2931D37EAF210023, .viota .a ⟨3, 3, 41, 47, 53, 3, 1, 9, 0x10023⟩),
    (0x3152DFC877E10025, .vnar .a ⟨5, 5, 47, 57, 3, 5, 1, 15, 0x10025⟩),
    (0x3373EA1A3EA10027, .vscl .a ⟨7, 7, 53, 3, 17, 7, 1, 5, 0x10027⟩),
    (0x3594F66BE7610029, .vunbn .a ⟨9, 9, 59, 13, 31, 1, 1, 11, 0x10029⟩),
    (0x39B582BDAE21002B, .vlog2 .a ⟨11, 11, 1, 23, 45, 3, 1, 1, 0x1002B⟩),
    (0x3BD68F0F76E1002D, .vrsq .a ⟨13, 13, 7, 33, 59, 5, 1, 7, 0x1002D⟩),
    (0x3DF79B593FA1002F, .vrngs .a ⟨15, 15, 13, 43, 9, 7, 1, 13, 0x1002F⟩),
    (0x4018A7AAE6610031, .vred .a ⟨1, 17, 19, 53, 23, 1, 1, 3, 0x10031⟩),
    (0x4239B3FCAF210033, .vramn .a ⟨3, 19, 25, 63, 37, 3, 1, 9, 0x10033⟩),
    (0x445ABE4E77E10035, .vcas .a ⟨5, 21, 31, 9, 51, 5, 1, 15, 0x10035⟩),
    (0x517BCA983EA10037, .por .a ⟨7, 23, 37, 19, 1, 7, 1, 5, 0x10037⟩),
    (0x539CD6E9E7610039, .pandn .a ⟨9, 25, 43, 29, 15, 1, 1, 11, 0x10039⟩),
    (0x55BDE33BAE21003B, .pset .a ⟨11, 27, 49, 39, 29, 3, 1, 1, 0x1003B⟩),
    (0x57DEEF8D76E1003D, .pcnt .a ⟨13, 29, 55, 49, 43, 5, 1, 7, 0x1003D⟩)] : List (BitVec 96 × Instr)), decodeSyl .va x.1 = x.2 := by decide +kernel

/-- The words of the V opcodes (R135), the even ones in VB. -/
theorem test_vector_opcodes_b : ∀ x ∈ ([
    (0x2210C51C8C10002, .vsub .b ⟨2, 2, 6, 10, 14, 2, 0, 6, 0x10002⟩),
    (0x44218A391810004, .vmad .b ⟨4, 4, 12, 20, 28, 4, 0, 12, 0x10004⟩),
    (0x66324F558410006, .vdot4 .b ⟨6, 6, 18, 30, 42, 6, 0, 2, 0x10006⟩),
    (0x884314701010008, .vneg .b ⟨8, 8, 24, 40, 56, 0, 0, 8, 0x10008⟩),
    (0xAA53D90C9C1000A, .vmax .b ⟨10, 10, 30, 50, 6, 2, 0, 14, 0x1000A⟩),
    (0xCC649E29081000C, .vmaxp .b ⟨12, 12, 36, 60, 20, 4, 0, 4, 0x1000C⟩),
    (0x10E754345941000E, .vand .b ⟨14, 14, 42, 6, 34, 6, 0, 10, 0x1000E⟩),
    (0x1208608600010010, .vxor .b ⟨0, 16, 48, 16, 48, 0, 0, 0, 0x10010⟩),
    (0x14296CD7C8C10012, .vshl .b ⟨2, 18, 54, 26, 62, 2, 0, 6, 0x10012⟩),
    (0x164A792191810014, .vsar .b ⟨4, 20, 60, 36, 12, 4, 0, 12, 0x10014⟩),
    (0x186B057358410016, .vpopc .b ⟨6, 22, 2, 46, 26, 6, 0, 2, 0x10016⟩),
    (0x1A8C11C501010018, .vcmp .b ⟨8, 24, 8, 56, 40, 0, 0, 8, 0x10018⟩),
    (0x20AD1C16C9C1001A, .vmov .b ⟨10, 26, 14, 2, 54, 2, 0, 14, 0x1001A⟩),
    (0x22CE28609081001C, .vbcs .b ⟨12, 28, 20, 12, 4, 4, 0, 4, 0x1001C⟩),
    (0x24EF34B25941001E, .vext .b ⟨14, 30, 26, 22, 18, 6, 0, 10, 0x1001E⟩),
    (0x2600410400010020, .vrot .b ⟨0, 0, 32, 32, 32, 0, 0, 0, 0x10020⟩),
    (0x28214D55C8C10022, .vuzp .b ⟨2, 2, 38, 42, 46, 2, 0, 6, 0x10022⟩),
    (0x304259A791810024, .vwid .b ⟨4, 4, 44, 52, 60, 4, 0, 12, 0x10024⟩),
    (0x326365F158410026, .vcvt .b ⟨6, 6, 50, 62, 10, 6, 0, 2, 0x10026⟩),
    (0x3484704301010028, .vbin .b ⟨8, 8, 56, 8, 24, 0, 0, 8, 0x10028⟩),
    (0x38A57C94C9C1002A, .vexp2 .b ⟨10, 10, 62, 18, 38, 2, 0, 14, 0x1002A⟩),
    (0x3AC608E69081002C, .vrcp .b ⟨12, 12, 4, 28, 52, 4, 0, 4, 0x1002C⟩),
    (0x3CE715305941002E, .vsqrt .b ⟨14, 14, 10, 38, 2, 6, 0, 10, 0x1002E⟩),
    (0x3E08218200010030, .vrng .b ⟨0, 16, 16, 48, 16, 0, 0, 0, 0x10030⟩),
    (0x41292DD3C8C10032, .vramx .b ⟨2, 18, 22, 58, 30, 2, 0, 6, 0x10032⟩),
    (0x434A382591810034, .vscan .b ⟨4, 20, 28, 4, 44, 4, 0, 12, 0x10034⟩),
    (0x506B447758410036, .pand .b ⟨6, 22, 34, 14, 58, 6, 0, 2, 0x10036⟩),
    (0x528C50C101010038, .pxor .b ⟨8, 24, 40, 24, 8, 0, 0, 8, 0x10038⟩),
    (0x54AD5D12C9C1003A, .pmov .b ⟨10, 26, 46, 34, 22, 2, 0, 14, 0x1003A⟩),
    (0x56CE69649081003C, .pfirst .b ⟨12, 28, 52, 44, 36, 4, 0, 4, 0x1003C⟩)] : List (BitVec 96 × Instr)), decodeSyl .vb x.1 = x.2 := by decide +kernel

/-- The words of the LD opcodes (R136). -/
theorem test_load_opcodes : ∀ x ∈ ([
    (0x542DCABC0, .ld ⟨0, 20, 1, 6, 1, 50, 700, 0, 0⟩),
    (0xB54ECEBD2, .ldc ⟨1, 21, 2, 7, 0, 51, 701, 1, 0⟩),
    (0xD671D2BE4, .lds ⟨0, 22, 3, 8, 1, 52, 702, 2, 0⟩),
    (0x13792D6BF6, .ldt ⟨1, 23, 4, 9, 0, 53, 703, 3, 0⟩),
    (0x258B5DAC08, .ldSp ⟨0, 24, 5, 10, 1, 54, 704, 4, 0⟩),
    (0x2F9D6DEC1A, .ldsSp ⟨1, 25, 6, 11, 0, 55, 705, 5, 0⟩)] : List (BitVec 96 × Instr)), decodeSyl .ld x.1 = x.2 := by decide +kernel

/-- The words of the SD opcodes (R136). -/
theorem test_store_opcodes : ∀ x ∈ ([
    (0x542DCABCE, .st ⟨0, 20, 1, 6, 1, 50, 700, 7, 0⟩),
    (0xB54ECEBDC, .stc ⟨1, 21, 2, 7, 0, 51, 701, 6, 0⟩),
    (0xD671D2BEA, .sts ⟨0, 22, 3, 8, 1, 52, 702, 5, 0⟩),
    (0x13792D6BF8, .stt ⟨1, 23, 4, 9, 0, 53, 703, 4, 0⟩),
    (0x158B5DAC06, .stz ⟨0, 24, 5, 10, 1, 54, 704, 3, 0⟩)] : List (BitVec 96 × Instr)), decodeSyl .sd x.1 = x.2 := by decide +kernel

/-- The words of the M opcodes (R129, R130, R137). -/
theorem test_matrix_opcodes : ∀ x ∈ ([
    (0x103285A20FA120F51C65405, .mlw ⟨3, 40, 90, 2, 1000, 9, 0⟩ ⟨0, 30, 40, 7, 0, 50, 20, 0, 0, 1, 0, 1⟩),
    (0x204295B30FA552FD38E750B, .mma ⟨4, 41, 91, 3, 1001, 10, 1⟩ ⟨1, 31, 41, 6, 1, 51, 21, 0, 1, 0, 1, 1⟩),
    (0x3052A5C40FA965055569605, .mdrn ⟨5, 42, 92, 4, 1002, 11, 0⟩ ⟨2, 32, 42, 5, 2, 52, 22, 0, 0, 1, 0, 1⟩),
    (0x4062B5D50FAD970D71EB70B, .mdrc ⟨6, 43, 93, 5, 1003, 12, 1⟩ ⟨3, 33, 43, 4, 3, 53, 23, 0, 1, 0, 1, 1⟩),
    (0x5072C5E60FB1A9158E6D805, .mclr ⟨7, 44, 94, 6, 1004, 13, 0⟩ ⟨4, 34, 44, 3, 4, 54, 24, 0, 0, 1, 0, 1⟩),
    (0x6082D5F70FB5DB1DAAEF90B, .mwsw ⟨8, 45, 95, 7, 1005, 14, 1⟩ ⟨5, 35, 45, 2, 5, 55, 25, 0, 1, 0, 1, 1⟩),
    (0x7092E6080FB9ED25C771A05, .mmsk ⟨9, 46, 96, 8, 1006, 15, 0⟩ ⟨6, 36, 46, 1, 6, 56, 26, 0, 0, 1, 0, 1⟩)] : List (BitVec 96 × Instr)), decodeSyl .m x.1 = x.2 := by decide +kernel

/-- The words of the CP opcodes (R129, R131, R137). -/
theorem test_copy_opcodes : ∀ x ∈ ([
    (0x103285A01F412501EA30470, .cpy ⟨3, 40, 90, 0, 2000, 9, 0⟩ ⟨10, 0, 30, 40, 48, 0, 1, 0, 7, 0⟩),
    (0x204295B11F455581FA718E1, .cpw ⟨4, 41, 91, 1, 2001, 10, 1⟩ ⟨11, 0, 31, 41, 49, 1, 0, 1, 6, 1⟩),
    (0x3052A5C21F4966020AB2552, .cpx ⟨5, 42, 92, 2, 2002, 11, 0⟩ ⟨12, 0, 32, 42, 50, 0, 1, 2, 5, 2⟩),
    (0x4062B5D31F4D96821AF39C3, .cpmc ⟨6, 43, 93, 3, 2003, 12, 1⟩ ⟨13, 0, 33, 43, 51, 1, 0, 3, 4, 3⟩),
    (0x5072C5E41F51A7022B34634, .cpg ⟨7, 44, 94, 4, 2004, 13, 0⟩ ⟨14, 0, 34, 44, 52, 0, 1, 4, 3, 4⟩),
    (0x6082D5F51F55D7823B75AA5, .cps ⟨8, 45, 95, 5, 2005, 14, 1⟩ ⟨15, 0, 35, 45, 53, 1, 0, 5, 2, 5⟩),
    (0x7092E6061F59E8024BB6716, .cpaa ⟨9, 46, 96, 6, 2006, 15, 0⟩ ⟨16, 0, 36, 46, 54, 0, 1, 6, 1, 6⟩),
    (0x80A2F6171F5E18825BF7B87, .cpld ⟨10, 47, 97, 7, 2007, 16, 1⟩ ⟨17, 0, 37, 47, 55, 1, 0, 7, 0, 7⟩),
    (0x90B306281F6229026C38478, .cpst ⟨11, 48, 98, 8, 2008, 17, 0⟩ ⟨18, 0, 38, 48, 56, 0, 1, 0, 7, 8⟩),
    (0xA0C316391F6659827C798E9, .amo ⟨12, 49, 99, 9, 2009, 18, 1⟩ ⟨19, 0, 39, 49, 57, 1, 0, 1, 6, 9⟩),
    (0xB0D3264A1F6A6A028CBA55A, .vamo ⟨13, 50, 100, 10, 2010, 19, 0⟩ ⟨20, 0, 40, 50, 58, 0, 1, 2, 5, 10⟩),
    (0xC0E3365B1F6E9A829CFB9CB, .pft ⟨14, 51, 101, 11, 2011, 20, 1⟩ ⟨21, 0, 41, 51, 59, 1, 0, 3, 4, 11⟩),
    (0xD0F3466C1F72AB02AD3C63C, .strm ⟨15, 52, 102, 12, 2012, 21, 0⟩ ⟨22, 0, 42, 52, 60, 0, 1, 4, 3, 12⟩),
    (0xE103567D1F76DB82BD7DAAD, .invp ⟨16, 53, 103, 13, 2013, 22, 1⟩ ⟨23, 0, 43, 53, 61, 1, 0, 5, 2, 13⟩),
    (0xF113668E1F7AEC02CDBE71E, .shpl ⟨17, 54, 104, 14, 2014, 23, 0⟩ ⟨24, 0, 44, 54, 62, 0, 1, 6, 1, 14⟩)] : List (BitVec 96 × Instr)), decodeSyl .cp x.1 = x.2 := by decide +kernel

/-- The words of the SY opcodes (R132, R138). -/
theorem test_sync_opcodes : ∀ x ∈ ([
    (0x4C99140EFA0, .swait ⟨0, 100, 200, 40, 0, 7, 4000⟩),
    (0xACB9349CFA1, .ssig ⟨1, 101, 201, 41, 1, 6, 4001⟩),
    (0xCCD9552AFA2, .sset ⟨0, 102, 202, 42, 2, 5, 4002⟩),
    (0x12CF975B8FA3, .sfaa ⟨1, 103, 203, 43, 3, 4, 4003⟩),
    (0x14D199646FA4, .scas ⟨0, 104, 204, 44, 4, 3, 4004⟩),
    (0x22D39B6D4FA5, .phreg ⟨1, 105, 205, 45, 5, 2, 4005⟩),
    (0x24D59D762FA6, .phdrp ⟨0, 106, 206, 46, 6, 1, 4006⟩),
    (0x2AD79F7F0FA7, .pharv ⟨1, 107, 207, 47, 7, 0, 4007⟩),
    (0x2CD9A180EFA8, .phwt ⟨0, 108, 208, 48, 0, 7, 4008⟩),
    (0x32DBA389CFA9, .phaw ⟨1, 109, 209, 49, 1, 6, 4009⟩),
    (0x40DDA592AFAA, .pend ⟨0, 110, 210, 50, 2, 5, 4010⟩),
    (0x46DFA79B8FAB, .psel ⟨1, 111, 211, 51, 3, 4, 4011⟩),
    (0x48E1A9A46FAC, .fence ⟨0, 112, 212, 52, 4, 3, 4012⟩),
    (0x4EE3ABAD4FAD, .yield ⟨1, 113, 213, 53, 5, 2, 4013⟩),
    (0xE0E5ADB62FAE, .hint ⟨0, 114, 214, 54, 6, 1, 4014⟩)] : List (BitVec 96 × Instr)), decodeSyl .sy x.1 = x.2 := by decide +kernel

/-- Opcodes of no row name no instruction (R133 to R138). -/
theorem test_unused_opcodes : ∀ x ∈ ([(.s, 0x2F), (.s, 0x37), (.s, 0x3B), (.s, 0x3F), (.s, 0xDF), (.va, 0x0E), (.va, 0x2A),
    (.vb, 0x36), (.vb, 0x3F), (.vb, 0x58), (.ld, 5), (.ld, 10), (.ld, 0x37), (.sd, 6), (.sd, 9), (.m, 8), (.m, 0xDF),
    (.cp, 0x10), (.cp, 0xDF), (.sy, 6), (.sy, 7), (.sy, 0x0D), (.sy, 0x14), (.sy, 0x37)] : List (Slot × Nat)),
    let w : BitVec 96 := BitVec.ofNat 96 (x.2 * 2 ^ (x.1.width - (match x.1 with | .ld | .sd | .sy => 6 | _ => 8)))
    decodeSyl x.1 w = .illegalOpcode x.1 w := by decide +kernel

/-- Encoding gives the words back. -/
theorem test_encode_words :
    encodeSyl (.add ⟨3, 1, 2, 0, 0, 0⟩) = some (.s, 0x010C108000000000) ∧
    encodeSyl (.fence ⟨0, 0, 0, 0, 4, 3, 0⟩) = some (.sy, 0x480000046000) ∧
    encodeSyl (.vcas .b ⟨8, 10, 2, 4, 0, 0, 0, 0, 0xF0⟩) = some (.vb, 0x44850420000000F0) ∧
    encodeSyl (.lds ⟨1, 8, 3, 0, 0, 6, 130, 0, 0⟩) = some (.ld, 0x0E86018820) := by decide

/-! ### Ill-formed terms, one for each check -/

/-- Fields that must be zero (R4, R276, R127, R128, R132, R320). -/
theorem test_reserved_fields_are_ill_formed :
    (Instr.add ⟨3, 1, 2, 0, 0, 1⟩).wf = false ∧ (Instr.addr ⟨3, 1, 2, 0, 0, 0x40⟩).wf = false ∧
    (Instr.bfx ⟨3, 1, 2, 0, 0, 0x404⟩).wf = false ∧ (Instr.vadd .a ⟨8, 3, 1, 2, 4, 0, 0, 0, 0x200⟩).wf = false ∧
    (Instr.vadd .a ⟨8, 3, 1, 2, 0, 0, 0, 0, 0x201⟩).wf = false ∧ (Instr.vbcl .a ⟨8, 3, 1, 0, 0, 0, 0, 0, 0x400⟩).wf = false ∧
    (Instr.ld ⟨0, 5, 2, 8, 0, 6, 37, 0, 1⟩).wf = false ∧ (Instr.fence ⟨0, 1, 0, 0, 4, 3, 0⟩).wf = false ∧
    (Instr.mwsw ⟨0, 0, 0, 0, 2, 0, 0⟩ ⟨1, 0, 0, 0, 0, 0, 0, 0, 0, 0, 0, 0⟩).wf = false ∧
    (Instr.cpx ⟨0, 0, 6, 1, 0x3FFF, 0, 0⟩ ⟨0, 1, 20, 21, 0, 0, 0, 0, 0, 0⟩).wf = false ∧
    (Instr.nop .s 1).wf = false := by decide

/-- Values that are illegal encodings: an element type, a rounding mode, a source code (R125), a group size (R359), an index
(R357), a conversion (R360), a comparison (R355), an address mode (R311), an untimed matrix command (R53), an operation
(R281), a SILL bit that must be set (R374), a storage scope (R209), an opcode (R133). -/
theorem test_illegal_values_are_ill_formed :
    (Instr.vadd .a ⟨11, 3, 1, 2, 0, 0, 0, 0, 0x2C0⟩).wf = false ∧ (Instr.vadd .a ⟨8, 3, 1, 2, 0, 0, 0, 7, 0x200⟩).wf = false ∧
    (Instr.vadd .a ⟨8, 3, 40, 2, 0, 0, 0, 0, 0x200⟩).wf = false ∧ (Instr.vzip .a ⟨8, 4, 1, 2, 0, 0, 0, 0, 8⟩).wf = false ∧
    (Instr.vext .a ⟨8, 4, 1, 0, 0, 0, 0, 0, 128⟩).wf = false ∧ (Instr.vcvt .a ⟨8, 8, 0, 0, 0, 0, 0, 8, 0x300⟩).wf = false ∧
    (Instr.vcmp .a ⟨0, 2, 1, 2, 0, 0, 0, 6, 0⟩).wf = false ∧ (Instr.fence ⟨0, 0, 0, 0, 4, 0, 0⟩).wf = false ∧
    (Instr.loopi ⟨0, 0, 0, 0, 0, 0x300002⟩).wf = false ∧ (Instr.fcvt ⟨3, 1, 0, 0, 0, 0x34⟩).wf = false ∧
    (Instr.yield ⟨0, 0, 0, 0, 0, 0, 0⟩).wf = false ∧
    (Instr.mma ⟨0, 0, 5, 1, 0x3FFF, 0, 0⟩ ⟨2, 10, 11, 0, 2, 0, 0, 0, 0, 0, 0, 1⟩).wf = false ∧
    (Instr.amo ⟨0, 0, 3, 1, 0x3FFF, 0, 0⟩ ⟨0, 0, 5, 6, 0, 0, 0, 0, 0, 11⟩).wf = false ∧
    (Instr.illegalOpcode .s 0x1F00000000000000).wf = false := by decide

/-- Bits that belong to another row of the same opcode (R140, R255, R321, R133). -/
theorem test_other_rows_bits_are_ill_formed :
    (Instr.mov ⟨3, 1, 0, 0, 0, 4⟩).wf = false ∧ (Instr.movTl ⟨3, 0, 0, 0, 0, 0⟩).wf = false ∧
    (Instr.lcbWrite ⟨0, 1, 0, 0, 0, 8⟩).wf = false ∧ (Instr.tebWrite ⟨0, 1, 0, 0, 0, 8⟩).wf = false ∧
    (Instr.nbvWrite ⟨0, 1, 0, 0, 0, 2⟩).wf = false ∧ (Instr.prioWrite ⟨0, 1, 0, 0, 0, 8⟩).wf = false ∧
    (Instr.flagsWrite ⟨0, 1, 0, 0, 0, 8⟩).wf = false ∧ (Instr.phtselWrite ⟨0, 1, 0, 0, 0, 8⟩).wf = false ∧
    (Instr.lstkWrite ⟨0, 1, 0, 0, 0, 8⟩).wf = false ∧ (Instr.trapaWrite ⟨0, 1, 0, 0, 0, 8⟩).wf = false ∧
    (Instr.sysw ⟨0, 1, 0, 0, 0, 8⟩).wf = false ∧ (Instr.trap ⟨0, 0, 0, 0, 0, 0x80000002⟩).wf = false ∧
    (Instr.trapHsave ⟨9, 8, 0, 0, 0, 42⟩).wf = false ∧ (Instr.trapHload ⟨9, 8, 0, 0, 0, 0x80000002⟩).wf = false ∧
    (Instr.trapCres ⟨9, 0, 0, 0, 0, 0x80000002⟩).wf = false ∧ (Instr.trapCabn ⟨9, 0, 0, 0, 0, 0x80000002⟩).wf = false ∧
    (Instr.trapKill ⟨9, 0, 0, 0, 0, 0x80000002⟩).wf = false ∧ (Instr.trapCancel ⟨9, 0, 0, 0, 0, 0x80000002⟩).wf = false ∧
    (Instr.hintRegion .sy 1).wf = false := by decide

/-! ### One step of an instruction, on values of the spec's examples -/

/-- Context 0 issues, on the machine after reset. -/
def withCtx (c : Ctx) : State := setCtx 0 c State.reset

/-- A context whose scalars hold these values. -/
def holding (l : List (Nat × W64)) : Ctx :=
  { Ctx.reset with regs := l.foldl (fun r x => sput x.1 x.2 false r) Regs.reset }

/-- A row with these elements of `w` bits. -/
def lanes (w : Nat) (l : List (Nat × Nat)) : Row := BitVec.ofNat 4096 (l.foldl (fun n x => n + x.2 * 2 ^ (w * x.1)) 0)

/-- A context whose cluster A holds these vectors, with the bits of pa1. -/
def vectors (l : List (Nat × Row)) (mask : Nat) : Ctx :=
  { Ctx.reset with regs := pput 1 (BitVec.ofNat 512 mask) false (l.foldl (fun r x => vput x.1 x.2 false r) Regs.reset) }

/-- The state after an instruction. -/
def next (i : Instr) (s : State) : State :=
  match exec i s with
  | .next t => t
  | _ => s

/-- The register, value and flags of each result an instruction sends on its way. -/
def sent (i : Instr) (c : Ctx) : List (Nat × Nat × Nat) :=
  (cur (next i (withCtx c))).fly.flights.map fun f => (f.reg, f.val.toNat, f.flags.toNat)

/-- The register, first `n` elements of `w` bits, and flags of each result. -/
def sentLanes (w n : Nat) (i : Instr) (c : Ctx) : List (Nat × List Nat × Nat) :=
  (cur (next i (withCtx c))).fly.flights.map fun f => (f.reg, (List.range n).map (elemAt w f.val), f.flags.toNat)

/-- The cause of the trap an instruction takes. -/
def trapOf (i : Instr) (s : State) : Option Nat := (cur (next i s)).event.map (·.cause)

theorem test_add_wraps : sent (.add ⟨3, 1, 2, 0, 0, 0⟩) (holding [(1, 0xFFFFFFFFFFFFFFFF#64), (2, 2)]) = [(3, 1, 0)] := by decide
theorem test_addi_extends : sent (.addi ⟨3, 1, 0, 0, 0, 0xFFFFFFFF⟩) (holding [(1, 5)]) = [(3, 4, 0)] := by decide
theorem test_sub_order : sent (.sub ⟨3, 1, 2, 0, 0, 0⟩) (holding [(1, 7), (2, 2)]) = [(3, 5, 0)] := by decide
theorem test_andn_order : sent (.andn ⟨3, 1, 2, 0, 0, 0⟩) (holding [(1, 0xFF), (2, 0x0F)]) = [(3, 0xF0, 0)] := by decide
theorem test_addr : sent (.addr ⟨3, 1, 2, 0, 0, 0xFFFFFF03⟩) (holding [(1, 100), (2, 2)]) = [(3, 115, 0)] := by decide
/-- R282's table. -/
theorem test_bit_fields :
    let s1 := holding [(1, 0xF0F00000000000A5#64), (2, 0x1234)]
    sent (.bfx ⟨3, 1, 0, 0, 0, 0x404⟩) s1 = [(3, 0xFFFFFFFFFFFFFFFA, 0)] ∧
    sent (.bfxz ⟨3, 1, 0, 0, 0, 0x83C⟩) s1 = [(3, 0xF, 0)] ∧ sent (.bfx ⟨3, 1, 0, 0, 0, 0x440⟩) s1 = [(3, 0, 0)] ∧
    sent (.bfi ⟨2, 1, 0, 0, 0, 0x808⟩) s1 = [(2, 0xA534, 0)] ∧
    sent (.bfi ⟨2, 1, 0, 0, 0, 0x83C⟩) s1 = [(2, 0x5000000000001234, 0)] ∧ sent (.bfi ⟨2, 1, 0, 0, 0, 8⟩) s1 = [] := by decide
/-- R298's table. -/
theorem test_div :
    sent (.div ⟨3, 1, 2, 0, 0, 0⟩) (holding [(1, -7), (2, 2)]) = [(3, 0xFFFFFFFFFFFFFFFD, 0)] ∧
    sent (.div ⟨3, 1, 2, 0, 0, 1⟩) (holding [(1, -7), (2, 2)]) = [(3, 0xFFFFFFFFFFFFFFFF, 0)] ∧
    sent (.div ⟨3, 1, 2, 0, 0, 0⟩) (holding [(1, 0x8000000000000000#64), (2, -1)]) = [(3, 0x8000000000000000, 0)] ∧
    sent (.div ⟨3, 1, 2, 0, 0, 1⟩) (holding [(1, 5)]) = [(3, 0, 0)] := by decide
theorem test_divz : sent (.divz ⟨3, 1, 2, 0, 0, 0⟩) (holding [(1, 7)]) = [(3, 0xFFFFFFFFFFFFFFFF, 0)] ∧
    sent (.divz ⟨3, 1, 2, 0, 0, 1⟩) (holding [(1, 7)]) = [(3, 0xFFFFFFFFFFFFFFFF, 0)] := by decide
/-- R322's example. -/
theorem test_mul :
    let c := holding [(1, 0xFFFFFFFFFFFFFFFF#64), (2, 2)]
    sent (.mul ⟨3, 1, 2, 0, 0, 0⟩) c = [(3, 0xFFFFFFFFFFFFFFFE, 0)] ∧
    sent (.mulh ⟨3, 1, 2, 0, 0, 0⟩) c = [(3, 0xFFFFFFFFFFFFFFFF, 0)] ∧ sent (.mulhz ⟨3, 1, 2, 0, 0, 0⟩) c = [(3, 1, 0)] := by decide
/-- R313's example. -/
theorem test_li_lih : sent (.li ⟨5, 0, 0, 0, 0, 0x89ABCDEF⟩) Ctx.reset = [(5, 0xFFFFFFFF89ABCDEF, 0)] ∧
    sent (.lih ⟨5, 5, 0, 0, 0, 0x01234567⟩) (holding [(5, 0xFFFFFFFF89ABCDEF#64)]) = [(5, 0x0123456789ABCDEF, 0)] := by decide
/-- R302's table: 3.5, −2.5, 3.0 × 10^9 and a NaN to i32; 65,520 and 2^−25 to f16. -/
theorem test_fcvt :
    sent (.fcvt ⟨3, 1, 0, 0, 0, 0x30⟩) (holding [(1, 0x40600000)]) = [(3, 4, 8)] ∧
    sent (.fcvt ⟨3, 1, 0, 0, 0, 0x30⟩) (holding [(1, 0xC0200000)]) = [(3, 0xFFFFFFFFFFFFFFFE, 8)] ∧
    sent (.fcvt ⟨3, 1, 0, 0, 0, 0x30⟩) (holding [(1, 0x4F32D05E)]) = [(3, 0x7FFFFFFF, 1)] ∧
    sent (.fcvt ⟨3, 1, 0, 0, 0, 0x30⟩) (holding [(1, 0x7FC00000)]) = [(3, 0, 1)] ∧
    sent (.fcvt ⟨3, 1, 0, 0, 0, 0x10⟩) (holding [(1, 0x477FF000)]) = [(3, 0x7C00, 10)] ∧
    sent (.fcvt ⟨3, 1, 0, 0, 0, 0x10⟩) (holding [(1, 0x33000000)]) = [(3, 0, 12)] := by decide
/-- R350's example in the scalar unit: a × b rounds to 1, and the sum of the exact product and c is −2^−46. -/
theorem test_ffma :
    let c := holding [(1, 0x3F800001), (2, 0x3F7FFFFE), (3, 0xBF800000)]
    sent (.fmul ⟨4, 1, 2, 0, 0, 0⟩) c = [(4, 0x3F800000, 8)] ∧ sent (.ffma ⟨3, 1, 2, 0, 0, 0⟩) c = [(3, 0xA8800000, 0)] := by decide
theorem test_ccnr : (sent (.ccnr ⟨3, 0, 0, 0, 0, 0⟩) Ctx.reset) = [(3, 0, 0)] := by decide
/-- A guard that is clear leaves nothing (R123). -/
theorem test_guard_skips : sent (.add ⟨3, 1, 2, 1, 0, 0⟩) (holding [(1, 1)]) = [] := by decide

/-- R350's example, and R348's sums of i8. -/
theorem test_vmad : sentLanes 32 2 (.vmad .a ⟨8, 3, 0, 1, 2, 1, 0, 0, 0x200⟩)
    (vectors [(0, lanes 32 [(0, 0x3F800001)]), (1, lanes 32 [(0, 0x3F7FFFFE)]), (2, lanes 32 [(0, 0xBF800000)])] 0xF) =
    [(3, [0xA8800000, 0], 0)] := by decide +kernel
theorem test_vadd_i8 :
    let c := vectors [(0, lanes 8 [(0, 100)]), (1, lanes 8 [(0, 100)])] 1
    sentLanes 8 1 (.vadd .a ⟨1, 3, 0, 1, 0, 1, 0, 0, 0x40⟩) c = [(3, [0xC8], 0)] ∧
    sentLanes 8 1 (.vadd .a ⟨1, 3, 0, 1, 0, 1, 0, 8, 0x40⟩) c = [(3, [0x7F], 0)] := by decide +kernel
/-- R352's example. -/
theorem test_vdot4 : sentLanes 32 1 (.vdot4 .a ⟨1, 3, 0, 1, 2, 1, 0, 0, 0xC0⟩)
    (vectors [(0, lanes 8 [(0, 1), (1, 0xFE), (2, 3), (3, 4)]), (1, lanes 8 [(0, 5), (1, 6), (2, 0xF9), (3, 8)]),
      (2, lanes 32 [(0, 10)])] 0xF) = [(3, [14], 0)] := by decide +kernel
/-- R361's table, with R98's: 480, 464 and −3.75 to e4m3. -/
theorem test_vcvt_e4m3 :
    let c := vectors [(0, lanes 32 [(0, 0x43F00000)]), (1, lanes 32 [(0, 0x43E80000)]), (2, lanes 32 [(0, 0xC0700000)])] 7
    sentLanes 8 3 (.vcvt .a ⟨8, 8, 0, 0, 0, 1, 0, 8, 0x400⟩) c = [(8, [0x7E, 0x7E, 0xC7], 10)] ∧
    sentLanes 8 3 (.vcvt .a ⟨8, 8, 0, 0, 0, 1, 0, 0, 0x400⟩) c = [(8, [0x7F, 0x7E, 0xC7], 10)] := by decide +kernel
/-- R365: exact values and special cases. -/
theorem test_special_functions :
    let c := vectors [(0, lanes 32 [(0, 0x40400000), (1, 0x80000000)]), (1, lanes 32 [(0, 0x40800000), (1, 0)])] 0xFF
    sentLanes 32 2 (.vexp2 .a ⟨8, 3, 0, 0, 0, 1, 0, 0, 0x200⟩) c = [(3, [0x41000000, 0x3F800000], 0)] ∧
    sentLanes 32 2 (.vlog2 .a ⟨8, 3, 1, 0, 0, 1, 0, 0, 0x200⟩) c = [(3, [0x40000000, 0xFF800000], 0)] ∧
    sentLanes 32 2 (.vrcp .a ⟨8, 3, 1, 0, 0, 1, 0, 0, 0x200⟩) c = [(3, [0x3E800000, 0x7F800000], 0)] ∧
    sentLanes 32 2 (.vrsq .a ⟨8, 3, 1, 0, 0, 1, 0, 0, 0x200⟩) c = [(3, [0x3F000000, 0x7F800000], 0)] ∧
    sentLanes 32 2 (.vsqrt .a ⟨8, 3, 1, 0, 0, 1, 0, 0, 0x200⟩) c = [(3, [0x40000000, 0], 0)] := by decide +kernel
/-- The worked sum of 04 and 05: 2^24, 1, 2^−20 and −2^24 under each version (R111 to R113). -/
theorem test_vred_versions :
    let c := vectors [(0, lanes 32 [(0, 0x4B800000), (1, 0x3F800000), (2, 0x35800000), (3, 0xCB800000)])] 0xFFFF
    let at_ (n : BitVec 8) : Ctx := { c with ctl := { c.ctl with nbv := n } }
    sentLanes 32 2 (.vred .a ⟨8, 3, 0, 0, 0, 1, 0, 0, 0⟩) (at_ 1) = [(3, [0, 0], 8)] ∧
    sentLanes 32 2 (.vred .a ⟨8, 3, 0, 0, 0, 1, 0, 0, 0⟩) (at_ 2) = [(3, [0x3F800000, 0], 8)] ∧
    sentLanes 32 2 (.vred .a ⟨8, 3, 0, 0, 0, 1, 0, 0, 0⟩) (at_ 3) = [(3, [0x3F800008, 0], 0)] := by decide +kernel
/-- R369's table. -/
theorem test_vramx :
    let a := lanes 32 [(0, 0x40400000), (1, 0x7FC00000), (2, 0x40A00000), (3, 0x40A00000), (4, 0xFF800000), (5, 0x80000000)]
    sentLanes 32 2 (.vramx .a ⟨8, 3, 0, 0, 0, 1, 0, 0, 0⟩) (vectors [(0, a)] 0xFFFFFF) = [(3, [0x40A00000, 2], 0)] ∧
    sentLanes 32 2 (.vramn .a ⟨8, 3, 0, 0, 0, 1, 0, 0, 0⟩) (vectors [(0, a)] 0xFFFFFF) = [(3, [0xFF800000, 4], 0)] ∧
    sentLanes 32 2 (.vramx .a ⟨8, 3, 0, 0, 0, 1, 0, 0, 0⟩) (vectors [(0, a)] 0xF0) = [(3, [0x7FC00000, 1], 0)] := by
  decide +kernel
/-- R370's table: element 2 inactive with Z set, pa5 a head at element 4. -/
theorem test_vscan :
    let c0 := vectors [(0, lanes 32 [(0, 1), (1, 2), (2, 3), (3, 4), (4, 5), (5, 6), (6, 7), (7, 8)])] 0xFFFFF0FF
    let c := { c0 with regs := pput 5 0x10000#512 false c0.regs }
    sentLanes 32 8 (.vscan .a ⟨3, 3, 0, 0, 0, 1, 1, 0, 0x1A000⟩) c = [(3, [1, 3, 0, 7, 5, 11, 18, 26], 0)] ∧
    sentLanes 32 8 (.vscan .a ⟨3, 3, 0, 0, 0, 1, 1, 0, 0x3A000⟩) c = [(3, [0, 1, 0, 3, 0, 5, 11, 18], 0)] := by decide +kernel
/-- R371's table: keys and companions of four pairs. -/
theorem test_vcas : sentLanes 32 8 (.vcas .a ⟨8, 10, 2, 4, 0, 1, 0, 0, 0xF0⟩)
    (vectors [(2, lanes 32 [(0, 0x40000000), (1, 0x40E00000), (2, 0x7FC00000), (3, 0x3F800000), (4, 0x40800000),
        (5, 0x40800000), (6, 0x80000000), (7, 0)]),
      (4, lanes 32 [(0, 0), (1, 1), (2, 2), (3, 3), (4, 5), (5, 4), (6, 6), (7, 7)])] 0xFFFFFFFF) =
    [(10, [0x40E00000, 0x40000000, 0x3F800000, 0x7FC00000, 0x40800000, 0x40800000, 0, 0x80000000], 0),
     (11, [1, 0, 3, 2, 4, 5, 7, 6], 0)] := by decide +kernel
/-- R366 and R367: the seed, and the first draw of lane 0. -/
theorem test_generator :
    let s := next (.vrngs .a ⟨0, 0, 1, 0, 0, 0, 0, 0, 0⟩) (withCtx (vectors [] 15))
    elemAt 32 (tget 0 0 (cur s).regs.gen) 1 ≠ 0 ∧
    sentLanes 32 1 (.vrng .a ⟨7, 2, 0, 0, 0, 1, 0, 0, 0⟩)
      (cur (next (.vrngs .a ⟨0, 0, 1, 0, 0, 0, 0, 0, 0⟩) (withCtx { vectors [] 15 with
        regs := sput 1 0x5EED0001 false (vectors [] 15).regs }))) = [(2, [0x2346B197], 0)] := by decide +kernel
/-- R326's table: 100 elements of f32, and how many bits that sets. -/
theorem test_pset :
    sent (.pset .a ⟨8, 2, 7, 0, 0, 0, 0, 0, 0⟩) (holding [(7, 100)]) = [(2, 2 ^ 400 - 1, 0)] ∧
    sent (.pset .a ⟨8, 2, 7, 0, 0, 0, 0, 0, 0x1FFF88⟩) (holding [(7, 100)]) = [(2, 0, 0)] ∧
    sent (.pset .a ⟨6, 3, 7, 0, 0, 0, 0, 0, 0⟩) (holding [(7, 100)]) = [(3, 2 ^ 200 - 1, 0)] := by decide +kernel
/-! ### States that meet the hypotheses of the statements, in the statements' order -/

/-- The supervisor of core 0 issues, with this context. -/
def superWith (c : Ctx) : State := { setCtx 4 c State.reset with slot := 4 }

/-- A ready context bound to task 1 in slot 0, with this position, and the supervisor's core as given. -/
def readyCtx : Ctx := { Ctx.reset with status := .ready, task := some 1, ctl := { Ctl.reset with sam := BitVec.allOnes 256 } }

/-- O2, O3: an instruction of each slot is well-formed and encodes. -/
theorem witness_encoding : ∀ x ∈ ([(.add ⟨3, 1, 2, 0, 0, 0⟩, .s), (.vramx .a ⟨8, 8, 6, 0, 0, 0, 0, 0, 0⟩, .va),
      (.pset .b ⟨8, 2, 7, 0, 0, 0, 0, 0, 0⟩, .vb), (.ld ⟨0, 5, 2, 8, 0, 6, 37, 0, 0⟩, .ld),
      (.st ⟨1, 4, 5, 2, 0, 6, 10, 2, 0⟩, .sd), (.mwsw ⟨0, 0, 0, 0, 2, 0, 0⟩ ⟨0, 0, 0, 0, 0, 0, 0, 0, 0, 0, 0, 0⟩, .m),
      (.cpx ⟨0, 0, 6, 1, 0x3FFF, 0, 0⟩ ⟨0, 0, 20, 21, 0, 0, 1, 3, 1, 0⟩, .cp), (.fence ⟨0, 0, 0, 0, 4, 3, 0⟩, .sy)] :
      List (Instr × Slot)),
    x.1.wf = true ∧ (encodeSyl x.1).map (·.1) = some x.2 ∧ (encode x.1).isSome = true ∧
      ∀ w ∈ encodeSyl x.1, w.2.toNat < 2 ^ w.1.width := by decide +kernel

/-- O4, first clause: an input that is due. -/
theorem witness_input_due : ∃ rest : List (Nat × Input),
    ({ State.reset with inbox := [(0, .step (.powerLimiter true))] }).inbox = (0, .step (.powerLimiter true)) :: rest ∧
    0 ≤ now State.reset ∧ external (.powerLimiter true) = true := ⟨[], rfl, by decide, by decide⟩

/-- O4, second clause: an update is due and no input. -/
theorem witness_timed_next :
    let u : SemUpd := { id := 0, idx := 3, op := .add 1, src := .sy, slot := 0, due := 0, rel := [], stores := [], sched := 0, seq := 0 }
    let s := setCore 0 { Core.reset with semq := [u] } State.reset
    s.inbox = [] ∧ nextTimed s = some (.instr (.semaphoreUpdateApply 0)) := by decide +kernel

/-- The machine about to fetch ADD s3, s1, s2 as the first bundle. -/
def fetching : State := State.reset.withFetchWord 64 0x010C108000000000

/-- The bundle and the state its fetch leaves. -/
def fetched : Except Nat (BitVec 512) × State := fetch { fetching with core := 0, slot := (coreOf fetching 0).sel.cur } 0

/-- The state in which the syllable runs. -/
def issuing (b : BitVec 512) : State := updCtx 0 enterPhase { fetched.2 with bnd := bundleMarks b }

/-- O4, last clause. -/
theorem witness_bundle_next : ∃ b i,
    fetching.inbox = [] ∧ nextTimed fetching = some (.bundle 0) ∧ fetched.1.toOption = some b ∧ curId fetched.2 = 0 ∧
    HoldsAlone b .s i ∧ i = .add ⟨3, 1, 2, 0, 0, 0⟩ ∧ rftWaits { fetched.2 with bnd := bundleMarks b } b = false ∧
    sillRaises { fetched.2 with bnd := bundleMarks b } b = [] ∧ (bundleMarks b).sill = false ∧
    isTrapped (ctxOf (issuing b) 0) = false ∧ raisedEvent 0 (issuing b) (next i (issuing b)) = none ∧
    raisedEvent 0 (next i (issuing b)) (next i (issuing b)) = none ∧
    (ctxOf (next i (issuing b)) 0).status = .ready :=
  ⟨0x010C108000000000, .add ⟨3, 1, 2, 0, 0, 0⟩, by simp only [HoldsAlone]; decide +kernel⟩

/-- O6: a ready context; one that holds its issue slot, one that is about to, and one that does not. -/
theorem witness_trap : readyCtx.status = .ready ∧ ctxOf (withCtx readyCtx) 0 = readyCtx ∧
    (coreOf (setCore 0 { Core.reset with sel := { Selector.reset with cur := 0 } } State.reset) 0).sel.cur = 0 ∧
    (coreOf (setCore 0 { Core.reset with sel := { Selector.reset with sel := 0 } } State.reset) 0).sel.cur = 7 ∧
    (coreOf State.reset 0).sel.sel ≠ 0 := by decide

/-- O7: syllables that raise the illegal-instruction trap, the reserved-field trap, and ILLEGAL_OPCODE. -/
theorem witness_bad_bits :
    (enc (.yield ⟨0, 0, 0, 0, 0, 0, 0⟩)).illegal = true ∧ (enc (.illegalOpcode .s 0x2F00000000000000)).illegal = true ∧
    (enc (.add ⟨3, 1, 2, 0, 0, 1⟩)).illegal = false ∧ (enc (.add ⟨3, 1, 2, 0, 0, 1⟩)).reserved = true ∧
    (encodeSyl (.yield ⟨0, 0, 0, 0, 0, 0, 0⟩)).isSome = true ∧ (encodeSyl (.illegalOpcode .s 0x2F00000000000000)).isSome = true ∧
    (encodeSyl (.add ⟨3, 1, 2, 0, 0, 1⟩)).isSome = true := by decide

theorem test_illegal_opcode_traps : trapOf (.illegalOpcode .s 0x2F00000000000000) (withCtx readyCtx) = some 1 ∧
    trapOf (.add ⟨3, 1, 2, 0, 0, 1⟩) (withCtx readyCtx) = some 2 := by decide

/-- O8: each privileged row in a task context, and the cause it takes. -/
theorem witness_privileged : ∀ i ∈ ([.sysr ⟨3, 0, 0, 0, 0, 0x30⟩, .sysw ⟨0, 1, 0, 0, 0, 0x30⟩, .lcbWrite ⟨0, 1, 0, 0, 0, 0x40⟩,
      .tebWrite ⟨0, 1, 0, 0, 0, 0x22⟩, .nbvWrite ⟨0, 1, 0, 0, 0, 8⟩, .prioWrite ⟨0, 1, 0, 0, 0, 2⟩,
      .phtselWrite ⟨0, 1, 0, 0, 0, 0x21⟩, .lstkWrite ⟨0, 1, 0, 0, 0, 0x20⟩, .trapaWrite ⟨0, 1, 0, 0, 0, 0x31⟩,
      .trapHsave ⟨9, 8, 0, 0, 0, 0x80000002⟩, .trapHload ⟨9, 8, 0, 0, 0, 0x88000002⟩, .trapCres ⟨9, 0, 0, 0, 0, 0x90000002⟩,
      .trapCabn ⟨9, 0, 0, 0, 0, 0x98000002⟩, .trapKill ⟨9, 0, 0, 0, 0, 0xA0000002⟩, .trapCancel ⟨9, 0, 0, 0, 0, 0xA8000002⟩,
      .rft ⟨0, 0, 0, 0, 0, 0⟩] : List Instr),
    i.wf = true ∧ privilegedSyllable i = true ∧ trapOf i (withCtx readyCtx) = some 3 := by decide

/-- O9: a guard that lets the syllable go, one that does not, one unresolved. -/
theorem witness_guards :
    let i : Instr := .add ⟨3, 1, 2, 5, 0, 0⟩
    let f : Flight := { resultFlight 5 1 false 1 Ctx.reset with file := .guard }
    let c : Ctx := { Ctx.reset with fly := { InFlight.reset with flights := [f] } }
    i.wf = true ∧ guardOnly i (withCtx Ctx.reset) = some ⟨3, 1, 2, 5, 0, 0⟩ ∧ Skips ⟨3, 1, 2, 5, 0, 0⟩ Ctx.reset ∧
    guardOnly i (withCtx c) = some ⟨3, 1, 2, 5, 0, 0⟩ ∧ gresolved c 5 = false ∧ Executes ⟨3, 1, 2, 5, 1, 0⟩ Ctx.reset := by
  simp only [Skips, Executes]; decide

/-- O10 and O11: every row completes in some state, at the edges of its operands. -/
theorem witness_scalar_rows :
    let c := holding [(1, 0x8000000000000000#64), (2, 0xFFFFFFFFFFFFFFFF#64)]
    Executes ⟨3, 1, 2, 0, 0, 0⟩ c ∧
    ∀ i ∈ ([.add ⟨3, 1, 2, 0, 0, 0⟩, .addi ⟨3, 1, 0, 0, 0, 0x80000000⟩, .sub ⟨3, 1, 2, 0, 0, 0⟩, .and ⟨3, 1, 2, 0, 0, 0⟩,
      .or ⟨3, 1, 2, 0, 0, 0⟩, .xor ⟨3, 1, 2, 0, 0, 0⟩, .andn ⟨3, 1, 2, 0, 0, 0⟩, .shl ⟨3, 1, 2, 0, 0, 0⟩,
      .shr ⟨3, 1, 2, 0, 0, 64⟩, .sar ⟨3, 1, 2, 0, 0, 0⟩, .rotr ⟨3, 1, 2, 0, 0, 0⟩, .mini ⟨3, 1, 2, 0, 0, 0⟩,
      .maxi ⟨3, 1, 2, 0, 0, 0⟩, .minz ⟨3, 1, 2, 0, 0, 0⟩, .maxz ⟨3, 1, 2, 0, 0, 0⟩, .clz ⟨3, 0, 0, 0, 0, 0⟩,
      .popc ⟨3, 2, 0, 0, 0, 0⟩, .mul ⟨3, 1, 2, 0, 0, 0⟩, .mulh ⟨3, 1, 2, 0, 0, 0⟩, .mulhz ⟨3, 1, 2, 0, 0, 0⟩,
      .div ⟨3, 1, 2, 0, 0, 0⟩, .divz ⟨3, 1, 0, 0, 0, 1⟩, .bfx ⟨3, 1, 0, 0, 0, 0x7F3F⟩, .bfxz ⟨3, 1, 2, 0, 0, 0x8000⟩,
      .sel ⟨3, 1, 2, 0, 0, 1⟩, .sel ⟨3, 1, 2, 0, 0, 0⟩, .li ⟨3, 0, 0, 0, 0, 0x80000000⟩, .lih ⟨3, 1, 0, 0, 0, 1⟩,
      .mov ⟨3, 1, 0, 0, 0, 0⟩, .movTl ⟨0, 0, 0, 0, 0, 7⟩, .cmp ⟨3, 1, 2, 0, 0, 10⟩, .cmpi ⟨3, 1, 0, 0, 0, 0xFFFFFFF9⟩,
      .addr ⟨3, 1, 2, 0, 0, 0x8000003F⟩, .ccnr ⟨3, 0, 0, 0, 0, 0⟩] : List Instr),
    i.wf = true ∧ (scalarRow i (withCtx c)).isSome = true ∧
      (scalarRow i (withCtx c)).map (fun r => (r.f.g, r.f.gn)) = some (0, 0) := by
  simp only [Executes]; decide +kernel

/-- The two tables of O10 and O11 each have rows. -/
theorem witness_bitwise : bitwise (.and ⟨3, 1, 2, 0, 0, 0⟩) = true ∧ bitwise (.add ⟨3, 1, 2, 0, 0, 0⟩) = false := by decide

/-- O12. -/
theorem witness_ccnr : Executes ⟨3, 0, 0, 0, 0, 0⟩ (cur (withCtx readyCtx)) ∧ (withCtx readyCtx).ccn = State.reset.ccn ∧
    Executes ⟨3, 0, 0, 0, 0, 0⟩ (cur State.reset) ∧ (1 : BitVec 32) ≠ 0 := by
  simp only [Executes]; decide

/-- O13: SH and DISP at the ends of their fields, and a field that must be zero. -/
theorem witness_addr : (0x8000003F : BitVec 32) = (0x800000 : BitVec 24) ++ (0 : BitVec 2) ++ (63 : BitVec 6) ∧
    (0x7FFFFF00 : BitVec 32) = (0x7FFFFF : BitVec 24) ++ (0 : BitVec 2) ++ (0 : BitVec 6) ∧ bits (0x40 : BitVec 32) 7 6 ≠ 0 := by
  decide

/-- O14: zero and non-zero divisors, of either sign, and a field that must be zero. -/
theorem witness_division :
    let c := holding [(1, 0x8000000000000000#64), (2, 0xFFFFFFFFFFFFFFFF#64)]
    Executes ⟨3, 1, 2, 0, 0, 0⟩ (cur (withCtx c)) ∧ bits (1 : BitVec 32) 31 1 = 0 ∧ bits (2 : BitVec 32) 31 1 ≠ 0 ∧
    (sget c 2).toInt ≠ 0 ∧ (sget c 1).toInt = 2 ^ 63 * (sget c 2).toInt + 0 ∧ (0 : Int).natAbs < (sget c 2).toInt.natAbs ∧
    (sget c 3).toInt = 0 ∧ (sget c 1).toNat = 0 * (sget c 2).toNat + 2 ^ 63 ∧ 2 ^ 63 < (sget c 2).toNat := by
  simp only [Executes]; decide

/-- O15: −1 times 2. -/
theorem witness_products :
    let c := holding [(1, 0xFFFFFFFFFFFFFFFF#64), (2, 2)]
    Executes ⟨3, 1, 2, 0, 0, 0⟩ (cur (withCtx c)) ∧
    (sget c 1).toInt * (sget c 2).toInt = -1 * 2 ^ 64 + (2 ^ 64 - 2) ∧
    ((sget c 1).toNat * (sget c 2).toNat : Int) = 1 * 2 ^ 64 + (2 ^ 64 - 2) ∧ (1 : BitVec 32) ≠ 0 := by
  simp only [Executes]; decide

/-- O16: BFI with the field in IMM and in a register, outside the word, of no width, and cut to the word; GSET of a zero
and of another word, with IMM[0] set too, to g0, and of a poisoned register. -/
theorem witness_bfi_gset :
    (Instr.bfi ⟨2, 1, 0, 0, 0, 0x83C⟩).wf = true ∧ (Instr.bfi ⟨2, 1, 4, 0, 0, 0x8000⟩).wf = true ∧
    (Instr.bfi ⟨2, 1, 0, 0, 0, 0x440⟩).wf = true ∧ (Instr.bfi ⟨2, 1, 0, 0, 0, 0x3F⟩).wf = true ∧
    Executes ⟨2, 1, 0, 0, 0, 0x83C⟩ Ctx.reset ∧
    (bits (0x83C : BitVec 32) 6 0, bits (0x83C : BitVec 32) 14 8) = (60, 8) ∧
    (Instr.gset ⟨1, 1, 0, 0, 0, 0⟩).wf = true ∧ (Instr.gset ⟨0, 1, 0, 0, 0, 1⟩).wf = true ∧
    spois { Ctx.reset with regs := sput 1 0 true Regs.reset } 1 = true ∧ spois (holding [(1, 7)]) 1 = false := by
  simp only [Executes]; decide

/-- O17. -/
theorem witness_scalar_floats : Executes ⟨3, 1, 2, 0, 0, 2⟩ Ctx.reset ∧ (Instr.fadd ⟨3, 1, 2, 0, 0, 2⟩).wf = true ∧
    (Instr.fmul ⟨3, 1, 2, 0, 0, 2⟩).wf = true ∧ (Instr.ffma ⟨3, 1, 2, 0, 0, 2⟩).wf = true ∧
    (Instr.fcmp ⟨3, 1, 2, 0, 0, 30⟩).wf = true ∧ (Instr.fcvt ⟨3, 1, 0, 0, 0, 0x60⟩).wf = true := by
  simp only [Executes]; decide

/-- O17: a magnitude half way between two of e2m1's, one beyond the largest, and one half way between two integers. -/
theorem witness_rounding :
    let f : Flt := ⟨true, 2, 1, 1, 0, true⟩
    HasExponent f ∧ Rounds (Rnd.rne 0) ∧ StandsFor (.num false 5 0 false) false 5 ∧ SpacedBy f 5 1 ∧
    RoundedTo (Rnd.rne 0) false 1 5 4 ∧ GreatestOf f 6 ∧ FineFor (Rnd.rne 0) 1 (.num false 5 0 false) ∧
    SpacedBy f 8 2 ∧ RoundedTo (Rnd.rne 0) false 2 8 8 ∧ StandsFor (.num true 5 (-1) false) true (5 / 2) ∧
    RoundedTo (Rnd.rne 0) true 0 (5 / 2) 2 ∧ numberOf (.num true 5 (-1) false) = some (-5 / 2) := by
  intro f
  have top : ∀ c < 16, ∀ p ∈ magnitudeOf (decodeFlt f c), p.2 ≤ 6 := by decide +kernel
  refine ⟨⟨by decide, by decide, by decide⟩, ⟨by decide, by decide⟩, ⟨rfl, by decide +kernel⟩, ⟨2, by decide +kernel⟩, ⟨2, 1 / 2, ?_⟩,
    ⟨⟨7, false, by decide +kernel⟩, fun c n b hc h => top c hc (n, b) h⟩, trivial, ⟨3, by decide +kernel⟩, ⟨2, 0, ?_⟩,
    ⟨rfl, by decide +kernel⟩, ⟨2, 1 / 2, ?_⟩, by decide +kernel⟩ <;>
  · simp only [GoesUp, Rnd.rne]
    decide +kernel

/-- Partition 0 with the first 2 MiB of virtual addresses mapped; `f` changes the supervisor's context. -/
def mappedSuper (f : Ctx → Ctx) : State := { updCtx 4 f (State.reset.withFetchWord 64 0) with slot := 4 }

/-- A task of partition 0 that has one member, slot 0 of core 0. -/
def task1 : Task :=
  { record := 0x30002000100000000000000000000000002800000000000000000000000000000000000000000, ring := 0, prio := 0, header := 0, nbv := 1
    stage := .bound, members := [(0, 0)], rootDie := 0, order := 0, bound := 0, sheaf := 0, returned := [], signoffs := []
    startAt := none, status := 0, kept := [], noVictim := false, cancelling := false }

/-- The task in a stage, bound to context 0, which a supervisor or a task context acts on. -/
def withTask (x : Task) (c : Ctx) (s : State) : State := setTask 0 1 (some x) (setCtx 0 c s)

/-- O18: every register a task may read, and one that only the supervisor may. -/
theorem witness_sysr :
    (∀ n ∈ ([0, 1, 2, 8, 9, 0xA, 0xB, 0xC, 0x10, 0x17, 0x20, 0x21, 0x22, 0x24, 0x27, 0x30, 0x31, 0x32, 0x40] : List Nat),
      let f : SSyl := ⟨3, 0, 0, 0, 0, BitVec.ofNat 32 n⟩
      (Instr.sysr f).wf = true ∧ f.sysNum = n ∧ gget Ctx.reset f.g.toNat = (f.gn == 0) ∧ (sysValue (superWith Ctx.reset) n).isSome = true) ∧
    sysReadPriv 0x0B = false ∧ sysReadPriv 0x30 = true := by decide +kernel

/-- O19: a write of each register, as the supervisor, of a register of no poison and of one poisoned; in a task context; a
trapped target. -/
theorem witness_sysw :
    let c := holding [(1, 0x8001)]
    let bad : Ctx := { Ctx.reset with regs := sput 1 0 true Regs.reset }
    let trapped : State := superWith c
    (∀ i ∈ ([.sysw ⟨0, 1, 0, 0, 0, 0⟩, .sysw ⟨0, 1, 0, 0, 0, 1⟩, .sysw ⟨0, 1, 0, 0, 0, 9⟩, .sysw ⟨0, 1, 0, 0, 0, 0x17⟩,
        .sysw ⟨0, 1, 0, 0, 0, 0x24⟩, .nbvWrite ⟨0, 1, 0, 0, 0, 8⟩, .prioWrite ⟨0, 1, 0, 0, 0, 2⟩, .flagsWrite ⟨0, 1, 0, 0, 0, 0xB⟩,
        .phtselWrite ⟨0, 1, 0, 0, 0, 0x21⟩, .lstkWrite ⟨0, 1, 0, 0, 0, 0x20⟩, .trapaWrite ⟨0, 1, 0, 0, 0, 0x31⟩,
        .sysw ⟨0, 1, 0, 0, 0, 0x30⟩, .sysw ⟨0, 1, 0, 0, 0, 0x32⟩] : List Instr),
      i.wf = true ∧ (syswSyllable i).map (fun f => (f.a, f.g, f.gn)) = some (1, 0, 0)) ∧
    spois c 1 = false ∧ spois bad 1 = true ∧ sysWritePriv 0xB = false ∧
    (ctlWriter (.flagsWrite ⟨0, 1, 0, 0, 0, 0xB⟩)).isSome = true ∧ sysTarget (withCtx c) 0xB = curId (withCtx c) ∧
    sysTarget trapped 0xB = 0 ∧ curId trapped = 4 ∧
    isTrapped { readyCtx with status := .trapped none none } = true ∧ isTrapped readyCtx = false := by decide +kernel

/-- O20: LCB with ENABLE clear; with it set, the block read or in a page that is not mapped; TEB with no expectations, and
with one. -/
theorem witness_launch_writes :
    let s := mappedSuper fun c => { c with regs := sput 2 0x400000 false (sput 1 0x1001 false c.regs) }
    let s' := withTask { task1 with header := BitVec.ofNat 2048 (2 ^ 1280) } readyCtx s
    (Instr.lcbWrite ⟨0, 1, 0, 0, 0, 0x40⟩).wf = true ∧ (Instr.tebWrite ⟨0, 1, 0, 0, 0, 0x22⟩).wf = true ∧ s.slot = 4 ∧
    spois (cur s) 1 = false ∧ gget (cur s) 0 = (0 == 0) ∧
    (unitRead 0 0x1000 320 s).1.isSome = true ∧ (unitRead 0 0x400000 320 s).1.isSome = false ∧
    taskNexp s (sysTarget s 0x022) = 0 ∧ taskNexp s' (sysTarget s' 0x022) = 1 ∧
    (unitRead (curPart s') 0x1000 4 s').1.map List.length = some 4 := by decide +kernel

/-- A context at bundle 10 of a loop whose end is `stop`. -/
def looping (stop : Nat) : Ctx :=
  { readyCtx with pos := { Pos.reset with pc := 10, loops := [⟨5, stop, 2⟩], calls := [77] } }

/-- O21: each transfer, guarded and not, where it may stand. -/
theorem witness_transfers :
    let c := looping 13
    inDelay c = false ∧ gresolved c 0 = true ∧ nearEnd c 3 = false ∧ nearEnd (looping 12) 2 = false ∧ spois c 0 = false ∧
    c.pos.calls.length < 8 ∧ Executes ⟨0, 0, 0, 0, 0, 5⟩ c ∧ Skips ⟨0, 0, 0, 0, 1, 0⟩ c ∧
    (Instr.br ⟨0, 0, 0, 0, 0, 5⟩).wf = true ∧ (Instr.call ⟨0, 0, 0, 0, 0, 5⟩).wf = true ∧
    (Instr.ret ⟨0, 0, 0, 0, 0, 0⟩).wf = true ∧ (Instr.brk ⟨0, 0, 0, 0, 0, 0⟩).wf = true ∧
    (Instr.br ⟨0, 0, 0, 0, 1, 0⟩).wf = true ∧ (Instr.call ⟨0, 0, 0, 0, 1, 0⟩).wf = true ∧
    (Instr.ret ⟨0, 0, 0, 0, 1, 0⟩).wf = true ∧ (Instr.brk ⟨0, 0, 0, 0, 1, 0⟩).wf = true := by
  simp only [Executes, Skips]; decide

/-- O22: in a delay bundle, in the last bundles of the innermost loop, a poisoned base, eight entries, and none. -/
theorem witness_transfers_trap :
    inDelay { readyCtx with pos := { Pos.reset with left := 1 } } = true ∧ nearEnd (looping 12) 3 = true ∧
    nearEnd (looping 11) 2 = true ∧ nearEnd Ctx.reset 3 = false ∧ Executes ⟨0, 0, 1, 0, 0, 0⟩ Ctx.reset ∧
    spois { Ctx.reset with regs := sput 1 0 true Regs.reset } 1 = true ∧
    8 ≤ ({ Pos.reset with calls := [1, 2, 3, 4, 5, 6, 7, 8] } : Pos).calls.length ∧ Ctx.reset.pos.calls = [] ∧
    Ctx.reset.pos.loops = [] ∧ (Instr.loop ⟨0, 1, 0, 0, 0, 3⟩).wf = true ∧ (Instr.loopi ⟨0, 0, 0, 0, 0, 0x100003⟩).wf = true := by
  simp only [Executes]; decide

/-- O23: counts of 0, of the declared maximum, past it, and of 2^32; no entry and six. -/
theorem witness_loops :
    let e : LoopEnt := ⟨0, 100, 1⟩
    let six : Ctx := { readyCtx with pos := { Pos.reset with loops := [e, e, e, e, e, e] } }
    (Instr.loop ⟨0, 1, 0, 0, 0, 0x300003⟩).wf = true ∧ (Instr.loopi ⟨0, 0, 0, 0, 0, 0xFFF00003⟩).wf = true ∧
    (Instr.loopi ⟨0, 0, 0, 0, 0, 3⟩).wf = true ∧ Executes ⟨0, 1, 0, 0, 0, 0x300003⟩ Ctx.reset ∧
    nearEnd six 3 = false ∧ (∀ x ∈ six.pos.loops, six.pos.pc + bits (0x300003 : BitVec 32) 19 0 ≤ x.stop) ∧
    6 ≤ six.pos.loops.length ∧ Ctx.reset.pos.loops.length < 6 ∧ bits (0x300003 : BitVec 32) 31 20 = 3 ∧
    (sget Ctx.reset 1).toNat = 0 ∧ (sget (holding [(1, 3)]) 1).toNat ≤ 3 ∧ 3 < (sget (holding [(1, 4)]) 1).toNat ∧
    2 ^ 32 ≤ (sget (holding [(1, 0x100000000)]) 1).toNat ∧
    spois { Ctx.reset with regs := sput 1 0 true Regs.reset } 1 = true ∧ inDelay six = false ∧
    inDelay { six with pos := { six.pos with left := 2 } } = true := by
  simp only [Executes]; decide

/-- O24: the end of a delay, of a loop's last trip, of a trip that is not the last, and a plain bundle. -/
theorem witness_positions :
    ({ Pos.reset with left := 1, xfer := some (.target 9) } : Pos).xfer = some (.target 9) ∧
    LastTrips 10 [⟨5, 10, 1⟩, ⟨4, 10, 2⟩] [⟨4, 10, 2⟩] ∧ LastTrips 10 [⟨5, 10, 1⟩, ⟨4, 12, 2⟩] [⟨4, 12, 2⟩] ∧
    LastTrips 10 [⟨5, 10, 2⟩] [⟨5, 10, 2⟩] ∧ (∀ e ∈ ([⟨4, 12, 2⟩] : List LoopEnt).head?, e.stop ≠ 10) ∧
    (∀ e ∈ Pos.reset.loops.head?, e.stop ≠ Pos.reset.pc) :=
  ⟨rfl, ⟨[⟨5, 10, 1⟩], by decide⟩, ⟨[⟨5, 10, 1⟩], by decide⟩, ⟨[], by decide⟩, by decide, by decide⟩

/-- O25: a returned tile, the last index, an exhausted space; sixteen requests; a landing. -/
theorem witness_tiles :
    let s (x : Task) : State := withTask x readyCtx State.reset
    let r : TileReq := { val := 1, reg := 0, land := 0, index := some 0 }
    let c : Ctx := { readyCtx with fly := { InFlight.reset with tiles := List.replicate 16 r } }
    (Instr.ntreq ⟨0, 0, 0, 0, 0, 0⟩).wf = true ∧ Executes ⟨0, 0, 0, 0, 0, 0⟩ readyCtx ∧ (cur (s task1)).task = some 1 ∧
    taskOf (s task1) (curPart (s task1)) 1 = some task1 ∧ curId (s task1) / 5 = (s task1).core ∧
    task1.record.toNat / 2 ^ 304 % 2 ^ 16 = 3 ∧ task1.record.toNat / 2 ^ 288 % 2 ^ 16 = 2 ∧
    task1.record.toNat / 2 ^ 272 % 2 ^ 16 = 1 ∧ (5 : Nat) < 3 * 2 * 1 ∧ ({ task1 with returned := [5] } : Task).returned = [5] ∧
    16 ≤ c.fly.tiles.length ∧ ({ c with pos := { c.pos with clk := 1 } } : Ctx).fly.tiles = r :: List.replicate 15 r ∧
    r.land < 1 := by
  unfold Executes; decide +kernel

/-- R52's example: indices 0 and 1 of a space of 3 × 2 × 1 are (0,0,0) and (1,0,0); index 3 is (0,1,0). -/
theorem test_tile_requests :
    let ask (n : Nat) := (cur (next (.ntreq ⟨0, 0, 0, 0, 0, 0⟩)
      (withTask { task1 with sheaf := n } readyCtx State.reset))).fly.tiles.map fun r => (r.val.toNat, r.reg)
    ask 1 = [(1, 0)] ∧ ask 3 = [(0x10000, 0)] ∧ ask 5 = [(0x10002, 0)] ∧ ask 6 = [(2 ^ 63, 0)] := by decide +kernel

/-- O26: TRAP in a task context, in a delay bundle, and in the supervisor; several boundary causes at once. -/
theorem witness_trap_notes :
    let e (n : Nat) : Event :=
      { cause := n, slot := 0, async := true, fetch := false, detail := 0, va := 0, syl := 15, val := n }
    let c : Ctx := { readyCtx with boundary := [e 0x0F, e 0x05, e 0x04] }
    (Instr.trap ⟨0, 0, 0, 0, 0, 0x7FFFFFFF⟩).wf = true ∧ bits (0x7FFFFFFF : BitVec 32) 31 31 = 0 ∧
    Executes ⟨0, 0, 0, 0, 0, 42⟩ readyCtx ∧ inDelay readyCtx = false ∧ (superWith Ctx.reset).slot = 4 ∧
    inDelay { readyCtx with pos := { Pos.reset with left := 2 } } = true ∧ c.status = .ready ∧ c.boundary ≠ [] ∧
    (ctxOf (boundaryTrap 0 (withCtx c)) 0).event.map (·.cause) = some 4 ∧
    taskOf (withTask task1 { c with boundary := [e 0x09] } State.reset) 0 1 = some task1 ∧ task1.stage = .bound ∧
    (0 / 5, 0 % 5) ∈ task1.members ∧ c.task = some 1 := by
  simp only [Executes]; decide +kernel

/-- A copy-engine command of slot 0 (R169), from its kind and operands. -/
def command (kind : CKind) (a b : W64) (o : COp) : Cmd :=
  { id := 7, slot := 0, kind := kind, h := ⟨0, 0, 6, 1, 0x3FFF, 0, 0⟩, o := o, a := a, b := b, c := 0, shape := 0
    num := { nbv := 1, flush := 0, rmode := 0, fm := [] }, bundle := 0, fences := [], rel := none, stage := .queued, start := 0
    srcLeft := [], src := [], graph := [], held := [], total := some 1, next := 0, got := [], wq := [], sent := false, pubs := [], filled := false
    reason := 0, flags := 0, subst := 0, failed := 0, wake := 0 }

/-- A supervisor state whose slot 0 is in a status, with a task or without, and a copy-engine command stopped at a fault. -/
def supervising (st : Status) (t : Option Nat) (q : List Cmd) : State :=
  setCore 0 { Core.reset with cq := q } (setCtx 0 { Ctx.reset with status := st, task := t, pos := { Pos.reset with fresh := true } } (mappedSuper id))

/-- O27: slots that are ready to be saved and not; aligned and unaligned addresses; slots bound and not; a stopped command
and none. -/
theorem witness_supervisor_functions :
    let stopped : Cmd := { command .cpy 0 0 ⟨0, 0, 0, 0, 0, 0, 0, 0, 0, 0⟩ with stage := .faulted 0x1000 }
    (Instr.trapHsave ⟨9, 8, 0, 0, 0, 0x80000000⟩).wf = true ∧ (Instr.trapHload ⟨9, 8, 0, 0, 0, 0x88000000⟩).wf = true ∧
    (Instr.trapCres ⟨9, 0, 0, 0, 0, 0x90000000⟩).wf = true ∧ (Instr.trapCabn ⟨9, 0, 0, 0, 0, 0x98000000⟩).wf = true ∧
    Executes ⟨9, 8, 0, 0, 0, 0x80000000⟩ (cur (supervising .ready none [])) ∧ (supervising .ready none []).slot = 4 ∧
    (supervising .ready none []).core < 256 ∧ huskReady (supervising .unbound none []) 0 = false ∧
    huskReady (supervising .ready none []) 0 = true ∧ huskReady (supervising (.trapped none none) (some 1) []) 0 = true ∧
    (1 : Nat) % 4096 ≠ 0 ∧ (ctxOf (supervising .ended none []) 0).task = none ∧
    (ctxOf (supervising .ready (some 1) []) 0).task ≠ none ∧ (ctxOf (supervising .ready (some 1) []) 0).status ≠ .ended ∧
    bits (0x88000000 : BitVec 32) 3 3 ≠ 1 ∧ bits (0x80000008 : BitVec 32) 3 3 = 1 ∧
    faultedCmd (supervising .ready none []) 0 0 = none ∧ faultedCmd (supervising .ready none [stopped]) 0 0 = some stopped ∧
    stopped.slot ≠ 4 := by
  simp only [Executes]; decide +kernel

/-- O28: a task bound, being pre-empted, ending, and under a CANCEL. -/
theorem witness_kill :
    let s (x : Task) : State := withTask x readyCtx (mappedSuper id)
    Executes ⟨9, 0, 0, 0, 0, 0xA0000000⟩ (cur (s task1)) ∧ (s task1).slot = 4 ∧ (ctxOf (s task1) 0).task = some 1 ∧
    taskOf (s task1) (curPart (s task1)) 1 = some task1 ∧ (∀ m ∈ task1.members, m.2 < 4) ∧ task1.stage = .bound ∧
    ({ task1 with stage := .preempting } : Task).stage = .preempting ∧ task1.cancelling = false ∧
    ({ task1 with cancelling := true } : Task).cancelling = true ∧ (Instr.trapKill ⟨9, 0, 0, 0, 0, 0xA0000000⟩).wf = true ∧
    (Instr.trapCancel ⟨9, 0, 0, 0, 0, 0xA8000000⟩).wf = true := by
  simp only [Executes]; decide +kernel

/-- O29: RFT with a result in flight, with no event, with a trap of slot 0 at its address and at another, in a transom, at
a wait, with a pre-emption request, and with another event. -/
theorem witness_rft :
    let s (tc ta : W64) (st : Status) (fl : List Flight) : State :=
      let x := updCore 0 (fun k => { k with sup := { k.sup with trapc := tc, trapa := ta } })
        (withTask { task1 with stage := .preempting } { readyCtx with status := st } (mappedSuper id))
      updCtx 4 (fun c => { c with fly := { c.fly with flights := fl } }) x
    let busy := s 0x07 0 (.trapped none none) [resultFlight 5 1 false 1 Ctx.reset]
    let idle := s 0x07 64 (.trapped none (some (.sem 1 1))) []
    (Instr.rft ⟨0, 0, 0, 0, 0, 0⟩).wf = true ∧ Executes ⟨0, 0, 0, 0, 0, 0⟩ (cur idle) ∧ idle.slot = 4 ∧ rftBusy busy = true ∧
    rftBusy idle = false ∧ (coreOf (s 0 0 .ready []) 0).sup.trapc.toNat % 2 ^ 8 = 0 ∧
    0x20 ≤ (coreOf (s 0x20 0 .ready []) 0).sup.trapc.toNat % 2 ^ 8 ∧ (coreOf (s 0x21 0 .ready []) 0).sup.trapc.toNat % 2 ^ 8 = 0x21 ∧
    (coreOf idle 0).sup.fromHload = false ∧ (coreOf idle 0).sup.trapc.toNat / 2 ^ 58 % 2 ^ 3 < 4 ∧
    isTrapped (ctxOf idle 0) = true ∧ (ctxOf idle 0).task = some 1 ∧
    (taskOf idle (curPart idle) 1).map (·.stage) = some .preempting ∧
    (coreOf idle 0).sup.trapc.toNat % 2 ^ 8 < 0x20 ∧ (ctxOf idle 0).pos.codeBase ≤ 64 ∧
    (64 : Nat) ≠ ((ctxOf idle 0).pos.codeBase + 64 * (ctxOf idle 0).pos.pc) % 2 ^ 57 := by
  simp only [Executes]; decide +kernel

/-- O30. -/
theorem witness_dispatch :
    let e : Event := { cause := 0xFF, slot := 3, async := true, fetch := false, detail := 2, va := 64, syl := 15, val := 9 }
    let k : Core := { Core.reset with
      sel := { Selector.reset with sel := 4 }, sup := { Super.reset with events := [e] } }
    let s := setCore 0 k State.reset
    s.dev.fwUp = true ∧ (coreOf s 0).sup.fenced = false ∧ (coreOf s 0).sel.cur = 7 ∧ (coreOf s 0).sel.sel = 4 ∧
    (coreOf s 0).sup.trapc.toNat % 2 ^ 8 = 0 ∧ (coreOf s 0).sup.events = [e] ∧ e.cause < 2 ^ 8 ∧ e.slot < 2 ^ 3 ∧
    e.detail < 2 ^ 8 ∧ e.va < 2 ^ 57 ∧ e.syl < 2 ^ 4 ∧ e.val < 2 ^ 57 := by decide +kernel

/-- O31: TEND alone; in the supervisor, in a delay bundle, beside another syllable; poisoned; with a result in flight. -/
theorem witness_tend :
    let s (c : Ctx) (busy : BitVec 8) : State := { withCtx c with bnd := { sill := true, busy := busy } }
    let flight : Ctx := { readyCtx with fly := { InFlight.reset with flights := [resultFlight 5 1 false 9 Ctx.reset] } }
    (Instr.tend ⟨0, 0, 0, 0, 0, 0⟩).wf = true ∧ Executes ⟨0, 0, 0, 0, 0, 0⟩ readyCtx ∧ (s readyCtx 1).slot ≠ 4 ∧
    inDelay readyCtx = false ∧ aloneIn (s readyCtx 1) .s = true ∧ aloneIn (s readyCtx 3) .s = false ∧
    (superWith Ctx.reset).slot = 4 ∧ anyPoison readyCtx = false ∧
    anyPoison { readyCtx with regs := sput 1 0 true Regs.reset } = true ∧ endConditions (s readyCtx 1) = false ∧
    endConditions (s flight 1) = true := by
  simp only [Executes]; decide +kernel

theorem leBytes_length (n v : Nat) : (leBytes n v).length = n := by
  induction n generalizing v with
  | zero => rfl
  | succ n ih => simp [leBytes, ih]

/-- The first two pages are in the translation buffer of die 0. -/
def buffered : State :=
  let pte : BitVec 128 := BitVec.ofNat 128 (0x1F + (ownFa Dev.reset + 65568) % 65568 * 2 ^ 32)
  updMem 0 (fun m => { m with tlb := [⟨0, 0, 2, pte, 0x220000⟩] }) (supervising .ready none [])

/-- The leaf of those pages. -/
def page : Leaf := ⟨BitVec.ofNat 128 (0x1F + (ownFa Dev.reset + 65568) % 65568 * 2 ^ 32), 2, 0x220000⟩

theorem pteMode_page : pteMode page.pte = 0 := by decide

/-- The page is in die 0's translation buffer, and that buffer holds nothing else. -/
def HasPage (s : State) : Prop := (partAt s 0).memory.tlb = [⟨0, 0, 2, page.pte, 0x220000⟩]

theorem tlbHit_page {s : State} (h : HasPage s) (va : Nat) (hv : va / 2 ^ 21 = 0) : tlbHit s 0 0 va = some page := by
  rw [HasPage] at h
  simp only [tlbHit, h, List.find?, hv]
  rfl

theorem translate_page {s : State} {va : Nat} {n : Need} (h : HasPage s) (hv : va / 2 ^ 21 = 0) (ha : allowed page.pte n = true)
    (hp : leafPa page va = va ∧ inAlias va = false) : Machine.translate 0 0 va n s = (.ok ⟨.local 0, va, page.pte, 2⟩, s) := by
  have hz : page.pte.getLsbD 8 = false := by decide
  have hd : destOf s 0 page.pte va = .local 0 := by simp [destOf, pteMode_page, hp.2]
  simp only [Machine.translate, leafFor, tlbHit_page h va hv, expandedLeaf, hz, ha, hp.1, hd, Option.isNone_some, Bool.not_false, Bool.false_eq_true, if_false, if_true]
  rfl

/-- The husk is 80 KiB (R260). -/
theorem test_husk_length : (huskBytes buffered 0).length = 81920 := by
  have h2 : (stackBytes (ctxOf buffered 0)).length = 256 := by decide +kernel
  have h3 : (memberBytes (ctxOf buffered 0)).length = 256 := by decide +kernel
  have h4 : (captureBytes (ctxOf buffered 0)).length = 256 := by decide +kernel
  have h5 : landQueue (ctxOf buffered 0) = [] := by decide +kernel
  simp only [huskBytes, semBytes, wordBytes, List.length_append, List.length_flatMap, leBytes_length, h2, h3, h4, h5,
    padTo, List.flatten_nil, List.length_nil, List.length_replicate]
  have h6 : (List.map (fun _ => 8) (controlWords buffered 0)).sum = 256 := by decide +kernel
  rw [h6]
  decide +kernel

theorem vwriteAs_local {p die fuel va q k : Nat} {need : Need} {bs : List Byte} {s : State} {w : Where}
    (h : bs.isEmpty = false) (hk : min bs.length (pageLeft va) = k) (ht : Machine.translate p die va need s = (.ok w, s))
    (hd : w.dest = .local q) (hm : pteMode w.pte = 0) (ha : (absent s q w.pa k || notReady s q w.pa k) = false) :
    vwriteAs p die need (fuel + 1) va bs s =
      vwriteAs p die need fuel (va + k) (bs.drop k) (healBytes q w.pa k (physWrite q w.pa (bs.take k) s)) := by
  have hl : (bs.take k).length = k := by rw [List.length_take]; omega
  simp only [vwriteAs, h, hk, ht, writePage, hm, writeTo, hd, hl, ha, Bool.false_eq_true, if_false, if_true]

theorem notReady_none {s : State} {q a n : Nat} (h : (partAt s q).memory.retrain = []) : notReady s q a n = false := by
  simp [notReady, h]

/-- O27: hsave of a ready slot to address 0, whose two pages are mapped. -/
theorem witness_hsave : huskReady buffered 0 = true ∧ ∃ s1, vwrite 0 0 66 0 (huskBytes buffered 0) buffered = (true, s1) := by
  refine ⟨by decide +kernel, ?_⟩
  have hl := test_husk_length
  generalize huskBytes buffered 0 = bs at hl
  have w0 : Machine.translate 0 0 0 .write buffered = (.ok ⟨.local 0, 0, page.pte, 2⟩, buffered) :=
    translate_page (by decide +kernel : _ = _) (by decide) (by decide) (by decide +kernel)
  have e1 : bs.isEmpty = false := by cases bs <;> simp_all
  have k1 : min bs.length (pageLeft 0) = 65536 := by rw [hl]; decide
  have k2 : min (bs.drop 65536).length (pageLeft 65536) = 16384 := by rw [List.length_drop, hl]; decide
  have e2 : (bs.drop 65536).isEmpty = false := by rw [List.isEmpty_eq_false_iff_exists_mem]; exact ⟨bs[65536], by simp [List.mem_drop_iff_getElem]; exact ⟨0, by omega, rfl⟩⟩
  have e3 : ((bs.drop 65536).drop 16384).isEmpty = true := by simp [List.drop_drop, hl]
  refine ⟨_, Prod.ext (?_ : _ = true) rfl⟩
  have a0 : (absent buffered 0 0 65536 || notReady buffered 0 0 65536) = false := by decide +kernel
  have a1 (s : State) (h : s.dev.parts = buffered.dev.parts ∧ usableBytes s.dev 0 = usableBytes buffered.dev 0) :
      absent s 0 65536 16384 = false := by simp only [absent, h.1, h.2]; decide +kernel
  have a2 (bs : List Byte) : notReady (healBytes 0 0 65536 (physWrite 0 0 bs buffered)) 0 65536 16384 = false :=
    notReady_none ((congrArg (fun x : Part => x.memory.retrain) (Sys2Proof.Safety.partAt_updPart_same _ _ _)).trans
      (by decide +kernel : (partAt buffered 0).memory.retrain = []))
  have w1 (t : State) (h : t = healBytes 0 0 65536 (physWrite 0 0 (bs.take 65536) buffered)) :
      Machine.translate 0 0 65536 .write t = (.ok ⟨.local 0, 65536, page.pte, 2⟩, t) := by
    refine translate_page ?_ (by decide) (by decide) (by decide +kernel)
    have hb : HasPage buffered := (by decide +kernel : _ = _)
    subst h
    rw [HasPage, healBytes, updMem]
    exact (congrArg (fun x : Part => x.memory.tlb) (Sys2Proof.Safety.partAt_updPart_same _ _ _)).trans hb

  rw [vwrite, vwriteAs_local e1 k1 w0 rfl pteMode_page a0, vwriteAs_local e2 k2 (w1 _ rfl) rfl pteMode_page (by rw [Bool.or_eq_false_iff]; exact ⟨a1 _ ⟨rfl, rfl⟩, a2 _⟩),
    vwriteAs, if_pos e3]

theorem vread_local {p die fuel va n q k : Nat} {need : Need} {s : State} {w : Where} (h : n ≠ 0)
    (hk : min n (pageLeft va) = k) (ht : Machine.translate p die va need s = (.ok w, s)) (hd : w.dest = .local q)
    (hm : pteMode w.pte = 0) (ha : (absent s q w.pa k || notReady s q w.pa k) = false) (hb : (partAt s q).memory.dramErr = []) (hr : ∃ r, vread p die need fuel (va + k) (n - k) s = (some r, s)) :
    ∃ r, vread p die need (fuel + 1) va n s = (some r, s) := by
  obtain ⟨r, hr⟩ := hr
  refine ⟨seenBytes s q w.pa k ++ r, ?_⟩
  simp [vread, h, hk, ht, hd, hm, ha, readPage, readFrom, meetErrors, hb, hr]

theorem vread_page {fuel va n k : Nat} {s : State} (h : n ≠ 0) (hk : min n (pageLeft va) = k) (hs : HasPage s) (hv : va / 2 ^ 21 = 0)
    (hp : leafPa page va = va ∧ inAlias va = false) (ha : (absent s 0 va k || notReady s 0 va k) = false) (hb : (partAt s 0).memory.dramErr = [])
    (hr : ∃ r, vread 0 0 .read fuel (va + k) (n - k) s = (some r, s)) : ∃ r, vread 0 0 .read (fuel + 1) va n s = (some r, s) :=
  vread_local h hk (translate_page hs hv (by decide) hp) rfl pteMode_page ha hb hr

/-- The same machine, with task 1 in slot 0. -/
def bufferedTask : State := updCtx 0 (fun c => { c with task := some 1, status := .trapped none none }) buffered

/-- O27: hload of a slot bound to a task, from address 0. -/
theorem witness_hload : (ctxOf bufferedTask 0).task = some 1 ∧ ∃ h, vread 0 0 .read 66 0 huskSize bufferedTask = (some h, bufferedTask) ∧
    ∃ ev s2, vread 0 0 .read 2 (0x9200 + 8 * 28) 24 (updCore 0 (huskSems h (huskCtl h).sam)
      (updCtx 0 (huskCtx h ((ctxOf bufferedTask 0).task.bind (taskOf bufferedTask 0))) bufferedTask)) = (some ev, s2) := by
  refine ⟨by decide +kernel, ?_⟩
  have hs : HasPage bufferedTask := (by decide +kernel : _ = _)
  have he : (partAt bufferedTask 0).memory.dramErr = [] := by decide +kernel
  obtain ⟨h, hh⟩ : ∃ h, vread 0 0 .read 66 0 huskSize bufferedTask = (some h, bufferedTask) :=
    vread_page (k := 65536) (by decide) (by decide) hs (by decide) (by decide +kernel) (by decide +kernel) he
      (vread_page (k := 16384) (by decide) (by decide) hs (by decide) (by decide +kernel) (by decide +kernel) he ⟨[], rfl⟩)
  have ha : (absent bufferedTask 0 (0x9200 + 8 * 28) 24 || notReady bufferedTask 0 (0x9200 + 8 * 28) 24) = false := by decide +kernel
  have gen (f : Ctx → Ctx) (g : Core → Core) : ∃ ev s2,
      vread 0 0 .read 2 (0x9200 + 8 * 28) 24 (updCore 0 g (updCtx 0 f bufferedTask)) = (some ev, s2) :=
    (vread_page (s := updCore 0 g (updCtx 0 f bufferedTask)) (k := 24) (by decide) (by decide) hs (by decide) (by decide +kernel) ha he
      ⟨[], rfl⟩).imp fun _ e => ⟨_, e⟩
  exact ⟨h, hh, gen _ _⟩

/-- O27: hsave of a member whose gang is on its way out, its own area and another's. -/
theorem witness_hsave_leaving :
    let x : Task := { task1 with stage := .preempting }
    let s := updCore 0 (fun k => { k with sup := { k.sup with trapc := 0x21 } })
      (withTask x { readyCtx with status := .trapped none none } buffered)
    handled s 0 = true ∧ onWayOut s 0 = true ∧ huskReady s 0 = true ∧ taskOf s (partOfCore s.dev s.core) 1 = some x ∧
    (ctxOf s 0).task = some 1 ∧ hdrSave x.header + (ctxOf s 0).rank * areaSize x.header = 0 := by decide +kernel

/-! Vectors: an instruction of each row on a context whose scalars hold 3. -/

/-- Every scalar used holds 3, so that the control word of the bin instructions is valid. -/
def vecCtx : Ctx := holding [(1, 3), (7, 100)]

/-- O32 to O34: element-wise rows. -/
theorem witness_element_rows :
    (∀ i ∈ ([.vadd .a ⟨8, 3, 0, 1, 0, 1, 0, 0, 0x200⟩, .vsub .b ⟨0, 3, 0, 1, 0, 1, 1, 8, 0⟩, .vmul .a ⟨10, 3, 0, 1, 0, 0, 0, 5, 0x280⟩,
        .vmad .a ⟨3, 3, 0, 1, 2, 0, 0, 0, 0xC0⟩, .vmulw .a ⟨1, 4, 0, 1, 0, 0, 0, 0, 0x80⟩, .vdot4 .a ⟨5, 3, 0, 1, 2, 0, 0, 0, 0xC0⟩,
        .vabs .a ⟨1, 3, 0, 0, 0, 0, 0, 8, 0x40⟩, .vneg .a ⟨7, 3, 0, 0, 0, 0, 0, 0, 0x1C0⟩, .vmin .a ⟨8, 3, 0, 1, 0, 0, 0, 0, 0x200⟩,
        .vmax .a ⟨9, 3, 0, 1, 0, 0, 0, 0, 0x240⟩, .vminp .a ⟨8, 3, 0, 1, 0, 0, 0, 0, 0x200⟩,
        .vmaxp .a ⟨10, 3, 0, 1, 0, 0, 0, 0, 0x280⟩, .vclmp .a ⟨2, 3, 0, 1, 2, 0, 0, 0, 0x80⟩] : List Instr),
      i.wf = true ∧ vecFamily i = some .arith ∧ (vecRow i vecCtx).isSome = true) ∧
    (∀ i ∈ ([.vand .a ⟨3, 3, 0, 1, 0, 0, 0, 0, 0⟩, .vor .a ⟨8, 3, 0, 1, 0, 0, 0, 0, 0⟩, .vxor .a ⟨0, 3, 0, 1, 0, 0, 0, 0, 0⟩,
        .vandn .a ⟨7, 3, 0, 1, 0, 0, 0, 0, 0⟩, .vshl .a ⟨3, 3, 0, 0, 0, 0, 0, 0, 0x10001F⟩, .vshr .a ⟨3, 3, 0, 1, 0, 0, 0, 0, 0⟩,
        .vsar .a ⟨0, 3, 0, 0, 0, 0, 0, 0, 0x100003⟩, .vclz .a ⟨3, 3, 0, 0, 0, 0, 0, 0, 0⟩, .vpopc .a ⟨4, 3, 0, 0, 0, 0, 0, 0, 0⟩] :
        List Instr),
      i.wf = true ∧ vecFamily i = some .elemBits ∧ (vecRow i vecCtx).isSome = true) ∧
    (∀ i ∈ ([.vsel .a ⟨8, 3, 0, 1, 0, 0, 0, 0, 7⟩, .vmov .a ⟨8, 3, 0, 0, 0, 0, 0, 0, 0⟩, .vmovx .a ⟨8, 3, 31, 0, 0, 0, 0, 0, 0⟩,
        .vbcs .a ⟨8, 3, 1, 0, 0, 0, 0, 0, 0⟩, .vbcl .a ⟨8, 3, 0, 0, 0, 0, 0, 0, 127⟩, .viota .a ⟨1, 3, 1, 0, 0, 0, 0, 0, 0x1FFFFF⟩,
        .vperm .a ⟨8, 3, 0, 1, 0, 0, 0, 0, 1⟩, .vrot .a ⟨0, 3, 0, 0, 0, 0, 0, 0, 1023⟩] : List Instr),
      i.wf = true ∧ vecFamily i = some .move ∧ (vecRow i vecCtx).isSome = true) ∧
    (∀ i ∈ ([.vflr .a ⟨8, 3, 0, 0, 0, 0, 0, 3, 0⟩, .vcvt .a ⟨8, 8, 0, 0, 0, 0, 0, 8, 0x400⟩, .vwid .a ⟨1, 4, 0, 0, 0, 0, 0, 0, 0xC0⟩,
        .vnar .a ⟨3, 4, 0, 0, 0, 0, 0, 8, 0x40⟩, .vexp2 .a ⟨8, 3, 0, 0, 0, 0, 0, 0, 0x200⟩, .vlog2 .a ⟨9, 3, 0, 0, 0, 0, 0, 0, 0x240⟩,
        .vrcp .a ⟨8, 3, 0, 0, 0, 0, 0, 6, 0x200⟩, .vrsq .a ⟨10, 3, 0, 0, 0, 0, 0, 0, 0x280⟩, .vsqrt .a ⟨8, 3, 0, 0, 0, 0, 0, 1, 0x200⟩,
        .vrng .a ⟨7, 3, 0, 0, 0, 0, 0, 0, 0⟩, .vscan .a ⟨3, 3, 0, 0, 0, 0, 0, 0, 0x3A000⟩] : List Instr),
      i.wf = true ∧ vecFamily i = some .convert ∧ (vecRow i vecCtx).isSome = true) := by decide +kernel

/-- O35 and O36: the other rows. -/
theorem witness_plain_rows :
    (∀ i ∈ ([.vzip .a ⟨8, 4, 0, 1, 0, 0, 0, 0, 7⟩, .vuzp .a ⟨0, 4, 0, 1, 0, 0, 0, 0, 0⟩, .vcas .a ⟨8, 10, 2, 4, 0, 0, 0, 0, 0xF0⟩] :
        List Instr), i.wf = true ∧ vecFamily i = some .pair ∧ (plainRow i vecCtx).isSome = true) ∧
    (∀ i ∈ ([.vred .a ⟨8, 3, 0, 0, 0, 0, 0, 0, 0⟩, .vramx .a ⟨8, 3, 0, 0, 0, 0, 0, 0, 0⟩, .vramn .a ⟨0, 3, 0, 0, 0, 0, 0, 0, 0⟩,
        .vbin .a ⟨8, 3, 0, 1, 0, 0, 0, 0, 0⟩, .vunbn .a ⟨8, 3, 0, 1, 0, 0, 0, 8, 0⟩, .vscl .a ⟨8, 8, 0, 0, 9, 0, 0, 0, 0x28400⟩] :
        List Instr), i.wf = true ∧ vecFamily i = some .reduce ∧ (plainRow i vecCtx).isSome = true) ∧
    (∀ i ∈ ([.vcmp .a ⟨8, 2, 0, 1, 0, 0, 0, 6, 0⟩, .pand .a ⟨0, 2, 1, 3, 0, 0, 0, 0, 0⟩, .por .a ⟨0, 2, 1, 3, 0, 0, 0, 0, 0⟩,
        .pxor .a ⟨0, 2, 1, 3, 0, 0, 0, 0, 0⟩, .pandn .a ⟨0, 2, 1, 3, 0, 0, 0, 0, 0⟩, .pmov .b ⟨0, 2, 1, 0, 0, 0, 0, 0, 0⟩,
        .pset .a ⟨8, 2, 7, 0, 0, 0, 0, 0, 0x1FFFFF⟩, .pfirst .a ⟨8, 4, 2, 0, 0, 0, 0, 0, 0⟩] : List Instr),
      i.wf = true ∧ vecFamily i = some .predicate ∧ (plainRow i vecCtx).isSome = true) ∧
    (∀ i ∈ ([.vext .a ⟨8, 4, 1, 0, 0, 0, 0, 0, 127⟩, .pcnt .a ⟨8, 9, 2, 0, 0, 0, 0, 0, 0⟩, .vrngs .b ⟨0, 0, 1, 0, 0, 0, 0, 0, 0⟩] :
        List Instr), i.wf = true ∧ vecFamily i = some .scalar ∧ (plainRow i vecCtx).isSome = true) := by decide +kernel

/-- O37: a seed that is poisoned, a control word with a field set that must be zero, and a format register that names no
format. -/
theorem witness_vector_traps :
    let bad : Ctx := { Ctx.reset with regs := sput 1 0xFFFF true Regs.reset }
    spois bad 1 = true ∧ vecRow (.vrngs .a ⟨0, 0, 1, 0, 0, 0, 0, 0, 0⟩) bad = none ∧
    (plainRow (.vrngs .a ⟨0, 0, 1, 0, 0, 0, 0, 0, 0⟩) bad).isNone = true ∧
    (plainRow (.vbin .a ⟨8, 3, 0, 1, 0, 0, 0, 0, 0⟩) bad).isNone = true ∧
    (Instr.vbin .a ⟨8, 3, 0, 1, 0, 0, 0, 0, 0⟩).wf = true ∧
    (vecRow (.vcvt .a ⟨8, 8, 0, 0, 0, 0, 0, 0, 0x600⟩) Ctx.reset).isNone = true ∧
    (plainRow (.vcvt .a ⟨8, 8, 0, 0, 0, 0, 0, 0, 0x600⟩) Ctx.reset).isNone = true ∧
    (Instr.vcvt .a ⟨8, 8, 0, 0, 0, 0, 0, 0, 0x600⟩).wf = true ∧
    (encodeSyl (.vrngs .a ⟨0, 0, 1, 0, 0, 0, 0, 0, 0⟩)).isSome = true := by
  refine ⟨by decide, rfl, ?_⟩
  decide +kernel

/-! Loads and stores. -/

/-- Slot 0 of core 0 owns the first tile of block 0. -/
def owning (c : Ctx) : State := updCore 0 (fun k => { k with st := { k.st with tileOwn := tset 0 0 1 (tset 0 1 1 k.st.tileOwn) } }) (withCtx c)

/-- O38: rows owned and not; lanes free and claimed; a tag that differs; a poisoned address; speculative. -/
theorem witness_loads :
    let f : LSyl := ⟨0, 5, 0, 0, 0, 0, 7, 0, 0⟩
    let c := readyCtx
    let l := loadOf .vec false f ⟨7, 1, 0, 0⟩ c
    let c' : Ctx := { c with fly := { c.fly with loads := [l] } }
    (∀ i ∈ ([.ld f, .ldSp f, .ldc f, .lds f, .ldsSp f, .ldt f] : List Instr), i.wf = true ∧ (loadKind i).isSome = true) ∧
    lsAddress f c = 7 ∧ (touched .vec false 7).map (·.row) = some 7 ∧ (touched .vec true (15 * 1024 + 752)).isSome = true ∧
    (touched .vec true 753).isSome = false ∧ (touched .vec false 768).isSome = false ∧ (touched .pred false 6143).isSome = true ∧
    (touched .word false 49151).isSome = true ∧ (touched .tag false 767).isSome = true ∧ (touched .word false 49152).isSome = false ∧
    ownsRows (owning c) 0 ⟨7, 1, 0, 0⟩ ∧ ¬ownsRows (withCtx c) 0 ⟨7, 1, 0, 0⟩ ∧
    tagMismatch (coreOf (owning c) 0) c (tilesOf 0 ⟨7, 1, 0, 0⟩) = none ∧
    conflicts (loadClaims c.pos.clk l) (claims (owning c) 0 0) = false ∧
    conflicts (loadClaims c'.pos.clk l) (claims (owning c') 0 0) = true ∧
    spois { Ctx.reset with regs := sput 6 0 true Regs.reset } 6 = true := by
  simp only [ownsRows]; decide +kernel

/-- O39: a store that goes, one whose port is claimed, a poisoned source, an address outside, and one to read. -/
theorem witness_stores :
    let f : LSyl := ⟨0, 5, 0, 8, 0, 0, 7, 1, 0⟩
    let g : LSyl := ⟨0, 5, 0, 8, 0, 0, 1, 0, 0⟩
    let c := readyCtx
    let w := storeOf .vec f ⟨7, 1, 0, 0⟩ c
    let c' : Ctx := { c with fly := { c.fly with stores := [w] } }
    (∀ i ∈ ([.st f, .stc g, .sts g, .stt g,
        .stz ⟨0, 0, 0, 8, 0, 0, 7, 1, 0⟩] : List Instr), i.wf = true ∧ (storeKind i).isSome = true) ∧
    ownsRows (owning c) 0 ⟨7, 1, 0, 0⟩ ∧ conflicts (storeClaims c.pos.clk w) (claims (owning c) 0 0) = false ∧
    conflicts (storeClaims c'.pos.clk w) (claims (owning c') 0 0) = true ∧ dataPois .vec f c = false ∧ maskPois .vec f c = false ∧
    dataPois .vec f { c with regs := vput 5 0 true c.regs } = true ∧ ¬ownsRows (withCtx c) 0 ⟨7, 1, 0, 0⟩ ∧
    w ∈ c'.fly.stores ∧ w.data = none := by
  simp only [ownsRows]; decide +kernel

/-- O40: an access that is due, of each kind, with no error in its row. -/
theorem witness_timed_accesses :
    let l := loadOf .vec false ⟨0, 5, 0, 8, 1, 0, 7, 0, 0⟩ ⟨7, 16, 1, 0⟩ readyCtx
    let w : StoreOp := { storeOf .vec ⟨0, 5, 0, 8, 1, 0, 7, 1, 0⟩ ⟨7, 16, 15, 0⟩ readyCtx with data := some (0, 1) }
    let c : Ctx := { readyCtx with
      pos := { Pos.reset with clk := 40 }, fly := { InFlight.reset with loads := [l], stores := [w] } }
    dueRead (ctxOf (withCtx c) 0) = some l ∧ dueWrite (withCtx c) 0 = some w ∧ l.kind = .vec ∧ l.am = true ∧ l.col < 16 ∧ w.col < 16 ∧
    w.data = some (0, 1) ∧ (∀ j, j < 16 → tget 0 (768 * l.blk + l.row + j) (coreOf (withCtx c) 0).st.ecc = 0) := by
  decide +kernel

/-- O41: a result that is due, of each file. -/
theorem witness_landings :
    let f : Flight := { resultFlight 31 7 false 1 readyCtx with file := .va }
    let g : Flight := { resultFlight 0x00B 0 false 1 readyCtx with file := .sys, seq := 1 }
    let c : Ctx := { readyCtx with pos := { Pos.reset with clk := 1 }, fly := { InFlight.reset with flights := [f, g] } }
    dueLanding (ctxOf (withCtx c) 0) = some g ∧ f.reg < 32 ∧ g.reg < 64 ∧ f.seq < 2 ^ 64 ∧ g.seq < 2 ^ 64 ∧ f ∈ c.fly.flights ∧
    f.land < c.pos.clk ∧ dueLanding { c with fly := { InFlight.reset with flights := [f] } } = some f := by decide +kernel

/-! Engine commands. -/

/-- A context in a phase whose entry takes the matrix array and every accumulator tile. -/
def phaseCtx (l : List (Nat × W64)) : Ctx :=
  { readyCtx with
    regs := (holding l).regs, phtab := [(0, 0x1FF#128 <<< 59)], pos := { Pos.reset with inph := true } }

/-- Slot 0 of core 0 owns block 0's first tiles and the accumulator tiles. -/
def owner (c : Ctx) : State :=
  updCore 0 (fun k => { k with
    st := { k.st with
      tileOwn := (List.range 4).foldl (fun l i => tset 0 i 1 l) k.st.tileOwn
      accOwn := (List.range 8).foldl (fun l i => tset 0 i 1 l) k.st.accOwn } }) (withCtx c)

/-- O38: a listed tile with its tag, and with another. -/
theorem witness_tags :
    let c (tag : BitVec 32) : Ctx := { readyCtx with
      phtab := [(0, 1#128 <<< 80)], expect := tset 0 0 tag [], pos := { Pos.reset with inph := true } }
    tagMismatch (coreOf (owner (c 0)) 0) (c 0) [0] = none ∧ tagMismatch (coreOf (owner (c 3)) 0) (c 3) [0] = some 0 := by
  decide +kernel

/-- The header of a timed command that signals sm6. -/
def timedHdr (start : BitVec 14) : EHdr := ⟨0, 0, 6, 1, start, 0, 0⟩

/-- O42: each command with operand words that fit. -/
theorem witness_matrix_issue :
    let s := owner (phaseCtx [(1, 0), (2, 0x010101), (3, 0x0101), (4, 0x0801), (5, 0x8001), (6, 1), (7, 0x400)])
    ∀ i ∈ ([.mlw (timedHdr 4) ⟨0, 1, 2, 0, 0, 0, 0, 0, 0, 0, 0, 0⟩, .mma (timedHdr 45) ⟨2, 1, 3, 0, 0, 0, 0, 0, 0, 0, 1, 1⟩,
        .mdrn (timedHdr 325) ⟨2, 1, 4, 0, 0, 0, 0, 0, 0, 0, 0, 0⟩, .mclr (timedHdr 1) ⟨7, 0, 6, 0, 0, 0, 0, 0, 0, 0, 0, 0⟩,
        .mwsw (timedHdr 44) ⟨0, 0, 0, 0, 0, 0, 0, 0, 0, 0, 0, 0⟩, .mmsk (timedHdr 2) ⟨0, 0, 7, 0, 0, 0, 0, 0, 0, 0, 0, 0⟩] :
        List Instr),
      i.wf = true ∧ ((matrixSyllable i).map fun x => matrixCause (matrixCommand x.1 x.2.1 x.2.2 s) s) = some none := by decide +kernel

/-- O42: a command of each cause the queue refuses (R250). -/
theorem witness_matrix_causes :
    let s := owner (phaseCtx [(2, 0x010101), (3, 0x0101), (6, 1), (8, 0xFF)])
    let no := withCtx (phaseCtx [(3, 0x0101)])
    let cause (kind : MKind) (h : EHdr) (o : MOp) (s : State) := matrixCause (matrixCommand kind h o s) s
    cause .mlw (timedHdr 4) ⟨0, 1, 8, 0, 0, 0, 0, 0, 0, 0, 0, 0⟩ s = some 1 ∧
    cause .mlw (timedHdr 4) ⟨0, 1, 2, 1, 0, 0, 0, 0, 0, 0, 0, 0⟩ s = some 2 ∧
    cause .mwsw (timedHdr 4) ⟨0, 0, 0, 0, 0, 0, 0, 0, 0, 0, 0, 0⟩ (superWith readyCtx) = some 3 ∧
    cause .mma (timedHdr 4) ⟨2, 1, 3, 0, 0, 0, 0, 0, 0, 0, 1, 1⟩ no = some 8 ∧
    cause .mwsw (timedHdr 4) ⟨0, 0, 0, 0, 0, 0, 0, 0, 0, 0, 0, 0⟩ (withCtx readyCtx) = some 5 ∧
    cause .mwsw (timedHdr 0) ⟨0, 0, 0, 0, 0, 0, 0, 0, 0, 0, 0, 0⟩ s = some 4 := by decide +kernel

/-- A shape record of one dimension: 8 elements of f32 from address 0 (R171). -/
def lineShape : BitVec 512 := BitVec.ofNat 512 (2 ^ 389 + 8 * 2 ^ 392 + 7 * 2 ^ 56 + 2 ^ 24 + 8)

/-- Operands of the copy-engine commands: s2 a word locator of 8 bytes, s3 NULL, s4 a delivery of no rows to core 0. -/
def copyCtx : Ctx :=
  let c := phaseCtx [(2, 0xC00000), (3, 0x8000000000000000#64), (4, 0), (5, 0x8000), (6, 1)]
  { c with regs := { c.regs with sh := tset 0 1 lineShape (tset 0 2 (lineShape + BitVec.ofNat 512 (2 ^ 389)) (tset 0 3 (lineShape - BitVec.ofNat 512 (2 ^ 392)) [])) } }

/-- The header of an untimed command that signals sm6. -/
def hdr : EHdr := timedHdr 0x3FFF

/-- O43: each command with operands that fit. -/
theorem witness_copy_issue :
    let s := owner copyCtx
    ∀ i ∈ ([.cpy hdr ⟨1, 0, 0, 3, 0, 0, 0, 0, 0, 0⟩, .cpw hdr ⟨1, 0, 0, 3, 0, 0, 0, 0, 0, 0⟩, .cpx hdr ⟨0, 0, 0, 4, 0, 0, 0, 0, 0, 0⟩,
        .cpmc hdr ⟨0, 0, 0, 4, 4, 0, 0, 0, 0, 0⟩, .cpg hdr ⟨2, 0, 0, 0, 4, 0, 0, 0, 0, 0⟩, .cps hdr ⟨2, 0, 0, 0, 4, 0, 0, 0, 0, 0⟩,
        .cpaa hdr ⟨3, 0, 0, 3, 0, 0, 0, 0, 0, 0⟩, .cpld hdr ⟨0, 0, 0, 2, 0, 0, 0, 0, 0, 0⟩, .cpst hdr ⟨0, 0, 0, 2, 0, 0, 0, 0, 0, 0⟩,
        .amo hdr ⟨0, 0, 0, 2, 0, 0, 0, 0, 0, 9⟩, .vamo hdr ⟨0, 0, 0, 0, 5, 0, 0, 0, 0, 0⟩, .pft hdr ⟨1, 0, 0, 3, 0, 0, 0, 0, 0, 0⟩,
        .strm hdr ⟨0, 0, 0, 0, 0, 0, 0, 0, 0, 3⟩, .invp hdr ⟨0, 0, 0, 6, 0, 0, 0, 0, 0, 0⟩, .shpl hdr ⟨5, 0, 4, 0, 0, 0, 0, 0, 0, 0⟩] :
        List Instr),
      i.wf = true ∧ ((copySyllable i).map fun x => copyCause (copyCommand x.1 x.2.1 x.2.2 s) s) = some none ∧
        copyQueueFull s = false := by decide +kernel

/-- O43: a full queue, and the causes the queue refuses for (R250). -/
theorem witness_copy_causes :
    let s := owner copyCtx
    let no := withCtx copyCtx
    let cause (kind : CKind) (h : EHdr) (o : COp) (s : State) := copyCause (copyCommand kind h o s) s
    let full (sill : Bool) : State := { updCore 0 (fun k => { k with
      cq := List.replicate 12 (command .pft 0 0 ⟨0, 0, 0, 0, 0, 0, 0, 0, 0, 0⟩) }) s with bnd := { sill := sill, busy := 0 } }
    cause .strm hdr ⟨0, 0, 6, 0, 0, 0, 0, 0, 0, 3⟩ s = some 1 ∧ cause .cpy hdr ⟨1, 0, 0, 3, 5, 0, 0, 0, 0, 0⟩ s = some 2 ∧
    cause .strm (timedHdr 3) ⟨0, 0, 0, 0, 0, 0, 0, 0, 0, 3⟩ (superWith readyCtx) = some 3 ∧
    cause .cpy hdr ⟨1, 0, 0, 3, 0, 0, 0, 0, 0, 0⟩ no = some 8 ∧ cause .strm (timedHdr 0) ⟨0, 0, 0, 0, 0, 0, 0, 0, 0, 3⟩ s = some 4 ∧
    copyQueueFull (full true) = true ∧ cause .strm hdr ⟨0, 0, 0, 0, 0, 0, 0, 0, 0, 3⟩ (full true) = none ∧
    cause .strm hdr ⟨0, 0, 0, 0, 0, 0, 0, 0, 0, 3⟩ (full false) = some 4 := by decide +kernel

/-- A matrix command of slot 0 at the front of core 0's queue, its t+S now. -/
def beginning (kind : MKind) (h : EHdr) (o : MOp) (f : Ctx → Ctx) (g : Core → Core) : State × MCmd :=
  let s := owner (f (phaseCtx [(2, 0x010101), (3, 0x0101)]))
  let m := { matrixCommand kind h o s with id := 7 }
  (updCtx 0 (fun c => { c with pos := { c.pos with clk := h.start.toNat + 1 } })
    (updCore 0 (fun k => g { k with mq := [m], issuedAt := 1, issuedBy := 0 }) s), m)

/-- O44: a begin; another command before it; a guard unresolved, and set; a reason recorded; a wait that is not satisfied;
an engine busy; operand kinds that differ. -/
theorem witness_matrix_begin :
    let ok := beginning .mma (timedHdr 45) ⟨2, 1, 3, 0, 0, 0, 0, 0, 0, 0, 1, 1⟩ id id
    let other := { ok.2 with id := 8 }
    let run : MRun := { cmd := ok.2, start := 0, reads := [], bank := Bank.reset, rows := [], doff := 0, bw := 128, flags := 0, subst := 0 }
    let behind := beginning .mma (timedHdr 45) ⟨2, 1, 3, 0, 0, 0, 0, 0, 0, 0, 1, 1⟩ id fun k => { k with mq := other :: k.mq }
    let waits := beginning .mma ⟨9, 1, 6, 1, 45, 0, 0⟩ ⟨2, 1, 3, 0, 0, 0, 0, 0, 0, 0, 1, 1⟩
      (fun c => { c with reasons := [(9, 3)] }) id
    let busy := beginning .mma (timedHdr 45) ⟨2, 1, 3, 0, 0, 0, 0, 0, 0, 0, 1, 1⟩ id fun k => { k with mrun := [run] }
    let differ := beginning .mma (timedHdr 45) ⟨2, 1, 3, 0, 0, 0, 0, 0, 0, 0, 0, 1⟩ id id
    ok.2.id ∈ dueTimed ok.1 0 ∧ ok.2 ∈ (coreOf ok.1 0).mq ∧ ok.2.slot < 5 ∧ (∀ x ∈ (coreOf ok.1 0).mq, x.id = ok.2.id → x = ok.2) ∧
    (coreOf ok.1 0).mq.head? = some ok.2 ∧ gresolved (ctxOf ok.1 0) 0 = true ∧ gget (ctxOf ok.1 0) 0 ≠ (ok.2.h.gn == 1) ∧
    (coreOf ok.1 0).mrun = [] ∧ tagMismatch (coreOf ok.1 0) (ctxOf ok.1 0) ok.2.tilesRead = none ∧ (coreOf ok.1 0).st.ecc = [] ∧
    ok.2.kind = .mma ∧ (coreOf ok.1 0).mx.bank0.intw = true ∧ ok.2.o.int = 1 ∧ ok.2.isInteger (fld ok.2.b 8 6) = true ∧
    (coreOf ok.1 0).mx.bank0.wsc = false ∧ fld ok.2.b 23 1 = 0 ∧ (coreOf ok.1 0).mx.act = 0 ∧
    (coreOf behind.1 0).mq.head? ≠ some behind.2 ∧ behind.2.id ∈ dueTimed behind.1 0 ∧
    waits.2.h.wsem.toNat ≠ 0 ∧ tget 0 waits.2.h.wsem.toNat (ctxOf waits.1 0).reasons ≠ 0 ∧
    semOk (coreOf waits.1 0) waits.2.h.wsem.toNat waits.2.h.wthr.toNat = false ∧
    (∃ r ∈ (coreOf busy.1 0).mrun, ¬r.start + r.cmd.release ≤ now busy.1) ∧ differ.2.o.int = 0 ∧
    (coreOf differ.1 0).mx.bank0.intw = true := by decide +kernel

/-- O45: a command that is done, of the loading kind and of another, alone and behind one that is not. -/
theorem witness_matrix_completion :
    let ok := beginning .mlw (timedHdr 45) ⟨2, 1, 2, 0, 0, 0, 0, 0, 0, 0, 0, 0⟩ id id
    let run : MRun := { cmd := ok.2, start := 0, reads := [], bank := Bank.reset, rows := [], doff := 0, bw := 128, flags := 0, subst := 0 }
    let late : MRun := { run with start := 200, cmd := { ok.2 with id := 9 } }
    let s : State := { updCore 0 (fun k => { k with mrun := [late, run] }) ok.1 with ccn := 100 }
    (coreOf s 0).mrun = [late] ++ run :: [] ∧ (∀ x ∈ [late], now s < x.start + x.cmd.done) ∧ run.start + run.cmd.done ≤ now s ∧
    run.cmd.kind = .mlw ∧ run.cmd.kv ≤ 128 ∧ run.cmd.nv ≤ 128 := by decide +kernel

/-- O45, cycle by cycle: an exchange, a mask, a clear of two rows, a product of two rows at its last cycle, a drain's rows as
they are read and its last row written, and a load's read. -/
theorem witness_matrix_cycles :
    let of (kind : MKind) (o : MOp) : MCmd := (beginning kind (timedHdr 45) o id id).2
    let run (m : MCmd) (rows : List Row) : MRun :=
      { cmd := m, start := 0, reads := [], bank := Bank.reset, rows := rows, doff := 0, bw := 128, flags := 0, subst := 0 }
    let at' (n : Nat) (r : MRun) : State := { updCore 0 (fun k => { k with mrun := [r] }) (owner copyCtx) with ccn := n }
    let clr := of .mclr ⟨2, 1, 3, 0, 0, 0, 0, 0, 0, 0, 0, 0⟩
    let mul := of .mma ⟨2, 1, 3, 0, 0, 0, 0, 0, 0, 0, 1, 1⟩
    let drn : MCmd := { of .mdrn ⟨2, 1, 2, 0, 0, 0, 0, 0, 0, 0, 0, 0⟩ with a := 0, b := 0x801 }
    let full := run drn (List.replicate drn.rc 0)
    now (at' 0 (run clr [])) = 0 ∧ clr.kind = .mclr ∧ now (at' 1 (run clr [])) = 0 + 1 ∧ fld clr.b 16 7 + fld clr.b 0 8 ≤ 128 ∧
    mul.kind = .mma ∧ mul.mrows ≠ 0 ∧ fld mul.b 16 7 + mul.mrows ≤ 128 ∧ Bank.reset.nv ≤ 128 ∧
    now (at' (23 + mul.feed) (run mul [])) = 0 + 23 + mul.feed ∧ drn.kind = .mdrn ∧ drn.rc ≠ 0 ∧ drn.rc ≤ 128 ∧
    full.rows.length = drn.rc ∧ (fmtOfCode drn.num.fm drn.o.fr.toNat (fld drn.b 8 6)).map (·.container) = some 32 ∧
    (0 : Nat) < (drn.rc * 32 + 31) / 32 ∧ now (at' 12 full) = 0 + 11 + min drn.rc ((0 + 1) * (32 / 32)) ∧
    (coreOf (at' 12 full) 0).st.ecc = [] ∧ (run drn []).rows.length < drn.rc ∧
    (run (of .mlw ⟨2, 1, 2, 0, 0, 0, 0, 0, 0, 0, 0, 0⟩) []).reads.length < (of .mlw ⟨2, 1, 2, 0, 0, 0, 0, 0, 0, 0, 0, 0⟩).nread := by
  decide +kernel

/-- A copy-engine command of slot 0 in core 0's queue, as it stands. -/
def copying (c : Cmd) (f : Ctx → Ctx) (g : Core → Core) : State :=
  { updCore 0 (fun k => g { k with cq := [c], issuedAt := 2, issuedBy := 0 }) (owner (f copyCtx)) with ccn := 1 }

/-- A command of this kind as a bundle would queue it, with the number 7. -/
def queued (kind : CKind) (h : EHdr) (o : COp) : Cmd :=
  { copyCommand kind h o (owner copyCtx) with id := 7 }

/-- O46: an untimed command in its turn, its guard clear and set, a reason recorded; a timed one at its t+S, in turn and
not, and one whose slot is busy. -/
theorem witness_copy_begin :
    let u := queued .cpld hdr ⟨0, 0, 0, 2, 0, 0, 0, 0, 0, 0⟩
    let never := queued .cpld ⟨0, 0, 6, 1, 0x3FFF, 0, 1⟩ ⟨0, 0, 0, 2, 0, 0, 0, 0, 0, 0⟩
    let waits := queued .cpld ⟨9, 1, 6, 1, 0x3FFF, 0, 0⟩ ⟨0, 0, 0, 2, 0, 0, 0, 0, 0, 0⟩
    let t := queued .cpld (timedHdr 45) ⟨0, 0, 0, 2, 0, 0, 0, 0, 0, 0⟩
    let at45 (c : Ctx) : Ctx := { c with pos := { c.pos with clk := 46 } }
    let s := copying u id id
    let st := copying t at45 id
    let behind := copying t at45 fun k => { k with cq := { u with id := 5 } :: k.cq }
    cmdOf s 0 u.id = some u ∧ u.stage = .queued ∧ u.slot < 5 ∧ (coreOf s 0).mq = [] ∧ (coreOf s 0).st.ecc = [] ∧
    ((coreOf s 0).cq.find? fun q => q.slot == u.slot && q.stage == .queued).map (·.id) = some u.id ∧ u.wake < now s ∧
    gresolved (ctxOf s 0) 0 = true ∧ gget (ctxOf s 0) 0 ≠ (u.h.gn == 1) ∧ gget (ctxOf s 0) 0 = (never.h.gn == 1) ∧
    waits.h.wsem.toNat ≠ 0 ∧ tget 0 9 ({ copyCtx with reasons := [(9, 1)] } : Ctx).reasons ≠ 0 ∧
    semOk (coreOf s 0) u.h.wsem.toNat u.h.wthr.toNat = true ∧ u.fences = [] ∧ slotFree s 0 u = true ∧
    t.h.start ≠ 0x3FFF ∧ t.id ∈ dueTimed st 0 ∧ ((coreOf st 0).cq.find? fun q => q.slot == t.slot).map (·.id) = some t.id ∧
    ((coreOf behind 0).cq.find? fun q => q.slot == t.slot).map (·.id) = some 5 ∧ t.id ∈ dueTimed behind 0 ∧
    slotFree st 0 t = true ∧ semOk (coreOf st 0) 9 1 = false ∧
    tagMismatch (coreOf st 0) (ctxOf st 0) ((t.srcLeft.map fun r => 96 * r.1 + r.2 / 8).eraseDups) = none := by decide +kernel

/-- A begun command with nothing left to do, and one that no core accepts. -/
def doneCmd (kind : CKind) (o : COp) : Cmd := { queued kind hdr o with stage := .begun, total := some 0, filled := true }
def awayCmd : Cmd := { doneCmd .cpx ⟨0, 0, 0, 4, 0, 0, 0, 0, 0, 0⟩ with b := 0xFF000000 }

/-- O47: a command that has ended, with its signal and with a reason, and one abandoned. -/
theorem witness_copy_completion :
    let d := doneCmd .cpld ⟨0, 0, 0, 2, 0, 0, 0, 0, 0, 3⟩
    let s := copying d id id
    cmdOf s 0 7 = some d ∧ d.slot < 5 ∧ d.rel = none ∧ d.wake ≤ now s ∧ (coreOf s 0).pkts = [] ∧ d.stage = .begun ∧
    d.total = some 0 ∧ d.filled = true ∧ d.wq = [] ∧ d.kind ≠ .cpx ∧ ({ d with reason := 4 } : Cmd).reason ≠ 0 ∧
    ({ d with stage := .abandoned } : Cmd).stage = .abandoned := by decide +kernel

/-- O47: a STRM that may replace; a CPX that is taken and one that is refused. -/
theorem witness_copy_delivery :
    let strm : Cmd := { doneCmd .strm ⟨0, 0, 0, 2, 0, 0, 0, 0, 0, 3⟩ with total := some 2, next := 2, filled := false, got := [(0, []), (1, [])] }
    let cpx := doneCmd .cpx ⟨0, 0, 0, 4, 0, 0, 0, 0, 0, 0⟩
    let s := copying cpx id id
    replaceReady (copying strm id id) 0 strm = true ∧ strm.record ≠ [] ∧ deliverReady s cpx = true ∧
    physCore s.dev 0 (fld cpx.b 24 8) = some 0 ∧ (accepts s copyCtx.task 0 cpx.b).isSome = true ∧
    physCore (copying awayCmd id id).dev 0 (fld awayCmd.b 24 8) = some 255 ∧
    accepts (copying awayCmd id id) copyCtx.task 255 awayCmd.b = none := by decide +kernel

/-- O47: a destination's gateway that may write the first of two rows, one that writes the last, one with none left, and
the command that waits for them. -/
theorem witness_gateway :
    let d : Delivery := { src := 0, cmd := 7, slot := 0, word := 0x0000001100400000, rows := [(0, 5), (1, 6)] }
    let last : Delivery := { d with rows := [(1, 6)] }
    let none' : Delivery := { d with rows := [] }
    let c : Cmd := { awayCmd with sent := true, filled := false }
    let s (l : List Delivery) := copying c id fun k => { k with gw := l }
    (coreOf (s [d]) 0).gw = [d] ∧ (coreOf (s [d]) 0).lanes = [] ∧ (coreOf (s [d]) 0).st.wrUsed = [] ∧ last.rows.length = 1 ∧
    (coreOf (s [none']) 0).gw.filter (fun x => x.rows.isEmpty) = [none'] ∧ c ∈ (coreOf (s []) 0).cq ∧
    ((coreOf (s []) 0).cq.map (·.id)).Nodup ∧ (0 : Nat) ∈ partCores (s [d]).dev (partOfCore (s [d]).dev 0) ∧
    (coreOf (s []) 0).gw = [] := by decide +kernel

/-! Packets. -/

/-- A command of this kind that has begun and has its packets, in core 0's queue, its context's partition mapped. -/
def packeting (c : Cmd) (f : State → State) : State := f (copying c id id)

/-- The first 64 KiB of virtual addresses in the TLB of die 0, with these low bits of the entry and this frame. -/
def mapping (low frame : Nat) (s : State) : State :=
  updMem 0 (fun m => { m with tlb := [⟨0, 0, 3, BitVec.ofNat 128 (frame / 512 * 2 ^ 64 + low), 0x220000⟩] }) s

/-- CPLD of 8 bytes from address `a` to row 0, begun, with its packets. -/
def loading (a : W64) : Cmd :=
  { queued .cpld hdr ⟨0, 0, 0, 2, 0, 0, 0, 0, 0, 0⟩ with a := a, b := 0xC00000, stage := .begun, total := some 1, filled := true }

/-- INVP of 256 bytes from address 0, begun. -/
def dropping : Cmd := { loading 0 with kind := .invp, b := 256 }

/-- AMO.add of 8 bytes at address `a`, and VAMO.add of one element at address 0, begun. -/
def adding (a : W64) : Cmd := { loading 0 with kind := .amo, a := a, o := ⟨0, 0, 0, 2, 0, 0, 0, 0, 0, 0⟩ }
def scattering : Cmd := { loading 0 with kind := .vamo, c := 1, src := [0] }

/-- O48: an address out of range, a page not in the TLB, a compressed page, a permission missing, a packet that goes,
commands that skip, and one that translates ahead. -/
theorem witness_packet_issue :
    let c := loading 0
    let far : Cmd := { dropping with a := 0xFFFFFFFFFFFF0000 }
    let ok := packeting c (mapping 0x1F 0x10000)
    let bad := packeting c (mapping 0x03 0x10000)
    let small := packeting c (mapping 0x11F 0x10000)
    nextIssue ok 0 = some c ∧ cmdOf ok 0 c.id = some c ∧ unheld ok 0 c = none ∧ c.isRecord c.next = false ∧
    c.packetVa c.next = some 0 ∧ (leafOf ok 0 c 0).map (fun l => (l.pte.getLsbD 8, packetOk ok 0 c 0 0 l)) = some (false, true) ∧
    nextIssue bad 0 = some c ∧ (leafOf bad 0 c 0).map (fun l => packetOk bad 0 c 0 0 l) = some false ∧
    nextIssue small 0 = some c ∧ (leafOf small 0 c 0).map (fun l => l.pte.getLsbD 8) = some true ∧
    nextIssue (packeting c id) 0 = some c ∧ leafOf (packeting c id) 0 c 0 = none ∧
    nextIssue (packeting far id) 0 = some far ∧ far.packetVa far.next = none ∧ unheld (packeting far id) 0 far = none ∧
    nextIssue (packeting dropping (mapping 0x1F 0x10000)) 0 = some dropping ∧ c.kind ≠ .pft ∧ c.kind ≠ .invp := by
  decide +kernel

/-- O48: a command that translates ahead, and the packets and bits of two that walk. -/
theorem witness_packet_plans :
    let v := scattering
    let c := loading 255
    let w : Cmd := { c with kind := .cpst, src := [0] }
    nextIssue (packeting v (mapping 0x3F 0x10000)) 0 = some v ∧ unheld (packeting v (mapping 0x3F 0x10000)) 0 v = some 0 ∧
    v.packetVa 0 = some 0 ∧ walks c.kind ∧ c.mainPlans.map (fun p => (p.granule, p.pieces.map (·.q))) = [(0, [0]), (1, [1, 2, 3, 4, 5, 6, 7])] ∧
    memoryBit (loading 0x100) 8 = none ∧ memoryBit c 0 = some 2040 ∧ (0 : Nat) < memoryUnit c ∧
    w.mainPlans.length = 2 ∧ (∀ p ∈ w.mainPlans, ∀ x ∈ p.pieces, x.goff + x.nb ≤ 2048) ∧
    fld w.b 0 9 + 2 ^ fld w.b 22 2 ≤ 512 := by
  simp only [walks]; decide +kernel

/-- A packet of the command at granule 1 of partition 0. -/
def packet (acc : Nat) : Pkt :=
  { id := 9, cmd := 7, slot := 0, idx := 0, va := 0, pa := 0x100, dest := .local 0, mode := 0, acc := acc, stage := .issued
    issued := 0, wr := [(0, 0xAA, 0xFF)], rd := [], bad := 0, port := none }

/-- A state whose core 0 holds this command and this packet of it. -/
def holdingPacket (x : Pkt) (c : Cmd) : State := updCore 0 (fun k => { k with pkts := [x] }) (copying c id id)

/-- O49: a read, a write and an atomic that may perform, where memory is and where it is not. -/
theorem witness_packet_perform :
    let s (x : Pkt) (c : Cmd) := holdingPacket x c
    let c := loading 0x100
    let out (x : Pkt) : Pkt := { x with pa := usableBytes State.reset.dev 0 - 255 }
    pktOf (s (packet 0) c) 0 9 = some (packet 0) ∧ cmdOf (s (packet 0) c) 0 7 = some c ∧
    (∀ a ∈ [0, 1, 2], performReady (s (packet a) c) 0 (packet a) = true) ∧
    tget 0 ((packet 0).pa / 256) (partAt (s (packet 0) c) 0).memory.dramErr = 0 ∧ 0 < (s (packet 0) c).dev.parts ∧
    (packet 0).pa + 256 ≤ usableBytes (s (packet 0) c).dev 0 ∧ performReady (s (out (packet 0)) c) 0 (out (packet 0)) = true ∧
    usableBytes (s (packet 0) c).dev 0 < (out (packet 0)).pa + 256 ∧ (adding 0x100).mainAcc = 2 ∧
    ((adding 0x1F8).plans.headD ⟨0, []⟩).pieces.map (fun y => y.goff + y.nb) = [2048] := by
  decide +kernel

/-- A louvre with one node, PASS or FSUM, and a CPY with one. -/
def streaming (op : Nat) : Cmd :=
  { queued .cpy hdr ⟨1, 0, 0, 4, 0, 0, 0, 0, 0, 0⟩ with
    stage := .begun, total := some 1, graph := [BitVec.ofNat 64 (2 ^ 58), 0, BitVec.ofNat 64 (op * 2 ^ 58)] }

/-- O49: an answer of each kind; one that failed, and one of a port that has not answered in time. -/
theorem witness_packet_reply :
    let s (x : Pkt) (c : Cmd) := holdingPacket x c
    let c := loading 0x100
    let done : Pkt := { packet 0 with stage := .performed, rd := [(0, 5)] }
    let store : Cmd := { c with kind := .cpst }
    let away : Pkt := { packet 0 with dest := .peer 3 1 }
    replyReady (s done c) 0 done = true ∧ replyReady (s { done with bad := 3 } c) 0 { done with bad := 3 } = true ∧
    c.packetKind 0 = 0 ∧ fld c.b 0 9 + atomicBytes c ≤ 512 ∧ fld c.b 0 9 + 2 ^ fld c.b 22 2 ≤ 512 ∧
    (∀ y ∈ (c.plans.headD ⟨0, []⟩).pieces, y.eoff + y.nb ≤ memoryUnit c ∧ (memoryBit c y.q).isSome = true) ∧
    (c.plans.headD ⟨0, []⟩).pieces ≠ [] ∧ replyReady (s done store) 0 done = true ∧ store.packetKind 0 = 0 ∧
    (streaming 1).packetKind 0 = 0 ∧ gOrdered (streaming 1).graph = false ∧ gOrdered (streaming 5).graph = true ∧
    (streaming 5).packetKind 0 ≠ 2 ∧ replyReady (s done (streaming 5)) 0 done = true ∧ (streaming 5).reason = 0 ∧
    away.dest = .peer 3 1 ∧ away.issued + 2 ^ 24 ≤ now { s away c with ccn := 0x1000000 } := by
  decide +kernel

/-- O49: a CPY and a CPG that fill; a row that waits, its lane and port free, and each taken. -/
theorem witness_copy_writes :
    let u : Cmd := { queued .cpy hdr ⟨1, 0, 0, 4, 0, 0, 0, 0, 0, 0⟩ with stage := .begun, total := some 1 }
    let g : Cmd := { u with kind := .cpg }
    let w : Cmd := { u with wq := [(0, [⟨0, 8, 5⟩])] }
    let s := copying u id id
    u ∈ (coreOf s 0).cq ∧ ((coreOf s 0).cq.map (·.id)).Nodup ∧ u.filled = false ∧ u.rel = none ∧ fld u.b 63 1 = 0 ∧
    g.kind = .cpg ∧ (coreOf (copying w id id) 0).cq = [] ++ w :: [] ∧ (coreOf s 0).lanes = [] ∧
    w.dest.1 ∉ (coreOf s 0).st.wrUsed ∧
    w.dest.1 ∈ (coreOf (copying w id fun k => { k with st := { k.st with wrUsed := [w.dest.1] } }) 0).st.wrUsed := by
  decide +kernel

/-! Semaphores. -/

/-- O50: an update of each row; a wait that passes, one that does not, at a sill and not, one with a reason, and a
semaphore of another. -/
theorem witness_semaphore_rows :
    let c : Ctx := { readyCtx with regs := (holding [(1, 0x50003)]).regs }
    let low : State := withCtx c
    let high := updCore 0 (fun k => { k with semView := tset 0 9 131 [] }) low
    (∀ i ∈ ([.ssig ⟨0, 6, 15, 0, 0, 0, 0⟩, .sset ⟨0, 6, 0, 1, 4, 3, 0⟩, .sfaa ⟨0, 6, 255, 31, 0, 0, 0⟩, .scas ⟨0, 0, 0, 1, 0, 0, 0⟩] :
        List Instr),
      i.wf = true ∧ (semRow i low).isSome = true ∧
        (semRow i low).map (fun r => (r.f.idx.toNat == 0 || c.ctl.sam.getLsbD r.f.idx.toNat)) = some true) ∧
    spois (cur low) 1 = false ∧ spois { c with regs := sput 1 0 true c.regs } 1 = true ∧ semResults low 0 < 2 ∧
    (Instr.swait ⟨0, 9, 3, 0, 0, 0, 0⟩).wf = true ∧ (Instr.swait ⟨1, 9, 3, 0, 4, 3, 0⟩).wf = true ∧ mayName c 9 ∧
    ¬mayName Ctx.reset 9 ∧ tget 0 9 c.reasons = 0 ∧ tget 0 9 ({ c with reasons := [(9, 3)] } : Ctx).reasons = 3 ∧
    ¬waitPasses (coreOf low 0) 9 3 ∧ waitPasses (coreOf high 0) 9 4 ∧ ¬waitPasses (coreOf high 0) 9 3 ∧
    waitPasses (coreOf low 0) 0 200 := by
  simp only [mayName, waitPasses]; decide +kernel

/-- O51: an update of each operation that is due, in range and past it, from a port and from the core; one not yet due. -/
theorem witness_semaphore_apply :
    let u (op : SemOp) (src : SemSrc) : SemUpd :=
      { id := 3, idx := 6, op := op, src := src, slot := 0, due := 0, rel := [], stores := [], sched := 0, seq := 0 }
    let st (l : List SemUpd) : State :=
      updCore 0 (fun k => { k with semq := l, sems := tset 0 6 0xFFF8 [] }) (withCtx readyCtx)
    (∀ op ∈ ([.add 7, .add 8, .set 3, .fetchAdd 7 5, .cas 0xFFF8 1 5, .cas 0 1 5] : List SemOp),
      dueUpdate (st [u op .sy]) 0 = some (u op .sy)) ∧
    dueUpdate (st [u (.add 8) (.gateway 3)]) 0 = some (u (.add 8) (.gateway 3)) ∧
    (u (.add 8) (.doorbell 3) ∈ (coreOf (st [u (.add 8) (.doorbell 3)]) 0).semq) ∧
    isDue (st []) (u (.add 8) (.doorbell 3)) ∧ dueUpdate (st [u (.add 8) (.doorbell 3)]) 0 = none ∧
    dueUpdate (st [{ u (.add 8) .sy with due := 5 }]) 0 = none ∧ (0xFFF8#16).toNat + 7 = 0xFFFF ∧
    ¬isDue (st []) { u (.add 8) .sy with due := 5 } ∧ readyCtx.status = .ready ∧ readyCtx.boundary = [] := by
  simp only [isDue]; decide +kernel

/-! Phasers, phases and the syllables that do little. -/

/-- Phaser 5 of partition 0: context 0 has arrived `sph` times and waited `wph` times, as a member under mode 3 beside
context 1. -/
def phaser (sph wph : BitVec 32) : Phaser :=
  { cnt := 0, nsig := 2, arr := 0, drops := 0, owner := some 0, members := [(0, 3, sph, wph), (1, 3, 0, 0)] }

/-- A context whose s1 holds phaser 5, a member of it under `modes`, with that phaser and that view of it. -/
def phasing (modes : List (Nat × BitVec 2)) (x : Phaser) (view : BitVec 32) : State :=
  let s := withCtx { readyCtx with regs := (holding [(1, 5), (2, 6), (3, 0x405)]).regs, phasers := modes }
  updCore 0 (fun k => { k with phView := tset 0 5 view [] }) (setPhaser 5 x s)

/-- O52: a member and not; a handle of another and one with a bit set that must be clear; a phaser held by an arrival; a
wait that passes and one that does not; an operation that waits behind another. -/
theorem witness_phaser_rows :
    let s := phasing [(5, 3)] (phaser 0 0) 0
    let none' := phasing [] (phaser 0 0) 0
    let arrived := phasing [(5, 3)] (phaser 1 0) 1
    let op : PhOp := { id := 0, ph := 5, op := .arrive, rel := [] }
    let queue := updCore 0 (fun k => { k with phq := [op] }) s
    let is (i : YSyl → Instr) (s : State) : Option Bool := (phaserRow (i ⟨1, 0, 0, 1, 0, 0, 3⟩) s).map (·.2)
    s.slot < 5 ∧ (Instr.phreg ⟨0, 0, 0, 1, 0, 0, 3⟩).wf = true ∧ (Instr.phdrp ⟨0, 0, 0, 1, 0, 0, 0⟩).wf = true ∧
    (Instr.pharv ⟨1, 0, 0, 1, 4, 3, 0⟩).wf = true ∧ (Instr.phwt ⟨1, 0, 0, 1, 4, 3, 0⟩).wf = true ∧
    (Instr.phaw ⟨0, 0, 0, 1, 0, 0, 0⟩).wf = true ∧ is .phreg s = some false ∧ is .phreg none' = some true ∧
    is .phdrp s = some true ∧ is .phdrp none' = some false ∧ is .pharv s = some true ∧ is .phwt s = some true ∧
    is .phaw s = some true ∧ spois (cur s) 1 = false ∧ handleOk ⟨1, 0, 0, 1, 0, 0, 0⟩ s ∧ ¬handleOk ⟨1, 0, 0, 2, 0, 0, 0⟩ s ∧
    ¬handleOk ⟨1, 0, 0, 3, 0, 0, 0⟩ s ∧ reachesEngine s op ∧ ¬reachesEngine queue { op with op := .drop } ∧
    (phaserOf s 5).members.find? (fun m => m.1 == 0) = some (0, 3, 0, 0) ∧ (phaserOf s 5).cnt = 0 ∧
    (phaserOf arrived 5).members.find? (fun m => m.1 == 0) = some (0, 3, 1, 0) ∧
    (tget 0 5 (coreOf arrived 0).phView - 0).toNat = 1 ∧ (tget 0 5 (coreOf s 0).phView - 0).toNat = 0 := by
  simp only [handleOk, reachesEngine]; decide +kernel

/-- O52: an arrival that is held and one that is not; a wait that passes, one that does not, and one of a member whose
registration is still on its way. -/
theorem witness_phaser_waits :
    let s := phasing [(5, 3)] (phaser 0 0) 0
    let arrived := phasing [(5, 3)] (phaser 1 0) 1
    let op : PhOp := { id := 0, ph := 5, op := .reg 3, rel := [] }
    let coming := updCore 0 (fun k => { k with phq := [op] }) (phasing [(5, 3)] { phaser 0 0 with members := [] } 0)
    arrivalHeld arrived 0 5 ∧ ¬arrivalHeld s 0 5 ∧ phasePassed arrived 0 5 ∧ ¬phasePassed s 0 5 ∧ ¬phasePassed coming 0 5 ∧
    reachesEngine s op ∧ ¬reachesEngine coming op ∧ arrivalReleases ⟨1, 0, 0, 1, 4, 0, 0⟩ s = [] ∧
    arrivalReleases ⟨1, 0, 0, 1, 4, 3, 0⟩ s ≠ [] := by
  refine ⟨⟨1, by decide +kernel⟩, ?_, ⟨by decide +kernel, (3, 1, 0), by decide +kernel⟩, ?_, ?_, ?_⟩
  · rintro ⟨v, h, hv⟩
    have e : arrivedBy (phasing [(5, 3)] (phaser 0 0) 0) 0 5 = some (phaserOf (phasing [(5, 3)] (phaser 0 0) 0) 5).cnt := by
      decide +kernel
    exact hv (Option.some.inj (h.symm.trans e))
  · rintro ⟨-, m, h, hm, -⟩
    have e : recordOf 0 (phaserOf (phasing [(5, 3)] (phaser 0 0) 0) 5) = some (3, 0, 0) := by decide +kernel
    cases Option.some.inj (e.symm.trans h)
    revert hm
    decide +kernel
  · rintro ⟨-, m, h, -⟩
    have e : recordOf 0 (phaserOf (phasing [(5, 3)] { phaser 0 0 with members := [] } 0) 5) = none := by decide +kernel
    exact nomatch h.symm.trans e
  · simp only [reachesEngine]
    decide +kernel

/-- The state in which PEND stands alone in its bundle. -/
def ending (c : Ctx) : State := { withCtx c with bnd := { sill := true, busy := 128 } }

/-- O53, PEND and PSEL: alone; beside another syllable; with a value poisoned; with a reason; with a loop open. -/
theorem witness_pend :
    let s := ending readyCtx
    (Instr.pend ⟨1, 9, 3, 0, 0, 0, 0⟩).wf = true ∧ (Instr.psel ⟨0, 0, 3, 33, 0, 0, 0x45⟩).wf = true ∧ s.slot ≠ 4 ∧
    inDelay readyCtx = false ∧ aloneIn s .sy = true ∧ aloneIn { s with bnd := { sill := true, busy := 129 } } .sy = false ∧
    anyPoison readyCtx = false ∧ anyPoison { readyCtx with regs := sput 1 0 true Regs.reset } = true ∧ mayName readyCtx 9 ∧
    tget 0 9 readyCtx.reasons = 0 ∧ tget 0 9 ({ readyCtx with reasons := [(9, 3)] } : Ctx).reasons = 3 ∧
    endConditions s = false ∧ readyCtx.pos.loops.length = readyCtx.pos.depth0 ∧ (looping 12).pos.loops.length ≠ 0 := by
  simp only [mayName]; decide +kernel

/-- O53, the latch tree: a member at its PEND and one that has ended; sign-offs on their way, gathered, agreed and not. -/
theorem witness_phases :
    let c : Ctx := { readyCtx with status := .transom false, phtab := tset 0 3 1 [] }
    let off (e : Option (BitVec 7)) : SignOff := { rank := 0, succ := e, arrive := 4, arrived := false, solo := false, start := none }
    let x : Task := { task1 with signoffs := [off (some 3)] }
    let y : Task := { task1 with signoffs := [{ off (some 3) with arrived := true }], startAt := some 0 }
    let s : State := { withTask x c State.reset with ccn := 9 }
    c.task = some 1 ∧ taskOf s 0 1 = some x ∧ waitPasses (coreOf s 0) c.pos.pend.1 c.pos.pend.2 ∧ tget 0 0 c.reasons = 0 ∧
    c.ctl.psv = false ∧ c.fly.stores = [] ∧ ({ c with status := .ended } : Ctx).pos.endSent = false ∧ x.members ≠ [] ∧
    (∀ o ∈ x.signoffs, o.solo = false) ∧ x.signoffs.length = x.members.length ∧
    (∀ o ∈ x.signoffs, o.arrived = false → o.arrive ≤ now s) ∧ (∃ o ∈ x.signoffs, o.arrived = false) ∧
    y.stage = .bound ∧ y.startAt = some 0 ∧ 0 ≤ now s ∧ y.members.Nodup ∧ (∀ m ∈ y.members, m.2 < 5) ∧
    (∀ o ∈ y.signoffs.filter (fun o => !o.solo), o.succ = some 3) ∧ y.signoffs.filter (fun o => !o.solo) ≠ [] ∧
    entryOf c 3 ≠ 0 ∧ entryOf c 4 = 0 := by
  simp only [waitPasses]; decide +kernel

/-- O53: a copy fault recorded for the wait of a member in its transom. -/
theorem witness_pend_reason :
    let c : Ctx := { readyCtx with status := .transom false, reasons := [(9, 3)], pos := { Pos.reset with pend := (9, 1) } }
    let s := withCtx c
    tget 0 (ctxOf s 0).pos.pend.1 (ctxOf s 0).reasons = 3 ∧ (ctxOf s 0).status = .transom false ∧ (ctxOf s 0).boundary = [] ∧
    0 % 5 < 4 := by decide +kernel

/-- O54: the syllables; a core whose supervisor is ready, one where no slot is, and one where a slot is; a slot that keeps
its turn and one that is selected, of a waiting context and of one that has waited for a phase. -/
theorem witness_hints :
    let s := withCtx readyCtx
    let sup := updCtx 4 (fun c => { c with status := .ready }) s
    let sel (x : Selector) (st : Status) : State :=
      updCore 0 (fun k => { k with sel := x }) (withCtx { readyCtx with status := st })
    let chosen : Selector := { Selector.reset with sel := 0 }
    (Instr.nop .sy 0).wf = true ∧ (Instr.hint ⟨0, 0, 7, 0, 0, 0, 3⟩).wf = true ∧ (Instr.fence ⟨0, 0, 0, 0, 4, 3, 0⟩).wf = true ∧
    (Instr.yield ⟨1, 0, 0, 0, 0, 0, 0⟩).wf = true ∧ s.slot ≠ 4 ∧ superReady s 0 = false ∧ superReady sup 0 = true ∧
    selectSlot s 0 0 = 0 ∧ isReady s 0 = true ∧ selectSlot State.reset 0 7 = 7 ∧
    (let k := (coreOf (sel { chosen with sel := 7, keep := 0 } .ready) 0).sel; k.keep = 0 ∧ k.cur = 7) ∧
    now { sel { chosen with sel := 7, keep := 0 } .ready with ccn := 1 } = 0 + 1 ∧
    canTake (sel chosen (.waiting (.sem 1 1) false)) 0 = true ∧ chosen.from_ ≤ now s ∧ ¬chosen.keep < 5 ∧
    (ctxOf (sel chosen (.waiting (.phase 5 0 0 1) true)) 0).status = .waiting (.phase 5 0 0 1) true ∧
    (coreOf (sel Selector.reset .ready) 0).sel = Selector.reset ∧ Selector.reset.cur = 7 ∧ Selector.reset.sel = 7 ∧
    ¬Selector.reset.keep < 5 ∧ Selector.reset.from_ ≤ now s ∧ selectSlot (sel Selector.reset .ready) 0 7 = 0 := by
  decide +kernel

/-! The launch unit. -/

/-- Partition 0 serves ring 0: two records from address 0x1000, headers at 0x3000, dependence words from 0x4000. -/
def launching (r : Nat) (word : Nat) (f : Launch → Launch) : State :=
  let s := setCtx 0 Ctx.reset (mappedSuper id)
  let ring : Ring :=
    { served := true, base := 0x1000, logcap := 6, prio := 2, db := 0, headAddr := 0x2000, head := 0, stamped := none, last := 0 }
  let l := f { Launch.reset with lcb := 1, depBase := 0x4000, depLog := 10, rings := tset Ring.reset 0 ring [] }
  let s := updHost 0 (fun h => { h with bells := [(0, ⟨1, 0, 0, 0⟩)], segs := [⟨3, 0x3000, 256, 1⟩] }) (updLaunch 0 (fun _ => l) s)
  { s with mem := memWrite (memWrite (memWrite s.mem 0x220000 [0x3F]) 0x1000 (leBytes 64 r)) 0x4014 (leBytes 4 word) }

/-- A TASK record of task 5 for core 0's quadrant, its header at 0x3000 (R29). -/
def taskRecord : Nat := 0x3000 * 2 ^ 391 + 2 ^ 320 + 5 * 2 ^ 167 + 2 ^ 16

/-- O55, the rings: a NOP record, a slot not yet written, a rejected record, one that is taken, ready or not, and a ring
that waits. -/
theorem witness_launch_records :
    let rd (r : Nat) := readRecord 0 0 (launching r 0 id)
    let s1 := (rd taskRecord).2
    let r : BitVec 512 := BitVec.ofNat 512 taskRecord
    let s2 := (unitRead 0 0x3000 256 s1).2
    nextRing (launching taskRecord 0 id) 0 = some 0 ∧ (rd taskRecord).1 = some r ∧ (rd 0).1 = some 0 ∧ (rd 1).1 = some 1 ∧
    (rd 0x20000).1 = some 0x20000 ∧ recordBad s1 0 0x20000 = true ∧ (ringOf s1 0 0).head = 0 ∧ fld r 16 4 = 1 ∧
    recordBad s1 0 r = false ∧ headerSeg s1 0 (fld r 391 57) = some ⟨3, 0x3000, 256, 1⟩ ∧
    (unitRead 0 0x3000 256 s1).1.isSome = true ∧
    (depUpdate 0 5 (fun y => if y / 256 = 0x800000 then y else y + 0x80000000 + fld r 191 8) s2).1 = some (0, 0x80000000) ∧
    (depUpdate 0 5 (fun y => if y / 256 = 0x800000 then y else y + 0x80000000 + fld r 191 8)
      (unitRead 0 0x3000 256 (readRecord 0 0 (launching taskRecord 1 id)).2).2).1 = some (1, 0x80000001) ∧
    taskOf s2 0 (partAt s2 0).launch.order = none ∧ fld r 167 24 = 5 ∧
    (ringOf (launching 0 0 fun l => { l with rings := l.rings.map fun e => (e.1, { e.2 with stamped := some 0 }) }) 0 0).stamped = some 0 ∧
    (0 : Nat) + 4096 ≤ now { State.reset with ccn := 4096 } := by decide +kernel

/-- A task of core 0's quadrant with this gang and stage; its phase table is at 0x5000 and it declares tile 0. -/
def gangTask (gang : Nat) (stage : TaskStage) (ms : List (Nat × Nat)) (prio : Nat) : Task :=
  { task1 with
    record := BitVec.ofNat 512 (taskRecord + (gang - 1) * 2 ^ 264), stage := stage, members := ms, prio := prio
    header := 0x5000#2048 <<< 1472 ||| 1#2048 <<< 512, kept := [{ rank := 0, place := (0, 0), ended := some true, xfer := none, left := 0, more := [], compared := [], depth0 := 0, hold := none, boundary := [], fences := [], updates := [], phops := [], aged := 0, byp := [], bypPois := 0 }] }

/-- O55, binding: a ready task and a pre-empted one that can be bound. -/
theorem witness_binding :
    let s (x : Task) : State := launching 0 0 fun l => { l with tasks := [(1, some x)] }
    let new := gangTask 1 .ready [] 2
    let back := gangTask 1 .preempted [(0, 0)] 2
    placement (s new) 0 1 = some [(0, 0)] ∧ taskOf (s new) 0 1 = some new ∧ (bindTables 0 new (s new)).1.toOption.isSome = true ∧
    placement (s back) 0 1 = some [(0, 0)] ∧ taskOf (s back) 0 1 = some back ∧
    (bindTables 0 back (s back)).1.toOption.map (fun y => y.1) = some [] ∧
    (rebindMember 0 1 back [] [] [] 0 0 0 (noteBound 0 1 [(0, 0)] id (s back))).1 = true ∧
    (taskOf (rebindMember 0 1 back [] [] [] 0 0 0 (noteBound 0 1 [(0, 0)] id (s back))).2 0 1).isSome = true := by decide +kernel

/-- O55, pre-emption and completion: a bound gang that keeps a task of higher priority off its tile; one that has ended. -/
theorem witness_completion :
    let low := gangTask 1 .bound [(0, 0)] 1
    let high := gangTask 4 .ready [] 3
    let s := updCore 0 (fun k => { k with st := { k.st with tileOwn := tset 0 0 1 [] } })
      (setCtx 0 readyCtx (launching 0 0 fun l => { l with tasks := [(1, some low), (2, some high)] }))
    let done := setCtx 0 { readyCtx with status := .ended } s
    victim s 0 2 = some (1, low) ∧ low.members.Nodup ∧ (∀ m ∈ low.members, m.2 < 4) ∧ (ctxOf s 0).status ≠ .ended ∧
    taskOf done 0 1 = some low ∧ completable done low = true := by decide +kernel

/-- The gang's only member, whose area at address 0 is mapped. -/
def backTask : Task := { gangTask 1 .preempted [(0, 0)] 2 with kept := [] }
def backState : State := noteBound 0 1 [(0, 0)] id (launching 0 0 fun l => { l with tasks := [(1, some backTask)] })

theorem rebinds_one {p n rank : Nat} {x : Task} {sems : List (Nat × Nat)} {phtab : Sparse (BitVec 128)}
    {expect : Sparse (BitVec 32)} {m : Nat × Nat} {s : State} {h b : List Byte}
    (ok : (rebindMember p n x sems phtab expect m.1 m.2 rank s).1 = true)
    (area : ReadsArea p n x sems phtab expect m rank s h b) :
    RebindsTo p n x sems phtab expect [(m, rank)] [(h, b)] s (rebindMember p n x sems phtab expect m.1 m.2 rank s).2 :=
  ⟨_, Prod.ext ok rfl, fun _ => area, rfl, rfl⟩

theorem readsArea_of {p n rank : Nat} {x : Task} {sems : List (Nat × Nat)} {phtab : Sparse (BitVec 128)}
    {expect : Sparse (BitVec 32)} {m : Nat × Nat} {s : State}
    (husk : (vread (partOfCore (claimed n x sems phtab expect m rank s).dev m.1) (dieOfCore m.1) .read 66 (areaOf x rank)
      (huskSize + if hasCoreState x then coreStateSize (fld x.header 104 8) (hdrMxu x.header) else 0)
      (claimed n x sems phtab expect m rank s)).1.isSome = true)
    (ok : (restoreHusk (ctxId m.1 m.2) (areaOf x rank) (hasCoreState x) (claimed n x sems phtab expect m rank s)).1 = true)
    (tiles : (vread p (dieOfCore m.1) .read 66 (areaOf x rank + areaTiles x) (4096 * (hdrTiles x.header).length + 4096)
      (restoreHusk (ctxId m.1 m.2) (areaOf x rank) (hasCoreState x) (claimed n x sems phtab expect m rank s)).2).1.isSome = true) :
    ∃ h b, ReadsArea p n x sems phtab expect m rank s h b :=
  have ⟨h, eh⟩ := Option.isSome_iff_exists.mp husk
  have ⟨b, eb⟩ := Option.isSome_iff_exists.mp tiles
  ⟨h, b, eh, _, Prod.ext ok rfl, eb⟩

/-- O55, restoring: a member whose area is read, one whose area is not mapped, and a gang whose phase table is not. -/
theorem witness_rebind :
    (∃ areas t, RebindsTo 0 1 backTask [] [] [] [((0, 0), 0)] areas backState t) ∧ (keptFor backTask 0).ended = none ∧
    (rebindMember 0 1 { backTask with header := backTask.header ||| 0x40000000#2048 <<< 384 } [] [] [] 0 0 0 backState).1 = false ∧
    (bindTables 0 { backTask with header := 0x40000000#2048 <<< 1472 ||| 1#2048 <<< 512 } backState).1.toOption.isSome = false := by
  refine ⟨?_, by decide +kernel⟩
  have ⟨h, b, area⟩ : ∃ h b, ReadsArea 0 1 backTask [] [] [] (0, 0) 0 backState h b :=
    readsArea_of (by decide +kernel) (by decide +kernel) (by decide +kernel)
  exact ⟨[(h, b)], _, rebinds_one (by decide +kernel) area⟩

/-! The host's side. -/

/-- Partition 0 with ring 0 on doorbell 3, this control word and this value in it, and a task on core 0 that has sm9. -/
def belling (dbc dbv : W64) : State :=
  let ring : Ring :=
    { served := true, base := 0x1000, logcap := 6, prio := 2, db := 3, headAddr := 0x2000, head := 5, stamped := none, last := 0 }
  updHost 0 (fun h => { h with bells := [(3, ⟨dbv, dbc, 0, 0⟩)] })
    (updLaunch 0 (fun l => { l with rings := tset Ring.reset 0 ring [] }) (withCtx readyCtx))

/-- O56, doorbells: a write that is taken, at the head plus the capacity; taken and bridged; ignored for each cause. -/
theorem witness_doorbells :
    let w : DbWrite := { part := 0, k := 3, fromPort := true, trusted := false, whole := true, value := 69 }
    let plain := belling 0x8000000000000000#64 6
    let bridge := belling 0xC000097000000000#64 6
    let b := bellOf plain 0 3
    let c := bellOf bridge 0 3
    w.k < 64 ∧ plain.dev.fwUp = true ∧ (partAt plain 0).host.tdi = .unlocked ∧ fld b.dbc 63 1 = 1 ∧ fld b.dbc 60 2 = 0 ∧
    (ringOfBell plain 0 3).map (fun r => (r.head, r.logcap)) = some (5, 6) ∧ b.dbv.toNat < w.value.toNat ∧
    (w.value - 5).toNat ≤ 2 ^ 6 ∧ ¬((w.value + 1 - 5).toNat ≤ 2 ^ 6) ∧ ringOfBell plain 0 4 = none ∧ fld b.dbc 62 1 = 0 ∧
    fld c.dbc 62 1 = 1 ∧ fld c.dbc 36 4 ≠ 0 ∧ fld c.dbc 40 8 ≠ 0 ∧ fld c.dbc 60 2 = 0 ∧
    physCore bridge.dev 0 (fld c.dbc 28 8) = some 0 ∧ semBound bridge 0 (fld c.dbc 40 8) = true ∧
    fld (0 : W64) 63 1 = 0 ∧ 2 ≤ fld (0xA000000000000000#64) 60 2 := by decide +kernel

/-- O56, the rest: the port open and in ERROR; a window ready and, under a retrain, not; an atomic in range; a vector
pending and not; the transitions of the TDI. -/
theorem witness_host_port :
    let tdi (t : Tdi) : State := updHost 0 (fun h => { h with tdi := t }) State.reset
    let r : HostAtomic := { part := 0, off := 8, op := .fetchAdd, size := 8, operand := 1, compare := 0, trusted := true }
    State.reset.dev.fwUp = true ∧ (partAt (tdi .run) 0).host.tdi = .run ∧ (partAt (tdi .error) 0).host.tdi = .error ∧
    ([0] : List Byte) ≠ [] ∧ notReady State.reset 0 0 8 = false ∧
    (partAt State.reset 0).memory.dramErr = [] ∧ r.off % r.size = 0 ∧ r.off + r.size ≤ usableBytes State.reset.dev 0 ∧
    ({ HostSide.reset with msixPend := [7] } : HostSide).msixPend = [7] ∧ (partAt (tdi .locked) 0).host.tdi = .locked := by
  decide +kernel

/-- O56: a window whose controller is retraining. -/
theorem witness_not_ready :
    notReady (updMem 0 (fun m => { m with retrain := [homeCtrl State.reset 0 0] }) State.reset) 0 0 8 = true := by
  simp only [notReady, homeCtrl]
  exact List.any_eq_true.2 ⟨0, by decide, List.contains_iff_mem.2 (List.mem_singleton.2 rfl)⟩

/-! The mailbox. -/

/-- A command in MBCMD with its arguments; `f` changes the machine first. -/
def commanding (cmd : W64) (args : List (Nat × W64)) (f : State → State) : State :=
  let s := f State.reset
  { s with dev := { s.dev with mb := { s.dev.mb with cmd := cmd, args := args } } }

/-- What the row of a command says of the command in MBCMD: it is its own, its target and arguments fit, and the TDI
refuses it. -/
def taken (i : Instr) (s : State) : Option (Bool × Bool × Bool × Bool) :=
  (mbRow i).map fun r => (fld s.dev.mb.cmd 0 16 == r.opc, tgtFits s r, r.fits s (mbTgt s), mbLocked s r)

/-- O57: each command with arguments that fit, on partition 0 or the device. -/
theorem witness_mailbox_rows : ∀ x ∈ ([(.partset, 0xFF0001, [(0, 2)]), (.fabaddr, 0xFF0002, [(0, 2048), (1, 31)]), (.pbase, 3, [(0, 65567)]),
      (.pair, 4, [(0, 65567), (1, 3), (2, 1)]), (.xroot, 0x10, [(0, 0x200000)]), (.xinval, 0x11, []), (.expool, 0x12, [(1, 1)]),
      (.compress, 0x13, [(2, 0x10000)]), (.peercopy, 0x14, [(0, 0x200000), (1, 0x200000)]), (.errlog, 0x20, [(1, 6), (2, 0x10000)]),
      (.faq, 0x21, [(1, 6)]), (.migq, 0x22, [(1, 20)]), (.cethr, 0x23, [(0, 65535)]), (.phallot, 0x24, [(0, 1023), (1, 1)]),
      (.latchl, 0x30, [(1, 255)]), (.physmap, 0x31, []), (.signer, 0x40, [(0, 15)]), (.load, 0x41, []), (.cancel, 0x42, [(0, 5)]),
      (.wreset, 0x43, []), (.badadd, 0xFF0050, [(0, 0x10000)]), (.badread, 0xFF0051, []), (.retire, 0xFF0052, [(0, 3), (1, 127)]),
      (.counters, 0x60, []), (.ports, 0xFF0061, []), (.trace, 0x62, [(0, 0x1000), (2, 1)]), (.fwprov, 0xFF0070, [(1, 61440), (2, 1)])] :
      List (Instr × W64 × List (Nat × W64))),
    taken x.1 (commanding x.2.1 x.2.2 id) = some (true, true, true, false) := by decide +kernel

/-- O57: a busy mailbox, a device without firmware, a target and an argument that do not fit, a locked TDI, an unknown
code; what the commands find. -/
theorem witness_mailbox_causes :
    let locked := updHost 0 (fun h => { h with tdi := .locked, leftUnlocked := true })
    let bound := withTask task1 readyCtx
    let placed := updMem 0 (fun m => { m with errlog := some ⟨0, 6, false⟩ })
    let member := setPhaser 7 { Phaser.reset with members := [(0, 3, 0, 0)] }
    (commanding 4 [] fun s => { s with dev := { s.dev with mb := { s.dev.mb with stat := 0x8000000000000000#64 } } }).dev.mb.stat.getLsbD 63 = true ∧
    (commanding 4 [] fun s => { s with dev := { s.dev with fwUp := false } }).dev.fwUp = false ∧
    taken .pbase (commanding 0x40003 [] id) = some (true, false, true, false) ∧
    taken .pbase (commanding 3 [(0, 65568)] id) = some (true, true, false, false) ∧
    taken .pbase (commanding 3 [] locked) = some (true, true, true, true) ∧
    taken .partset (commanding 0xFF0001 [(0, 1)] locked) = some (true, true, true, true) ∧
    fld (commanding 0x99 [] id).dev.mb.cmd 0 16 = 0x99 ∧
    (taskOf (bound State.reset) 0 1).map (·.stage) = some .bound ∧ (partAt (placed State.reset) 0).memory.errlog ≠ none ∧
    (partAt State.reset 0).memory.errlog = none ∧ (phaserOf (member State.reset) 7).members ≠ [] ∧
    (phaserOf (member State.reset) 7).owner ≠ some 0 ∧ taskOfId (bound State.reset) 0 5 = some (1, task1) ∧
    boundOn (bound State.reset) 1 0 = true ∧ boundOn State.reset 1 0 = false := by decide +kernel

/-- O57: no row has the code 0x99. -/
theorem witness_unknown_opc : ∀ i r, mbRow i = some r → r.opc ≠ 0x99 := by
  intro i r h
  cases i <;> simp only [mbRow, reduceCtorEq] at h <;> (cases h; decide)

/-- O57: a command that is done, with a response word, with a message asked for and not; one that is not done. -/
theorem witness_mailbox_complete :
    let done (cfg : W64) (w : Option (Nat × Nat × Nat)) : State := commanding 0x11 [] fun s =>
      { s with dev := { s.dev with mb := { s.dev.mb with cfg := cfg, run := 0x500000011, pending := some (0, [(0, 9)]), wait := w } } }
    let held : Cmd := { command .vamo 0 0 ⟨0, 0, 0, 0, 0, 0, 0, 0, 0, 0⟩ with held := [⟨0, 0, 3, 0, 0⟩] }
    let on := updHost 0 (fun h => { h with msixOn := [0], msixEnable := true, msixMask := false }) (done 0x8000000000000000#64 none)
    (0 : Nat) ∈ (partAt on 0).host.msixOn ∧ (partAt on 0).host.msixEnable = true ∧ (partAt on 0).host.msixMask = false ∧
    on.dev.mb.pending.isSome = true ∧ (done 0 none).dev.mb.pending = some (0, [(0, 9)]) ∧ commandDone (done 0 none) = true ∧ fld (0 : W64) 63 1 = 0 ∧
    fld (0x8000000000000007#64) 63 1 = 1 ∧
    commandDone (updCore 0 (fun k => { k with cq := [held] }) (done 0 (some (0, 0, 65536)))) = false := by decide +kernel

/-- O56: the partition's own stream in RUN and another's; a vector that may send, one masked by its function, one asked of a
port that refuses; BAR 0 in its parts; SPDM. -/
theorem witness_host_gates :
    let run := updHost 0 (fun h => { h with tdi := .run }) State.reset
    let open' := updHost 0 (fun h => { h with msixEnable := true, msixMask := false, msixPend := [7] }) State.reset
    (partAt run 0).host.tdi = .run ∧ run.dev.fwUp = true ∧ 0 < run.dev.parts ∧ run.dev.parts ≤ 4 ∧
    (partAt open' 0).host.msixEnable = true ∧ (partAt open' 0).host.msixMask = false ∧ (partAt open' 0).host.msixPend = [7] ∧
    (∀ x ∈ (partAt open' 0).host.msixPend, x ∉ (partAt open' 0).host.msixOn) ∧ (partAt State.reset 0).host.msixPend = [] ∧
    ((partAt State.reset 0).host.msixEnable = false ∨ (partAt State.reset 0).host.msixMask = true) ∧
    (1 : BitVec 32).getLsbD 0 = true ∧ (0x7FF : Nat) < 0x800 ∧ (0xFFFF : Nat) < 0x10000 ∧ (0x100FF : Nat) < 0x10100 := by
  decide +kernel

/-- The head of a module with one segment of this NBV, and a descriptor of this KIND; the machine that finds them at 0x10000. -/
def moduleHead (nbv : Byte) : List Byte :=
  [0x53, 0x52, 0x57, 0x54, 0x43, 0x4F, 0x30, 0x31, 1, 0, 9, nbv, 1, 0, 0, 0] ++ List.replicate 112 0
def moduleDesc (kind : Byte) : List Byte := kind :: List.replicate 255 0
def moduleAt (head desc : List Byte) : State := commanding 0x41 [(0, 0x10000)] fun _ =>
  let s := mappedSuper id
  { s with mem := memWrite (memWrite s.mem 0x10000 head) 0x10080 desc }

/-- LOAD's first two reads. -/
def moduleRead (s : State) : Option (List Byte × List Byte) :=
  match readAll 0 (mbArg s 0) 128 (updHost 0 (fun h => { h with attest := { h.attest with loads := h.attest.loads + 1 } }) s) with
  | (some h, s1) => ((readAll 0 (mbArg s 0 + 128) (256 * numAt h 12 2) s1).1).map fun b => (h, b)
  | (none, _) => none

theorem headFits_of {h : List Byte} (e : h = moduleHead 1) : HeadFits h := by
  have z : ∀ j < 128, 16 ≤ j → (moduleHead 1).getD j 0 = 0 := by decide +kernel
  subst e
  exact ⟨by decide +kernel, by decide +kernel, by decide +kernel, by decide +kernel, by decide +kernel, by decide +kernel,
    fun j hl hu => z j hu hl⟩

theorem descFits_stream : DescFits (moduleDesc 4) := by
  have z : ∀ j < 256, 1 ≤ j → (moduleDesc 4).getD j 0 = 0 := by decide +kernel
  refine ⟨by decide +kernel, by decide +kernel, by decide +kernel, by decide +kernel, by decide +kernel, by decide +kernel, ?_⟩
  intro j h
  exact z j (by omega) (by omega)

/-- O57, LOAD: a module at an address that is not mapped, one whose head does not fit, one whose descriptor does not, one of
NBV 0, and one that loads: it has one segment, of a stream form. -/
theorem witness_load :
    let s := moduleAt (moduleHead 1) (moduleDesc 4)
    let far := commanding 0x41 [(0, 0x40000000)] fun _ => mappedSuper id
    taken .load s = some (true, true, true, false) ∧ taken .load far = some (true, true, true, false) ∧ moduleRead far = none ∧
    moduleRead s = some (moduleHead 1, moduleDesc 4) ∧ HeadFits (moduleHead 1) ∧ DescFits (moduleDesc 4) ∧
    (∀ key t, SegmentsLoad 0 0x10000 key [moduleDesc 4] t t) ∧ (headersOk 0 (segmentsOf 1 [moduleDesc 4]) s).1 = true ∧
    ¬HeadFits [] ∧ ¬DescFits (moduleDesc 5) ∧ numAt (moduleHead 0) 11 1 = 0 := by
  refine ⟨by decide +kernel, by decide +kernel, by decide +kernel, by decide +kernel, headFits_of rfl, descFits_stream, ?_, ?_⟩
  · intro key t
    rw [SegmentsLoad, if_pos (by decide +kernel), SegmentsLoad]
  · refine ⟨by decide +kernel, fun h => absurd h.1 (by decide), fun h => absurd h.2.1 (by decide +kernel), by decide +kernel⟩

/-- O57: WRESET of a partition that left UNLOCKED and of one that did not; the registers a read gives. -/
theorem witness_wreset :
    let left := commanding 0x43 [] (updHost 0 fun h => { h with leftUnlocked := true })
    taken .wreset left = some (true, true, true, false) ∧ (partAt left 0).host.leftUnlocked = true ∧
    (partAt State.reset 0).host.leftUnlocked = false ∧ (0 : Nat) ∈ partCores State.reset.dev 0 ∧ 0 < State.reset.dev.parts ∧
    (0x1F8 : Nat) / 0x100 = 1 ∧ (0x2F8 : Nat) / 0x100 = 2 ∧ (0xFFF8 : Nat) < 0x10000 := by decide +kernel

/-! The fabric and the device's own events. -/

/-- A port as it stands. -/
def porting (port : Nat) (f : Port → Port) : State :=
  { State.reset with dev := { Dev.reset with ports := [(port, f (Port.reset port))] } }

/-- A request of a peer through port 40. -/
def request (op : RemoteOp) (held : Bool) : RemoteReq := { part := 0, addr := 256, op := op, tag := 1, port := 40, held := held }

/-- O58, ports: an open port of each kind; a flit in order, out of order, behind and far ahead; one refused already, by this
flit and by another; a frame that retrains. -/
theorem witness_ports :
    let near := portOf State.reset 3
    let far := portOf State.reset 40
    let nak := portOf (porting 3 fun x => { x with nak := some (0, 9) }) 3
    let kept := portOf (porting 40 fun x => { x with reseq := [(5, 1)] }) 40
    near.up = true ∧ near.retraining = false ∧ near.recvSeq = 0 ∧ near.nak = none ∧ far.up = true ∧ far.reseq = [] ∧
    (2 ^ 12 : Nat) % 2 ^ 12 = near.recvSeq ∧ nak.nak = some (nak.recvSeq, 9) ∧ ¬(10 + 2 ^ 12 - 9) % 2 ^ 12 ≥ 2 ^ 11 ∧
    far.recvSeq < 2 ^ 16 ∧ (4095 + 2 ^ 16 - far.recvSeq) % 2 ^ 16 < 4096 ∧ (∃ f ∈ kept.reseq, f.1 = 5) ∧
    (∀ f ∈ kept.reseq, f.1 ≠ 6 ∧ f.1 ≠ kept.recvSeq) ∧
    (portOf (porting 3 fun x => { x with retraining := true }) 3).retraining = true ∧ min 4 far.lanes ≠ 0 ∧
    State.reset.dev.fwUp = true := by decide +kernel

/-- O58, tags and peers: a port with no group, with an answer and with a request that wait, and with one that has failed
seven times; a remote write, read and atomic that are served and one beyond the memory. -/
theorem witness_groups :
    let p (l : List (Held × Nat)) := portOf (porting 40 fun x => { x with held := l }) 40
    (p []).held = [] ∧ (p [(.answer 0 9, 0)]).held = [(.answer 0 9, 0)] ∧
    (p [(.request (request (.read 8) true), 7)]).held = [(.request (request (.read 8) true), 7)] ∧
    (request (.read 8) true).port = 40 ∧ (request (.read 8) true).held = true ∧
    (∀ o ∈ ([.read 8, .write [1, 2], .atomic 0 4 5 0] : List RemoteOp), (request o false).held = false) ∧
    256 + 8 ≤ usableBytes State.reset.dev 0 ∧ notReady State.reset 0 256 8 = false ∧ 0 < State.reset.dev.parts ∧
    usableBytes State.reset.dev 0 < usableBytes State.reset.dev 0 - 7 + 8 ∧ usableBytes State.reset.dev 0 < 0x01FFFFFFFFFF0000 ∧
    (partAt State.reset 0).memory.dramErr = [] := by decide +kernel

/-- O58, events: a controller that has met its errors; a scrubber that is due, not yet due, and whose row's block is in use;
an access counter at its threshold; a walk. -/
theorem witness_events :
    let s := mappedSuper id
    let met := updMem 0 (fun m => { m with cethr := 5, ceCount := [(3, 5)] }) s
    let y : AccCount := { die := 0, region := 2, count := 256, peer := 1, part := 0, act := 1 }
    let busy := updMem 0 (fun m => { m with walks := [(0, 1)], expanding := [1], acc := [y] }) s
    let due := { s with ccn := 174763 }
    let n := (now due - tget 0 0 (coreOf due 0).st.held) * 768 / 2 ^ 27
    let m := (partAt busy 0).memory
    (partAt met 0).memory.cethr ≠ 0 ∧ (partAt met 0).memory.cethr ≤ tget 0 3 (partAt met 0).memory.ceCount ∧
    (partAt s 0).memory.cethr = 0 ∧ (coreOf s 0).st.scrubbed = [] ∧ now s < 131072 ∧ n = 1 ∧
    0 ∉ (coreOf due 0).st.rdUsed ++ (coreOf due 0).st.wrUsed ++ drainBlocks due 0 ∧ 0 ∈ [0] ++ (coreOf due 0).st.wrUsed ∧ (coreOf due 0).st.ecc = [] ∧
    m.acc.find? (fun y => y.die == 0 && y.region == 2 && decide (2 ^ (y.act + 7) ≤ y.count)) = some y ∧ (0, 1) ∈ m.walks ∧
    (0, 2) ∉ m.walks ∧ m.dramErr = [] ∧ (walk busy 0 65536).isSome = true ∧
    (m.tlb.filter fun e => e.die == 0).length < 4096 ∧ 1 ∈ m.expanding ∧
    (walk busy 0 65536).map (fun l => l.pte.getLsbD 8) = some false := by decide +kernel

/-- O58: a compressed page, with a frame of its size in the pool and with none. -/
theorem witness_expansion :
    let s0 := mappedSuper id
    let leaf := (walk s0 0 65536).getD ⟨0, 0, 0⟩
    let s := { updMem 0 (fun m => { m with expanding := [1], pool := [(0x400000, true)] }) s0 with
      mem := memWrite s0.mem leaf.home (leBytes 16 (leaf.pte.toNat + 256)) }
    let m := (partAt s 0).memory
    (walk s 0 65536).map (fun l => (l.pte.getLsbD 8, l.level)) = some (true, 2) ∧ 1 ∈ m.expanding ∧
    m.pool.find? (fun f => f.2 == true) = some (0x400000, true) ∧ (∀ f ∈ m.pool, f.2 ≠ false) ∧ leaf.home + 16 ≤ 0x400000 ∧
    leNat (memRead s.mem leaf.home 16) = leaf.pte.toNat + 256 ∧ (∀ y ∈ m.frames, y.data.length ≤ 2 ^ 21) := by decide +kernel

/-- O59, O60: the step from reset, whose memory has its form, answers a next state. -/
theorem witness_step : memWf State.reset.mem = true ∧ (match step State.reset with | .next _ => true | _ => false) = true := by
  decide +kernel

/-! What the review asked the statements to say. -/

/-- O4, the second clause: a peer's write to the doorbell alias before a port's doorbell write of its cycle, either of which is due. -/
theorem witness_port_bell_first :
    let w : DbWrite := { part := 0, k := 3, fromPort := true, trusted := false, whole := true, value := 69 }
    let i : Instr := .remoteRequestArrival { part := 0, addr := windowBase, op := .write [1], tag := 1, port := 40, held := false }
    let s : State := { State.reset with inbox := [(0, .step i), (0, .step (.doorbellWrite w))] }
    s.inbox = (0, .step i) :: (0, .step (.doorbellWrite w)) :: [] ∧ 0 ≤ now s ∧ w.fromPort = true ∧ aliasInput s (.step i) = true ∧
    aliasInput s (.step (.powerLimiter true)) = false := by decide +kernel

/-- O7: a reserved field in a syllable that is illegal where it stands, and in one that is not. -/
theorem witness_bad_bits_here :
    let i : Instr := .br ⟨1, 0, 0, 0, 0, 5⟩
    (enc i).illegal = false ∧ (enc i).reserved = true ∧ (encodeSyl i).isSome = true ∧ illegalHere i (withCtx readyCtx) = false ∧
    illegalHere i (withCtx { readyCtx with pos := { Pos.reset with left := 2 } }) = true ∧
    trapOf i (withCtx readyCtx) = some 2 ∧ trapOf i (withCtx { readyCtx with pos := { Pos.reset with left := 2 } }) = some 1 := by
  decide +kernel

/-- O18: a register that only the supervisor reads, in a task context. -/
theorem witness_sysr_trap : (Instr.sysr ⟨3, 0, 0, 0, 0, 0x30⟩).wf = true ∧ (withCtx readyCtx).slot ≠ 4 ∧
    sysReadPriv (⟨3, 0, 0, 0, 0, 0x30⟩ : SSyl).sysNum = true := by decide +kernel

/-- O20: a launch block of one ring whose head is read, or in a page that is not mapped; a ring that is not kept; a block
of expectations in a page that is not mapped. -/
theorem witness_rings :
    let desc (log : Nat) (head : Nat) : Nat := 2 ^ 192 + 3 * 2 ^ 193 + log * 2 ^ 195 + 0x10000 * 2 ^ 199 + 5 * 2 ^ 186 + head * 2 ^ 129
    let blk (log head : Nat) := leBytes 8 0x4000 ++ leBytes 56 10 ++ leBytes 32 (desc log head)
    let s (log head : Nat) : State :=
      let s := mappedSuper fun c => { c with regs := sput 1 0x1001 false c.regs }
      { s with mem := memWrite s.mem 0x1000 (blk log head) }
    let l : Launch := { Launch.reset with lcb := 0x1001 }
    let rd (log head : Nat) := unitRead 0 0x1000 320 (updLaunch 0 (fun _ => l) (s log head))
    let d (log head : Nat) : Nat := numAt ((rd log head).1.getD []) 64 32
    let ok (log head : Nat) := (unitRead 0 (d log head / 2 ^ 129 % 2 ^ 57) 8
      (updLaunch 0 (fun x => { x with depBase := 0x4000, depLog := 10 }) (rd log head).2)).1.isSome
    (Instr.lcbWrite ⟨0, 1, 0, 0, 0, 0x40⟩).wf = true ∧ (s 6 0x2000).slot = 4 ∧ (rd 6 0x2000).1.isSome = true ∧
    (numAt ((rd 6 0x2000).1.getD []) 0 8, numAt ((rd 6 0x2000).1.getD []) 8 8, numAt ((rd 6 0x2000).1.getD []) 16 48) =
      (0x4000, 10, 0) ∧
    d 6 0x2000 / 2 ^ 192 % 2 = 1 ∧ d 6 0x2000 / 2 ^ 195 % 2 ^ 4 = 6 ∧ d 6 0x2000 / 2 ^ 199 % 2 ^ 6 = 0 ∧ d 6 0x2000 % 2 ^ 132 = 0 ∧
    d 5 0x2000 / 2 ^ 195 % 2 ^ 4 = 5 ∧ ok 6 0x2000 = true ∧ d 6 0x40000000 / 2 ^ 129 % 2 ^ 57 = 0x40000000 ∧ ok 6 0x40000000 = false := by
  decide +kernel

/-- O20: a block of expectations in a page that is not mapped. -/
theorem witness_teb_fault :
    let s := withTask { task1 with header := BitVec.ofNat 2048 (2 ^ 1280) } readyCtx
      (mappedSuper fun c => { c with regs := sput 1 0x40000000 false c.regs })
    (Instr.tebWrite ⟨0, 1, 0, 0, 0, 0x22⟩).wf = true ∧ s.slot = 4 ∧ taskNexp s (sysTarget s 0x022) = 1 ∧
    (unitRead (curPart s) 0x40000000 4 s).1.isSome = false := by decide +kernel

theorem foldl_keeps {α β : Type} {g : State → β} {f : State → α → State} (h : ∀ s a, g (f s a) = g s) (l : List α) (s : State) :
    g (l.foldl f s) = g s := by
  induction l generalizing s with
  | nil => rfl
  | cons a l ih => exact (ih _).trans (h s a)

theorem foldl_foldl_keeps {β : Type} {g : State → β} (rs : List Nat) (w : Nat × Nat → Nat → State → State)
    (h : ∀ t r s, g (w t r s) = g s) (l : List (Nat × Nat)) (s : State) :
    g (l.foldl (fun s t => rs.foldl (fun s r => w t r s) s) s) = g s :=
  foldl_keeps (fun s t => foldl_keeps (fun s r => h t r s) rs s) l s

/-- Core state put back is no change of memory. -/
theorem loadCoreState_keeps {β : Type} {g : State → β} (h : ∀ c f s, g (updCore c f s) = g s) (core acc : Nat) (mxu : Bool)
    (b : List Byte) (s : State) : g (loadCoreState core b acc mxu s) = g s := by
  have w (t r : Nat) (v : Row) (m : Pred) (s : State) : g (writeAcc core t r v m s) = g s := by
    rw [writeAcc, updStore, h]
  rw [loadCoreState]
  dsimp only
  generalize List.range 128 = rs
  generalize (accTiles acc).zipIdx = l
  have f := foldl_foldl_keeps (g := g) rs (fun t r => writeAcc core t.1 r (BitVec.ofNat 4096 (numAt b (65536 * t.2 + 512 * r) 512))
    (BitVec.allOnes 512)) (fun _ _ s => w _ _ _ _ s) l s
  cases mxu with
  | false =>
    rw [if_neg (by decide)]
    exact f
  | true =>
    rw [if_pos rfl, h]
    exact f

theorem vread_zero {p die fuel va n : Nat} {need : Need} {s : State} (h : n = 0) :
    ∃ r, vread p die need (fuel + 1) va n s = (some r, s) := ⟨[], by simp [vread, h]⟩

/-- The task in slot 0 declares accumulator tile 0 and the matrix array. -/
def bufferedCore : State := setTask 0 1 (some { task1 with header := BitVec.ofNat 2048 (2 ^ 104 + 2 ^ 96) }) bufferedTask

/-- O27: hload with CORE of a slot whose task declares an accumulator tile and the matrix array. -/
theorem witness_hload_core :
    let u := declaredUse bufferedCore 0
    (ctxOf bufferedCore 0).task ≠ none ∧ (ctxOf bufferedCore 0).status ≠ .ended ∧ accTiles u.1 = [0] ∧ u.2 = true ∧
    ∃ h, vread 0 0 .read 66 0 (huskSize + coreStateSize u.1 u.2) bufferedCore = (some h, bufferedCore) ∧
      ∃ ev s2, vread 0 0 .read 2 (0x9200 + 8 * 28) 24 (loadCoreState 0 (h.drop huskSize) u.1 u.2
        (updCore 0 (huskSems h (huskCtl h).sam)
          (updCtx 0 (huskCtx h ((ctxOf bufferedCore 0).task.bind (taskOf bufferedCore 0))) bufferedCore))) = (some ev, s2) := by
  intro u
  have hu : u = (1, true) := by decide +kernel
  have hn : huskSize + coreStateSize u.1 u.2 = 278592 := by rw [hu]; decide +kernel
  have hs : HasPage bufferedCore := (by decide +kernel : _ = _)
  have he : (partAt bufferedCore 0).memory.dramErr = [] := by decide +kernel
  have hr : (partAt bufferedCore 0).memory.retrain = [] := by decide +kernel
  have ha (a n : Nat) (h : absent bufferedCore 0 a n = false) : (absent bufferedCore 0 a n || notReady bufferedCore 0 a n) = false := by
    rw [h, notReady_none hr]; rfl
  refine ⟨by decide +kernel, by decide +kernel, by rw [hu]; decide +kernel, by rw [hu], ?_⟩
  rw [hn]
  obtain ⟨h, hh⟩ : ∃ h, vread 0 0 .read 66 0 278592 bufferedCore = (some h, bufferedCore) :=
    vread_page (k := 65536) (by decide) (by decide) hs (by decide) (by decide +kernel) (ha _ _ (by decide +kernel)) he
      (vread_page (k := 65536) (by decide) (by decide) hs (by decide) (by decide +kernel) (ha _ _ (by decide +kernel)) he
        (vread_page (k := 65536) (by decide) (by decide) hs (by decide) (by decide +kernel) (ha _ _ (by decide +kernel)) he
          (vread_page (k := 65536) (by decide) (by decide) hs (by decide) (by decide +kernel) (ha _ _ (by decide +kernel)) he
            (vread_page (k := 16448) (by decide) (by decide) hs (by decide) (by decide +kernel) (ha _ _ (by decide +kernel)) he
              (vread_zero (by decide))))))
  refine ⟨h, hh, ?_⟩
  clear hh
  generalize hx : loadCoreState 0 (h.drop huskSize) u.1 u.2 _ = x
  have kp : partAt x 0 = partAt bufferedCore 0 := by
    rw [← hx, loadCoreState_keeps (g := fun s => partAt s 0) (fun _ _ _ => partAt_updCore ..), partAt_updCore, partAt_updCtx]
  have kd : x.dev = bufferedCore.dev := by
    rw [← hx, loadCoreState_keeps (g := fun s => s.dev) fun _ _ _ => rfl]
    rfl
  have ax : absent x 0 (0x9200 + 8 * 28) 24 = false := by
    simp only [absent, kd]
    decide +kernel
  obtain ⟨ev, hev⟩ : ∃ ev, vread 0 0 .read 2 (0x9200 + 8 * 28) 24 x = (some ev, _) :=
    vread_page (k := 24) (by decide) (by decide) ((congrArg (fun p : Part => p.memory.tlb) kp).trans hs) (by decide)
      (by decide +kernel) (by rw [ax, notReady_none ((congrArg (fun p : Part => p.memory.retrain) kp).trans hr)]; rfl)
      ((congrArg (fun p : Part => p.memory.dramErr) kp).trans he) (vread_zero (by decide))
  exact ⟨ev, _, hev⟩

/-- O27: hsave at an address that is misaligned, beyond the virtual space, or in a page that is not mapped, of a member of a gang that is being pre-empted
and of one that is not; hload from a page that is not mapped; a stopped command of the supervisor's queue. -/
theorem witness_failed_moves :
    let x : Task := { task1 with stage := .preempting }
    let s (y : Task) : State := withTask y { readyCtx with status := .trapped none none, task := some 1 } (mappedSuper id)
    let far : Nat := 0x40000000
    let stopped : Cmd := { command .cpy 0 0 ⟨0, 0, 0, 0, 0, 0, 0, 0, 0, 0⟩ with stage := .faulted 0x1000, slot := 4 }
    let q : State := updCore 0 (fun k => { k with cq := [stopped] }) (s x)
    (∀ y ∈ [task1, x], huskReady (s y) 0 = true ∧ (ctxOf (s y) 0).task = some 1 ∧ taskOf (s y) 0 1 = some y ∧
      (∀ m ∈ y.members, m.2 < 4) ∧ (coreOf (s y) 0).st.ecc = [] ∧ (s y).slot = 4 ∧
      (vwriteAs 0 0 .write 66 far [0] (s y)).1 = false ∧ (Machine.translate 0 0 far .write (s y)).1.toOption.isSome = false) ∧
    x.stage = .preempting ∧ task1.stage ≠ .preempting ∧ 4095 % 4096 ≠ 0 ∧ 2 ^ 57 % 4096 = 0 ∧
    (vread 0 0 .read 66 far huskSize (s x)).1.isSome = false ∧ faultedCmd q 0 0 = some stopped ∧ stopped.slot = 4 ∧
    (∀ z ∈ (coreOf q 0).cq, z.id = stopped.id → z = stopped) := by decide +kernel

/-- O29: a wait that holds a trapped context, TRAPA at its bundle and at another; a TRAPA below its code. -/
theorem witness_rft_held :
    let s (ta : W64) : State := updCore 0 (fun k => { k with sup := { k.sup with trapc := 0x07, trapa := ta } })
      (withTask task1 { readyCtx with status := .trapped none (some (.sem 1 1)), pos := { Pos.reset with codeBase := 128, pc := 1 } } (mappedSuper id))
    rftBusy (s 192) = false ∧ (ctxOf (s 192) 0).status = .trapped none (some (.sem 1 1)) ∧ isHusked (ctxOf (s 192) 0) = false ∧
    (coreOf (s 192) 0).sup.trapa.toNat % 2 ^ 57 = ((ctxOf (s 192) 0).pos.codeBase + 64 * (ctxOf (s 192) 0).pos.pc) % 2 ^ 57 ∧
    (ctxOf (s 192) 0).pos.codeBase ≤ 256 ∧ (coreOf (s 256) 0).sup.trapa = 256 ∧ (256 : Nat) ≠ (128 + 64 * 1) % 2 ^ 57 := by decide +kernel


/-- Nothing is outstanding where these are empty, and the copy queue holds no timed command but an MDRC. -/
theorem not_outstanding {s : State} (h : (coreOf s s.core).mq = [] ∧ (coreOf s s.core).mrun = [] ∧
    (coreOf s (curId s / 5)).semq = [] ∧ (cur s).fly = InFlight.reset)
    (hq : ∀ q ∈ (coreOf s s.core).cq, q.h.start = 0x3FFF ∨ q.kind = .mdrc) : ¬Outstanding s := by
  obtain ⟨h1, h2, h3, h4⟩ := h
  simp only [Outstanding, h1, h2, h3, h4, InFlight.reset, List.not_mem_nil, false_and, exists_false, false_or, ne_eq,
    not_true_eq_false, or_false]
  rintro ⟨q, hm, -, ht, hk⟩
  exact (hq q hm).elim ht hk

/-- O31 and O53: nothing outstanding, or only an MDRC that has been handed off; a result in flight; a request for a tile; a
queued timed command; an SFAA whose count has not landed. -/
theorem witness_outstanding :
    let s := ending readyCtx
    let with' (f : InFlight) : State := ending { readyCtx with fly := f }
    let req : TileReq := { val := 1, reg := 0, land := 0, index := some 0 }
    let u : SemUpd := { id := 0, idx := 3, op := .fetchAdd 1 4, src := .sy, slot := 0, due := 0, rel := [], stores := [], sched := 0, seq := 0 }
    let q (x : Cmd) : State := updCore 0 (fun k => { k with cq := [x] }) s
    let drain : Cmd := { command .mdrc 0 0 ⟨0, 0, 0, 0, 0, 0, 0, 0, 0, 0⟩ with h := ⟨0, 0, 6, 1, 4, 0, 0⟩ }
    ¬Outstanding s ∧ Outstanding (with' { InFlight.reset with flights := [resultFlight 5 1 false 9 Ctx.reset] }) ∧
    Outstanding (with' { InFlight.reset with tiles := [req] }) ∧ Outstanding (q { drain with kind := .cpy }) ∧
    ¬Outstanding (q drain) ∧ ¬Outstanding (q { drain with kind := .cpy, h := hdr }) ∧
    Outstanding (updCore 0 (fun k => { k with semq := [u] }) s) := by
  exact ⟨not_outstanding (by decide +kernel) (by decide +kernel), .inr (.inl (by decide +kernel)),
    .inr (.inr (.inr (.inr (.inl (by decide +kernel))))), .inl (.inr (.inr ⟨_, List.mem_singleton.2 rfl, by decide +kernel⟩)),
    not_outstanding (by decide +kernel) (by decide +kernel), not_outstanding (by decide +kernel) (by decide +kernel),
    .inr (.inr (.inr (.inr (.inr ⟨_, List.mem_singleton.2 rfl, by decide +kernel, .inl ⟨1, 4, rfl⟩⟩))))⟩

/-- O53, SOLO: sign-offs that have come and one that is on its way; a member whose own phase starts, of the entry it has, of
one it has not, and one that has ended. -/
theorem witness_solo :
    let c : Ctx := { readyCtx with status := .transom false, phtab := tset 0 3 1 [] }
    let off (start : Option Nat) (e : Option (BitVec 7)) : SignOff :=
      { rank := 0, succ := e, arrive := 4, arrived := start.isSome, solo := true, start := start }
    let s (o : List SignOff) (st : Status) : State :=
      { withTask { task1 with signoffs := o } { c with status := st } State.reset with ccn := 9 }
    let due (o : SignOff) : Bool := o.start.any fun w => decide (w ≤ 9)
    (off none none).arrived = false ∧ (off none none).arrive ≤ now (s [] .ready) ∧ ¬({ off none none with arrive := 10 } : SignOff).arrive ≤ 9 ∧
    taskOf (s [off (some 9) (some 3)] (.transom false)) 0 1 = some { task1 with signoffs := [off (some 9) (some 3)] } ∧
    task1.stage = .bound ∧ task1.startAt = none ∧ [off (some 10) none, off (some 9) (some 3)].find? due = some (off (some 9) (some 3)) ∧
    task1.members[0]? = some (0, 0) ∧ entryOf c 3 ≠ 0 ∧ entryOf c 4 = 0 ∧ (ctxOf (s [] .ended) 0).status = .ended ∧
    (ctxOf (s [] (.transom false)) 0).status ≠ .ended := by
  decide +kernel


/-- O17, O33 and O35: values of each kind (a finite element, a subnormal, an infinity, a NaN of either sort, a zero of
either sign), and what the tables of single elements ask of them. -/
theorem witness_elements :
    HasExponent f16 ∧ HasExponent e4m3 ∧ f16 ∈ vectorFloats ∧ magnitudeOf (decodeFlt f16 0x7BFF) = some (false, 65504) ∧
    magnitudeOf (decodeFlt f16 1) = some (false, 1 / 2 ^ 24) ∧ decodeFlt f16 0xFC00 = .inf true ∧ decodeFlt f16 0x7E00 = .nan false false ∧
    decodeFlt f16 0x7C01 = .nan false true ∧ decodeFlt e4m3 0x7F = .nan false false ∧
    magnitudeOf (decodeFlt e4m3 1) = some (false, 1 / 2 ^ 9) ∧ RankLess (decodeFlt f16 0x8000) (decodeFlt f16 0) ∧
    ¬RankLess (decodeFlt f16 0) (decodeFlt f16 0) ∧ Less (decodeFlt f16 0xFC00) (decodeFlt f16 0) ∧
    magnitudeOf (decodeFlt f16 0x3E00) = some (false, 3 / 2) ∧ RoundedTo (Rnd.rne 0) false 0 (3 / 2) 2 ∧
    numberOf (decodeVal (.int true 8) 0x80) = some ((-128 : Int) : Rat) ∧ integerOf (.int true 8) = some (true, 8) ∧
    integerOf .scale = none ∧ magnitudeOf (sourceVal 0 (.flt f16) 0xBC00) = some (true, 1) ∧
    numberOf (decodeFlt f16 0x3C00) = some ((1 : Int) : Rat) ∧ magnitudeOf (decodeFlt f16 0x4000) = some (false, (2 : Rat) ^ (1 : Int)) := by
  have notZero : ¬RankLess (decodeFlt f16 0) (decodeFlt f16 0) := by
    have z : decodeFlt f16 0 = .num false 0 (-24) false := by decide +kernel
    rw [z]
    rintro (⟨x, y, hx, hy, h⟩ | ⟨h, -⟩)
    · rw [hx, Option.some.injEq] at hy
      exact absurd h (by rw [hy]; exact lt_irrefl y)
    · exact absurd h (by decide +kernel)
  refine ⟨⟨by decide, by decide, by decide⟩, ⟨by decide, by decide, by decide⟩, by decide, by decide +kernel, by decide +kernel,
    by decide +kernel, by decide +kernel, by decide +kernel, by decide +kernel, by decide +kernel, .inr ⟨by decide +kernel, by decide +kernel⟩,
    notZero, ?_, by decide +kernel, ⟨1, 1 / 2, ?_⟩, by decide +kernel, rfl, rfl, by decide +kernel, by decide +kernel, by decide +kernel⟩
  · have z : decodeFlt f16 0 = .num false 0 (-24) false := by decide +kernel
    have n : decodeFlt f16 0xFC00 = .inf true := by decide +kernel
    rw [z, n]
    rfl
  · simp only [GoesUp, Rnd.rne]
    decide +kernel

/-- O35: a reduction of no element and of two; elements that hold a number and none; a value that fits its bins and one that
does not, a NaN; triples of each kind; a block with a largest magnitude, one of zeros and one with a NaN. -/
theorem witness_blocks :
    (([none, none] : List (Option Nat)).filterMap id = []) ∧ (([none, some 3, some 4] : List (Option Nat)).filterMap id = [3, 4]) ∧
    (∀ x ∈ ([some 255] : List (Option Nat)).filterMap id, x < 2 ^ 8) ∧
    [0x3F800000].map (decodeFlt f32) = [decodeFlt f32 0x3F800000] ∧
    ramPick (.flt f16) true [(0x7E00, 0)] = none ∧ ramPick (.flt f16) true [(0x7E00, 0), (0x3C00, 1), (0x3C00, 2)] = some (0x3C00, 1) ∧
    magnitudeOf (decodeFlt f32 0x3F800000) = some (false, 1) ∧ (1 : Rat) < 2 ^ ((0 : Int) + 1) ∧ (2 : Rat) ^ ((-1 : Int) + 1) ≤ 1 ∧
    (decodeFlt f32 0x7FC00000).isNan = true ∧ ({ b0 := 0, b1 := 0, b2 := 1, stat := 0 } : Triple).stat = 0 ∧
    ({ b0 := 0, b1 := 0, b2 := 0, stat := 2 } : Triple).stat ≠ 0 ∧ LargestExponent (.int true 8) 6 ∧ LargestExponent (.flt e2m1) 2 ∧
    HasExponent e2m1 ∧ (∀ v ∈ [0, 0x80000000].map (decodeFlt f32), (magnitudeOf v).map (·.2) = some 0) ∧
    (∀ v ∈ [0x3F800000, 0].map (decodeFlt f32), (magnitudeOf v).any (fun p => decide (p.2 ≤ 1)) = true) ∧
    (2 : Rat) ^ (0 : Int) ≤ 1 := by
  have top : ∀ c < 16, ∀ p ∈ magnitudeOf (decodeFlt e2m1 c), p.2 ≤ 6 := by decide +kernel
  refine ⟨by decide, by decide, by decide, rfl, by decide +kernel, by decide +kernel, by decide +kernel, by decide +kernel, by decide +kernel,
    by decide +kernel, rfl, by decide, by rw [LargestExponent]; decide, ⟨6, ⟨⟨7, false, by decide +kernel⟩, fun c n b hc h => top c hc (n, b) h⟩, ?_⟩, ⟨by decide, by decide, by decide⟩,
    by decide +kernel, by decide +kernel, by decide +kernel⟩
  decide +kernel

/-- O48: the pages and packets that R191 lets through: a load where R is set, an add where R, W and A are; and those it
stops, with each bit clear in turn. -/
theorem witness_permits :
    let c := loading 0
    let a := adding 0
    let leaf (low : Nat) : Leaf := ⟨BitVec.ofNat 128 (low + (ownFa Dev.reset + 65568) % 65568 * 2 ^ 32), 2, 0⟩
    let s := packeting c id
    Permits s 0 c 0 0 (leaf 0x1F) ∧ ¬Permits s 0 c 0 0 (leaf 0x1B) ∧ ¬Permits s 0 a 0 0 (leaf 0x17) ∧ ¬Permits s 0 a 0 0 (leaf 0x1F) ∧
    ¬Permits s 0 a 0 0 (leaf 0x3B) ∧ ((walk (mappedSuper id) 0 65536).isSome = true) := by
  refine ⟨⟨fun _ => by decide +kernel, fun h => absurd h (by decide +kernel), fun h => absurd h (by decide +kernel),
    fun h => absurd h (by decide +kernel), fun h => absurd h (by decide +kernel), fun h => absurd h (by decide +kernel),
    fun h => absurd h.2.1 (by decide +kernel), fun h _ => absurd h (by decide +kernel)⟩,
    fun h => absurd (h.1 (by decide +kernel)) (by decide +kernel), fun h => absurd (h.2.2.1 (by decide +kernel)).1 (by decide +kernel),
    fun h => absurd (h.2.2.1 (by decide +kernel)).2 (by decide +kernel),
    fun h => absurd (h.2.2.2.1 (by decide +kernel) (.inl rfl)) (by decide +kernel), by decide +kernel⟩

/-- O51: an SFAA that runs past 0xFFFF, in a context with none of its own in flight. -/
theorem witness_sfaa_past :
    let u : SemUpd := { id := 3, idx := 6, op := .fetchAdd 8 5, src := .sy, slot := 0, due := 0, rel := [], stores := [], sched := 0, seq := 0 }
    let s : State := updCore 0 (fun k => { k with semq := [u], sems := tset 0 6 0xFFF8 [] }) (withCtx readyCtx)
    dueUpdate s 0 = some u ∧ 0xFFFF < (tget 0 6 (coreOf s 0).sems).toNat + 8 ∧ u.slot ≠ 4 ∧ (ctxOf s 0).status = .ready ∧
    (ctxOf s 0).boundary = [] ∧ (5 : Nat) < 64 ∧ ∀ f ∈ (ctxOf s 0).fly.flights, f.seq ≠ u.seq := by decide +kernel


/-- O55: a dependence word on a page that is mapped and takes atomics; accepted records that wait for it, one and two; a task that has
completed of itself and under a CANCEL. -/
theorem witness_dependences :
    let s (l : List (Nat × Option Task)) : State := launching taskRecord 0 fun x => { x with tasks := l }
    let waits := gangTask 1 .accepted [] 2
    let a := (partAt (s []) 0).launch.depBase + 4 * 5
    let at_ := Machine.translate 0 ((partDies (s []).dev 0).headD 0) (a % 2 ^ 57) .atomic (s [])
    let done := setCtx 0 { readyCtx with status := .ended } (s [(1, some (gangTask 1 .bound [(0, 0)] 1))])
    at_.1.toOption.map (fun w => (w.dest, w.pa)) = some (.local 0, 0x4014) ∧ 0 < (s []).dev.parts ∧
    0x4014 + 4 ≤ usableBytes (s []).dev 0 ∧ (partAt at_.2 0).memory.acc = [] ∧ (partAt at_.2 0).memory.retrain = [] ∧
    (partAt at_.2 0).memory.dramErr = [] ∧ taskOf (s [(1, some waits)]) 0 1 = some waits ∧ fld waits.record 167 24 = 5 ∧
    (∀ e ∈ (partAt (s [(1, some waits)]) 0).launch.tasks, e.1 = 1) ∧ taskOf done 0 1 = some (gangTask 1 .bound [(0, 0)] 1) ∧
    completable done (gangTask 1 .bound [(0, 0)] 1) = true ∧ (gangTask 1 .bound [(0, 0)] 1).cancelling = false ∧
    (gangTask 1 .bound [(0, 0)] 1).status = 0 ∧ (partAt (s []) 0).launch.tasks = [] := by decide +kernel

/-- O55: a completion word that is written, one in a page that is not mapped, one not asked for; a vector. -/
theorem witness_reports :
    let s := launching 0 0 id
    let r (done vec : Nat) : BitVec 512 := BitVec.ofNat 512 (taskRecord + done * 2 ^ 98 + vec * 2 ^ 155)
    (unitWrite 0 (fld (r 0x7000 1) 98 57) (leBytes 8 5) s).1 = true ∧
    (unitWrite 0 (fld (r 0x40000000 0) 98 57) (leBytes 8 5) s).1 = false ∧ fld (r 0 0) 98 57 = 0 ∧ fld (r 0 1) 155 1 = 1 ∧
    (∃ t, Reports 0 0 (r 0 0) s t) :=
  ⟨by decide +kernel, by decide +kernel, by decide +kernel, by decide +kernel, _, _, fun _ => rfl,
    fun h => absurd (by decide +kernel) h, (if_neg (by decide +kernel)).symm⟩

/-- O56: a doorbell whose head stands in memory, in a page that is not mapped, in one of another mode, and where its read
fails; a value at the head plus the capacity, one beyond, and one that does not rise. -/
theorem witness_head_doorbells :
    let w (v : W64) : DbWrite := { part := 0, k := 3, fromPort := true, trusted := false, whole := true, value := v }
    let s (dbh : W64) (f : MemSys → MemSys) : State :=
      let s := updMem 0 f (launching 0 0 id)
      updHost 0 (fun h => { h with bells := [(3, ⟨6, 0xD600097000000000#64, dbh, 0⟩)] })
        { s with mem := memWrite s.mem 0x2000 (leBytes 8 5) }
    let found (dbh : W64) := Machine.translate 0 ((partDies (s dbh id).dev 0).headD 0) dbh.toNat .read (s dbh id)
    let near := updCore 0 (fun k => k) (setCtx 0 readyCtx (s 0x2000 id))
    let b := bellOf near 0 3
    let head (f : MemSys → MemSys) := (readFrom 0 (.local 0) 0x2000 8 (s 0x2000 f)).1.toOption.map leNat
    (w 69).whole = true ∧ fld b.dbc 63 1 = 1 ∧ fld b.dbc 60 2 = 1 ∧ fld b.dbc 56 4 = 6 ∧ (found 0x40000000).1.toOption.isSome = false ∧
    (found 0x2000).1.toOption.map (fun x => (x.dest, x.pa, fld x.pte 6 2)) = some (.local 0, 0x2000, 0) ∧ head id = some 5 ∧
    head (fun m => { m with dramErr := [(0x20, 2)] }) = none ∧ b.dbv.toNat < (w 69).value.toNat ∧ ((w 69).value - 5).toNat ≤ 2 ^ 6 ∧
    ¬(((w 70).value - 5).toNat ≤ 2 ^ 6) ∧ ¬(b.dbv.toNat < (w 6).value.toNat) ∧ fld b.dbc 62 1 = 1 ∧ fld b.dbc 36 4 ≠ 0 ∧ fld b.dbc 40 8 ≠ 0 ∧
    physCore near.dev 0 (fld b.dbc 28 8) = some 0 ∧ semBound near 0 (fld b.dbc 40 8) = true ∧ (partAt near 0).host.tdi ≠ .run ∧
    (partAt (updHost 0 (fun h => { h with tdi := .run }) near) 0).host.tdi = .run := by decide +kernel

/-- O57: lists of frames that are whole and inside memory and not, memory with no error and with one, and a partition under
a retrain. -/
theorem witness_pool :
    let s (frame : Nat) (f : MemSys → MemSys) : State := commanding 0x12 [(0, 0x1000), (1, 1), (2, 1)] fun s =>
      let s := updMem 0 f s
      { s with mem := memWrite s.mem 0x1000 (leBytes 8 frame) }
    let bad : MemSys → MemSys := fun m => { m with dramErr := [(16, 2)] }
    let good (frame : Nat) : Bool := (listedFrames (s frame id) 0).all fun f => f % codeSize 1 == 0 && within (s frame id) 0 f (codeSize 1)
    taken .expool (s 0x200000 id) = some (true, true, true, false) ∧ good 0x200000 = true ∧ good 0x10000 = false ∧
    good (usableBytes State.reset.dev 0) = false ∧ dramBad (s 0 bad) 0 0x1000 8 = true ∧
    (∀ e ∈ (partAt (s 0 fun m => { m with dramErr := [(17, 2)] }) 0).memory.dramErr, ¬(0x1000 / 256 ≤ e.1 ∧ e.1 ≤ (0x1000 + 8 - 1) / 256)) ∧
    (∀ e ∈ (partAt State.reset 0).memory.dramErr, ¬(0 ≤ e.1)) ∧
    (partAt (s 0 fun m => { m with retrain := [3] }) 0).memory.retrain ≠ [] ∧ mbTgt (s 0 id) = 0 ∧ (s 0 id).dev.fwUp = true ∧
    dramBad (commanding 0x13 [(2, 0x10000)] (updMem 0 bad)) 0 0 (codeSize 0) = true := by decide +kernel

/-- O58: flits that wait behind the one that comes; a queue that has room and one that has not; an answer whose line fills; a
group that is asked for again, of a port with flits and of one with frames; an answer that has room and one that waits. -/
theorem witness_port_queues :
    let runs := portOf (porting 40 fun x => { x with reseq := [(6, 1), (7, 2), (9, 3)], recvSeq := 5 }) 40
    let o : Out := .reply 1 []
    let q (n : Nat) := portOf (porting 3 fun x => { x with queue := [(1, o)], retry := List.replicate n (5, 0, 0) }) 3
    let h : Held := .request { request (.write [1]) true with port := 3 }
    let groups := portOf (porting 3 fun x => { x with held := [(h, 6)], recvSeq := 9, delivered := [1, 2, 3, 4, 5] }) 3
    let full (n : Nat) := portOf (porting 40 fun x => { x with retry := List.replicate n (5, 0, 0) }) 40
    (runs.reseq = (([1, 2] : List W64).zipIdx.map fun e => ((5 + 1 + e.2) % 2 ^ 16, e.1)) ++ [(9, 3)]) ∧
    (∀ f ∈ ([(9, 3)] : List (Nat × W64)), ∀ j, j ≤ 2 → f.1 ≠ (5 + 1 + j) % 2 ^ 16) ∧ (q 511).queue = [(1, o)] ∧
    ((q 511).retry.filter fun f => !decide (f.1 = 4)).length + 1 = 512 ∧ ((q 512).retry.filter fun f => !decide (f.1 = 4)).length + 1 = 513 ∧
    groups.held = [(h, 6)] ∧ (full 4095).retry.length + 1 = 4096 ∧ (full 4096).retry.length + 1 = 4097 ∧ (full 4096).queue = [] ∧
    (portOf (porting 3 fun x => { x with retraining := true }) 3).queue = [] := by decide +kernel

/-- O58: an answer held for its tag whose packet fills a line of the peer copy. -/
theorem witness_held_answer :
    let x : Pkt := { packet 0 with id := 9, port := some 40, bad := 0 }
    let s := updCore 0 (fun k => { k with pkts := [x] }) (porting 40 fun y => { y with held := [(.answer 0 9, 0)] })
    pktOf s 0 9 = some x ∧ x.port = some 40 ∧ x.bad = 0 ∧ (portOf s 40).held = [(.answer 0 9, 0)] := by decide +kernel

/-- O49: a read of a granule that holds an error and whose line is filled. -/
def filledLine : State :=
  updMem 0 (fun m => { m with
    dramErr := [(1, 2)], lines := [{ ctrl := homeCtrl State.reset 0 1, granule := 1, core := 0, filled := true, used := false }] })
    (holdingPacket (packet 0) (loading 0))

theorem witness_filled_line :
    (packet 0).acc = 0 ∧ (packet 0).pa / 256 = 1 ∧ ((partAt filledLine 0).memory.lines.find? fun y =>
      y.ctrl == homeCtrl filledLine 0 1 && y.granule == 1).any (·.filled) = true ∧
    tget 0 1 (partAt filledLine 0).memory.dramErr ≠ 0 := by
  have l : (partAt filledLine 0).memory.lines =
      [{ ctrl := homeCtrl State.reset 0 1, granule := 1, core := 0, filled := true, used := false }] := rfl
  have e : homeCtrl filledLine 0 1 = homeCtrl State.reset 0 1 := rfl
  refine ⟨rfl, by decide, ?_, by decide +kernel⟩
  rw [l, e]
  simp [List.find?]

end Sys2Proof.Tests
end

/-! SUPPORT. Encode of decode (R120 to R138): the fields of a syllable, put together behind its opcode, are the
syllable. -/

namespace Sys2Proof

/-- A word that fits in its low bits is those bits. -/
theorem setWidth_extractLsb'_zero {n k : Nat} (w : BitVec n) (h : w.toNat < 2 ^ k) :
    (w.extractLsb' 0 k).setWidth n = w := by
  apply BitVec.eq_of_toNat_eq
  rw [BitVec.toNat_setWidth, BitVec.extractLsb'_toNat, Nat.shiftRight_zero, Nat.mod_eq_of_lt h, Nat.mod_eq_of_lt w.isLt]

section
variable {w : BitVec 96}

/-- An opcode is the field it was read from. -/
theorem opcode_eq_field {k lo : Nat} {op : BitVec k} (h : (w.extractLsb' lo k).toNat = op.toNat) :
    op = w.extractLsb' lo k := (BitVec.eq_of_toNat_eq h).symm

theorem encS_decS {op : BitVec 8} (hw : w.toNat < 2 ^ 64) (h : opField .s w = op.toNat) : encS op (decS w) = w := by
  rw [opcode_eq_field h]
  simp only [encS, decS, BitVec.extractLsb'_append_extractLsb'_eq_extractLsb']
  exact setWidth_extractLsb'_zero w hw

theorem encV_decV {op : BitVec 8} (cl : Cluster) (hw : w.toNat < 2 ^ 64) (h : opField cl.slot w = op.toNat) :
    encV op (decV w) = w := by
  have hop : op = w.extractLsb' 56 8 := by cases cl <;> exact opcode_eq_field h
  rw [hop]
  simp only [encV, decV, BitVec.extractLsb'_append_extractLsb'_eq_extractLsb']
  exact setWidth_extractLsb'_zero w hw

theorem encL_decL {op : BitVec 6} (hw : w.toNat < 2 ^ 40) (h : (w.extractLsb' 34 6).toNat = op.toNat) :
    encL op (decL w) = w := by
  rw [opcode_eq_field h]
  simp only [encL, decL, BitVec.extractLsb'_append_extractLsb'_eq_extractLsb']
  exact setWidth_extractLsb'_zero w hw

theorem encM_decM {op : BitVec 8} (h : opField .m w = op.toNat) : encM op (decH w) (decMOp w) = w := by
  rw [opcode_eq_field h]
  simp only [encM, decH, decMOp, BitVec.extractLsb'_append_extractLsb'_eq_extractLsb']
  exact BitVec.extractLsb'_eq_self

theorem encC_decC {op : BitVec 8} (h : opField .cp w = op.toNat) : encC op (decH w) (decCOp w) = w := by
  rw [opcode_eq_field h]
  simp only [encC, decH, decCOp, BitVec.extractLsb'_append_extractLsb'_eq_extractLsb']
  exact BitVec.extractLsb'_eq_self

theorem encY_decY {op : BitVec 6} (hw : w.toNat < 2 ^ 48) (h : opField .sy w = op.toNat) : encY op (decY w) = w := by
  rw [opcode_eq_field h]
  simp only [encY, decY, BitVec.extractLsb'_append_extractLsb'_eq_extractLsb']
  exact setWidth_extractLsb'_zero w hw

theorem encodeSyl_unlisted (sl : Slot) (hint : Bool) (w : BitVec 96) :
    encodeSyl (unlisted sl hint w) = some (sl, w) := by
  cases hint <;> rfl

/-- MOV and its tl form share an opcode (R321). -/
theorem encodeSyl_movs (b : Bool) (f : SSyl) :
    encodeSyl (if b = true then .movTl f else .mov f) = some (.s, encS 0x1d f) := by
  cases b <;> rfl

/-- The writes of every system register share an opcode (R140, R343). -/
theorem encodeSyl_decSysw (f : SSyl) : encodeSyl (decSysw f) = some (.s, encS 0x39 f) := by
  unfold decSysw
  split <;> rfl

/-- TRAP and the supervisor functions share an opcode (R255, R345). -/
theorem encodeSyl_decTrap (f : SSyl) : encodeSyl (decTrap f) = some (.s, encS 0x3c f) := by
  unfold decTrap
  split <;> rfl

/-- An instruction whose encoding puts an opcode before the fields of a word encodes to the word, when the opcode is
the word's own. -/
theorem encodeSyl_of_eq {i : Instr} {sl : Slot} {v : BitVec 96} (h : encodeSyl i = some (sl, v)) (hv : v = w) :
    encodeSyl i = some (sl, w) := hv ▸ h

-- Each `decode` below splits into the rows of its slot's table: the NOP first, the unlisted opcodes last, and in the S
-- slot the opcodes that several instructions share: MOV (h_30), SYSW (h_48) and TRAP (h_50).

theorem encodeSyl_decodeS (hw : w.toNat < 2 ^ 64) : encodeSyl (decodeS w) = some (.s, w) := by
  unfold decodeS
  split
  case h_1 => rfl
  case h_30 => exact encodeSyl_of_eq (encodeSyl_movs _ _) (encS_decS hw ‹_›)
  case h_48 => exact encodeSyl_of_eq (encodeSyl_decSysw _) (encS_decS hw ‹_›)
  case h_50 => exact encodeSyl_of_eq (encodeSyl_decTrap _) (encS_decS hw ‹_›)
  case h_53 => exact encodeSyl_unlisted ..
  all_goals exact encodeSyl_of_eq rfl (encS_decS hw ‹_›)

theorem encodeSyl_decodeV (cl : Cluster) (hw : w.toNat < 2 ^ 64) :
    encodeSyl (decodeV cl.slot cl w) = some (cl.slot, w) := by
  unfold decodeV
  split
  case h_1 => rfl
  case h_63 => exact encodeSyl_unlisted ..
  all_goals exact encodeSyl_of_eq rfl (encV_decV cl hw ‹_›)

theorem encodeSyl_decodeLd (hw : w.toNat < 2 ^ 40) : encodeSyl (decodeLd w) = some (.ld, w) := by
  unfold decodeLd
  split
  case h_1 => rfl
  case h_8 => exact encodeSyl_unlisted ..
  all_goals exact encodeSyl_of_eq rfl (encL_decL hw ‹_›)

theorem encodeSyl_decodeSd (hw : w.toNat < 2 ^ 40) : encodeSyl (decodeSd w) = some (.sd, w) := by
  unfold decodeSd
  split
  case h_1 => rfl
  case h_7 => exact encodeSyl_unlisted ..
  all_goals exact encodeSyl_of_eq rfl (encL_decL hw ‹_›)

theorem encodeSyl_decodeM (w : BitVec 96) : encodeSyl (decodeM w) = some (.m, w) := by
  unfold decodeM
  split
  case h_1 => rfl
  case h_9 => exact encodeSyl_unlisted ..
  all_goals exact encodeSyl_of_eq rfl (encM_decM ‹_›)

theorem encodeSyl_decodeC (w : BitVec 96) : encodeSyl (decodeC w) = some (.cp, w) := by
  unfold decodeC
  split
  case h_1 => rfl
  case h_17 => exact encodeSyl_unlisted ..
  all_goals exact encodeSyl_of_eq rfl (encC_decC ‹_›)

theorem encodeSyl_decodeY (hw : w.toNat < 2 ^ 48) : encodeSyl (decodeY w) = some (.sy, w) := by
  unfold decodeY
  split
  case h_1 => rfl
  case h_17 => exact encodeSyl_unlisted ..
  all_goals exact encodeSyl_of_eq rfl (encY_decY hw ‹_›)

end

/-- Settles O3, slot by slot: the opcode picks a row of the slot's table, and that row's encoding puts the same opcode
before the fields it was given; an unlisted opcode keeps the word as it stands. -/
theorem decodedSyllablesEncodeToTheirBits : Obligations.DecodedSyllablesEncodeToTheirBits := by
  intro sl w hw
  cases sl with
  | s => exact encodeSyl_decodeS hw
  | va => exact encodeSyl_decodeV .a hw
  | vb => exact encodeSyl_decodeV .b hw
  | ld => exact encodeSyl_decodeLd hw
  | sd => exact encodeSyl_decodeSd hw
  | m => exact encodeSyl_decodeM w
  | cp => exact encodeSyl_decodeC w
  | sy => exact encodeSyl_decodeY hw

end Sys2Proof

/-! SUPPORT. Fields of words as whole numbers: the machine's `bits`, `nzBits` and single bits are `fld` (R2). -/

namespace Sys2Proof.Safety

open Sys2Proof Sys2Proof.Machine

theorem bits_eq_fld {n : Nat} (x : BitVec n) (h l : Nat) : bits x h l = fld x l (h + 1 - l) := by
  rw [bits, fld, BitVec.extractLsb'_toNat, Nat.shiftRight_eq_div_pow]

theorem nzBits_eq_fld {n : Nat} (x : BitVec n) (h l : Nat) : nzBits x h l = (fld x l (h + 1 - l) != 0) := by
  rw [nzBits, bits_eq_fld]

theorem getLsbD_eq_fld {n : Nat} (x : BitVec n) (k : Nat) : x.getLsbD k = (fld x k 1 == 1) := by
  rw [BitVec.getLsbD, Nat.testBit_eq_decide_div_mod_eq, fld, pow_one]
  rfl

theorem fld_lt {n : Nat} (x : BitVec n) (lo len : Nat) : fld x lo len < 2 ^ len := Nat.mod_lt _ (by positivity)

theorem extractLsb'_eq_ofNat_fld {n : Nat} (x : BitVec n) (lo len : Nat) :
    x.extractLsb' lo len = BitVec.ofNat len (fld x lo len) := by
  apply BitVec.eq_of_toNat_eq
  rw [BitVec.extractLsb'_toNat, BitVec.toNat_ofNat, fld, Nat.shiftRight_eq_div_pow, Nat.mod_mod]

/-- A field of a field is a field of the word. -/
theorem fld_extractLsb' {n : Nat} (x : BitVec n) {s k lo len : Nat} (h : lo + len ≤ k) :
    fld (x.extractLsb' s k) lo len = fld x (s + lo) len := by
  apply Nat.eq_of_testBit_eq
  intro i
  simp only [fld, BitVec.extractLsb'_toNat, Nat.testBit_mod_two_pow, Nat.testBit_div_two_pow, Nat.testBit_shiftRight]
  by_cases hi : i < len
  · simp [hi, show i + lo < k by omega, show s + (i + lo) = i + (s + lo) by omega]
  · simp [hi]

/-- A field is zero just when its two parts are. -/
theorem fld_add_beq_zero {n : Nat} (x : BitVec n) (lo a b : Nat) :
    (fld x lo (a + b) == 0) = (fld x lo a == 0 && fld x (lo + a) b == 0) := by
  rw [Bool.eq_iff_iff]
  simp [fld, pow_add, Nat.mod_mul, Nat.div_div_eq_div_mul]

theorem not_fld_beq_one {n : Nat} (x : BitVec n) (k : Nat) : (!(fld x k 1 == 1)) = (fld x k 1 == 0) := by
  have := fld_lt x k 1
  rw [Bool.eq_iff_iff]
  simp
  omega

theorem extractLsb'_beq_zero {n : Nat} (x : BitVec n) (lo len : Nat) :
    (x.extractLsb' lo len == 0) = (fld x lo len == 0) := by
  rw [Bool.eq_iff_iff, beq_iff_eq, beq_iff_eq, ← BitVec.toNat_inj, BitVec.extractLsb'_toNat, fld,
    Nat.shiftRight_eq_div_pow]
  rfl

end Sys2Proof.Safety

/-! SUPPORT. The first cause of a list of raises in the order of R250. -/

namespace Sys2Proof.Machine

theorem firstRaise_mem {l : List Raise} {q : Raise} (h : firstRaise l = some q) : q ∈ l := by
  induction l generalizing q with
  | nil => simp at h
  | cons r rs ih =>
    simp only [firstRaise] at h
    split at h
    · simp_all
    · next p hp =>
      split at h <;> obtain rfl := Option.some.inj h
      · exact List.mem_cons_self
      · exact List.mem_cons_of_mem _ (ih hp)

theorem firstRaise_least {l : List Raise} {q : Raise} (h : firstRaise l = some q) :
    ∀ r ∈ l, issueRank q.cause ≤ issueRank r.cause := by
  induction l generalizing q with
  | nil => simp
  | cons r rs ih =>
    simp only [firstRaise] at h
    split at h
    · next hn =>
      obtain rfl := Option.some.inj h
      simp [(firstRaise_eq_none rs).mp hn]
    · next p hp =>
      have hle := ih hp
      split at h <;> obtain rfl := Option.some.inj h
      · next hr => exact List.forall_mem_cons.mpr ⟨le_rfl, fun x hx => hr.trans (hle x hx)⟩
      · next hr => exact List.forall_mem_cons.mpr ⟨by omega, hle⟩

/-- A raise is first when every raise of no higher rank is that raise. -/
theorem firstRaise_eq_some {l : List Raise} {r : Raise} (hr : r ∈ l)
    (h : ∀ q ∈ l, issueRank q.cause ≤ issueRank r.cause → q = r) : firstRaise l = some r := by
  cases hq : firstRaise l with
  | none => simp [(firstRaise_eq_none l).mp hq] at hr
  | some q => rw [h q (firstRaise_mem hq) (firstRaise_least hq r hr)]

theorem mem_chk {r : Raise} {b : Bool} {k : Nat} : r ∈ chk b k ↔ b = true ∧ r = ⟨k, 0, 0⟩ := by
  cases b <;> simp

/-- A PEND or TEND that does not take the schedule fault takes its trap in the state as it stands (R40). -/
theorem endingStep_raise {sl : Slot} {l : List Raise} {eff : State → State} {s : State} {r : Raise}
    (h : firstRaise l = some r) (h5 : r.cause ≠ 0x05) :
    endingStep sl l eff s = .next (takeTrap (curId s) (issueEvent s sl.num r) s) := by
  have ha : (firstRaise l).any (·.cause == 0x05) = false := by simp [h, h5]
  rw [endingStep, ha]
  exact syllableStep_raise h

end Sys2Proof.Machine

/-! SUPPORT. What a syllable raises beside its own bits: the illegal-instruction cause exactly where the state makes it
illegal, and otherwise causes behind the reserved fields' in R250. -/

namespace Sys2Proof.Safety

open Sys2Proof Sys2Proof.Machine

/-- The checks `l` raise the illegal cause just when `b` holds, and otherwise at most the reserved-field cause and
causes of later rank (R250). -/
structure IllegalWhen (b : Bool) (l : List Raise) : Prop where
  illegal : plain 0x01 ∈ l ↔ b = true
  early : ∀ r ∈ l, issueRank r.cause ≤ issueRank 0x02 → r = plain 0x01 ∨ r = plain 0x02

namespace IllegalWhen

variable {a b : Bool} {k : Nat} {l m : List Raise}

theorem congr (h : IllegalWhen a l) (e : b = a) : IllegalWhen b l := e ▸ h

/-- Checks whose causes all come behind the encoding's never make a syllable illegal. -/
theorem of_late (h : ∀ r ∈ l, issueRank 0x02 < issueRank r.cause) : IllegalWhen false l where
  illegal := iff_of_false (fun hm => absurd (h _ hm) (by decide)) (by decide)
  early r hr hle := absurd (h r hr) (by omega)

theorem nil : IllegalWhen false [] := of_late (by simp)

theorem chk_late (h : issueRank 0x02 < issueRank k := by decide) : IllegalWhen false (chk b k) :=
  of_late fun r hr => by rw [(mem_chk.mp hr).2]; exact h

theorem chk_illegal : IllegalWhen b (chk b 0x01) where
  illegal := by simp [mem_chk, plain]
  early _ hr _ := .inl (mem_chk.mp hr).2

theorem chk_reserved : IllegalWhen false (chk b 0x02) where
  illegal := by simp [mem_chk, plain]
  early _ hr _ := .inr (mem_chk.mp hr).2

theorem append (hl : IllegalWhen a l) (hm : IllegalWhen b m) : IllegalWhen (a || b) (l ++ m) where
  illegal := by rw [List.mem_append, hl.illegal, hm.illegal, Bool.or_eq_true]
  early r hr hle := (List.mem_append.mp hr).elim (hl.early r · hle) (hm.early r · hle)

theorem ite (c : Bool) (h : IllegalWhen a l) : IllegalWhen (c && a) (if c = true then l else []) := by
  cases c
  · exact nil
  · exact h

/-- Appending checks that are never illegal changes nothing. -/
theorem late_right (hl : IllegalWhen a l) (hm : IllegalWhen false m) : IllegalWhen a (l ++ m) :=
  (hl.append hm).congr (Bool.or_false a).symm

theorem late_left (hl : IllegalWhen false l) (hm : IllegalWhen a m) : IllegalWhen a (l ++ m) := hl.append hm

theorem one_late {d v : Nat} (h : issueRank 0x02 < issueRank k := by decide) : IllegalWhen false [⟨k, d, v⟩] :=
  of_late fun r hr => by rw [List.mem_singleton.mp hr]; exact h

theorem chkVal_late {v : Nat} (h : issueRank 0x02 < issueRank k := by decide) : IllegalWhen false (chkVal b k v) := by
  cases b
  · exact nil
  · exact one_late h

theorem reasonRaise_late (c : Ctx) (idx : Nat) : IllegalWhen false (reasonRaise c idx) := by
  simp only [reasonRaise]
  split
  · exact nil
  · refine one_late ?_
    unfold reasonCause
    split <;> decide

theorem handleRaises_late (f : YSyl) (s : State) : IllegalWhen false (handleRaises f s) :=
  late_left chk_late chk_late

end IllegalWhen

/-- A syllable's raises: those of its encoding `e`, then checks that raise the illegal cause just when `b` holds. -/
def BitsThen (e : Enc) (b : Bool) (l : List Raise) : Prop := ∃ m, IllegalWhen b m ∧ l = encRaises e ++ m

namespace BitsThen

variable {e : Enc} {a b : Bool} {l m : List Raise}

theorem bits (e : Enc) : BitsThen e false (encRaises e) := ⟨[], .nil, (List.append_nil _).symm⟩

theorem append (hl : BitsThen e a l) (hm : IllegalWhen b m) : BitsThen e (a || b) (l ++ m) := by
  obtain ⟨n, hn, rfl⟩ := hl
  exact ⟨n ++ m, hn.append hm, List.append_assoc ..⟩

theorem congr (h : BitsThen e a l) (hb : b = a) : BitsThen e b l := hb ▸ h

theorem late (hl : BitsThen e a l) (hm : IllegalWhen false m) : BitsThen e a (l ++ m) :=
  (hl.append hm).congr (Bool.or_false a).symm

/-- An illegal encoding is the first cause whatever else a syllable raises (R250). -/
theorem first_illegal (h : BitsThen e b l) (he : e.illegal = true) : firstRaise l = some (plain 0x01) := by
  obtain ⟨m, hm, rfl⟩ := h
  refine firstRaise_eq_some (by simp [encRaises, he, plain]) fun r hr hle => ?_
  have h2 : r ≠ plain 0x02 := fun h2 => absurd (h2 ▸ hle) (by decide)
  simp only [encRaises, List.mem_append, mem_chk] at hr
  obtain (⟨-, rfl⟩ | ⟨-, rfl⟩) | hr := hr
  · rfl
  · exact absurd rfl h2
  · exact (hm.early r hr (hle.trans (by decide))).resolve_right h2

/-- A reserved field that is not zero is the first cause unless the state makes the syllable illegal (R250). -/
theorem first_reserved (h : BitsThen e b l) (he : e.illegal = false) (hr : e.reserved = true) :
    firstRaise l = some (plain (if b = true then 0x01 else 0x02)) := by
  obtain ⟨m, hm, rfl⟩ := h
  have early : ∀ r ∈ encRaises e ++ m, issueRank r.cause ≤ issueRank 0x02 →
      r = plain 0x02 ∨ (b = true ∧ r = plain 0x01) := by
    intro r h hle
    simp only [encRaises, he, hr, chk_false, chk_true, List.nil_append, List.mem_append, List.mem_singleton] at h
    obtain rfl | h := h
    · exact .inl rfl
    · obtain rfl | h2 := hm.early r h hle
      · exact .inr ⟨hm.illegal.mp h, rfl⟩
      · exact .inl h2
  cases b with
  | true =>
    refine firstRaise_eq_some (List.mem_append_right _ (hm.illegal.mpr rfl)) fun r h hle => ?_
    obtain rfl | ⟨-, rfl⟩ := early r h (hle.trans (by decide))
    · exact absurd hle (by decide)
    · rfl
  | false =>
    refine firstRaise_eq_some (by simp [encRaises, hr, plain]) fun r h hle => ?_
    obtain rfl | ⟨h', -⟩ := early r h hle
    · rfl
    · cases h'

/-- The raises of an S syllable (R123): `a` of the checks made always, `b` of those made when it executes. -/
theorem scalar (e : Enc) (f : SSyl) {always checks : State → List Raise} {s : State}
    (ha : IllegalWhen a (always s)) (hc : IllegalWhen b (checks s)) :
    BitsThen e (a || (guardOn f (cur s) && !!gresolved (cur s) f.g.toNat && b)) (scalarRaises e f always checks s) :=
  (((bits e).append ha).late .chk_late).append (.ite _ hc)

/-- The raises of an S syllable whose executing makes it no more illegal. -/
theorem scalarAlways (e : Enc) (f : SSyl) {always checks : State → List Raise} {s : State}
    (ha : IllegalWhen a (always s)) (hc : IllegalWhen false (checks s)) :
    BitsThen e a (scalarRaises e f always checks s) :=
  (scalar e f ha hc).congr (by simp)

theorem matrixRaises (e : Enc) (m : MCmd) (shapeOk : Bool) (s : State) :
    BitsThen e (!operandsOk m shapeOk) (matrixRaises e m shapeOk s) := by
  refine (((((((((bits e).late .chk_reserved).append .chk_illegal).late ?_).late ?_).late ?_).late ?_).late ?_).late ?_)
  case refine_3 =>
    split
    · exact .one_late
    · exact .nil
  all_goals exact .chk_late

theorem copyRaises (e : Enc) (c : Cmd) (s : State) :
    BitsThen e (!copyOk c (partCores s.dev (curPart s)).length) (copyRaises e c s) := by
  refine (((((((bits e).late .chk_reserved).append .chk_illegal).late ?_).late ?_).late ?_).late ?_).late ?_
  case refine_3 =>
    split
    · exact .one_late
    · exact .nil
  all_goals exact .chk_late

end BitsThen

end Sys2Proof.Safety

/-! SUPPORT. The engines' operand words: the machine's checks of them are those of the statements. -/

namespace Sys2Proof.Safety

open Sys2Proof Sys2Proof.Machine

theorem mkMCmd_eq_matrixCommand (kind : MKind) (h : EHdr) (o : MOp) (s : State) :
    mkMCmd kind h o s.ids s = matrixCommand kind h o s := by
  simp only [mkMCmd, matrixCommand, numCtl, bits_eq_fld, getLsbD_eq_fld, extractLsb'_eq_ofNat_fld, beq_iff_eq,
    Nat.reduceAdd, Nat.reduceSub]

theorem operandFmtOk_eq (m : MCmd) {k : Nat} (hk : k < 64) : operandFmtOk m k = namesFormat operandCodes m k := by
  have h : ∀ k < 64, (decide (k ≤ 2) || (decide (4 ≤ k) && decide (k ≤ 6)) ||
      (decide (9 ≤ k) && decide (k ≤ 11)) || (decide (16 ≤ k) && decide (k ≤ 20)) ||
      (decide (24 ≤ k) && decide (k ≤ 45)) || k == 47) = operandCodes.contains k := by decide
  rw [operandFmtOk, h k hk, namesFormat, MCmd.fmt]

theorem drainFmtOk_eq (m : MCmd) {k : Nat} (hk : k < 64) : drainFmtOk m k = namesFormat drainCodes m k := by
  have h : ∀ k < 64, (decide (k ≤ 11) || (decide (16 ≤ k) && decide (k ≤ 20)) ||
      (decide (24 ≤ k) && decide (k ≤ 31))) = drainCodes.contains k := by decide
  rw [drainFmtOk, h k hk, namesFormat, MCmd.fmt]

theorem rowsOk_eq_tileRowsFit (arow n : Nat) : rowsOk arow n = tileRowsFit arow n := by
  simp [rowsOk, tileRowsFit]

theorem drainWordOk_eq_drainFits (m : MCmd) : drainWordOk m = drainFits m := by
  simp only [drainWordOk, drainFits, MCmd.mode, MCmd.arow, MCmd.rc, MCmd.dfmt, bits_eq_fld, nzBits_eq_fld,
    rowsOk_eq_tileRowsFit, fld_extractLsb' m.b (show 0 + 3 ≤ 4 by decide), 
    drainFmtOk_eq m (fld_lt m.b 8 6), bne, Bool.not_not]

theorem controlWordOk_eq (m : MCmd) : controlWordOk m = (fld m.a 23 41 == 0 && fld m.a 7 1 == 0 && fld m.a 5 2 != 3 &&
    if fld m.a 16 1 = 1 then fld m.a 20 3 != 0 else fld m.a 17 6 == 0) := by
  simp only [controlWordOk, bits_eq_fld, nzBits_eq_fld, getLsbD_eq_fld, beq_iff_eq, bne, Bool.not_not, not_fld_beq_one,
    Nat.reduceAdd, Nat.reduceSub]

theorem operandsOk_eq_matrixWordsFit (m : MCmd) {b : Bool} (s : State) (hb : m.kind = .mdrc → b = drainShapeOk m s) :
    operandsOk m b = matrixWordsFit m := by
  unfold operandsOk matrixWordsFit
  cases hk : m.kind with
  | mlw =>
    simp only [MCmd.kv, MCmd.nv, MCmd.wfmt, bits_eq_fld, nzBits_eq_fld, operandFmtOk_eq m (fld_lt m.b 16 6), bne,
      Bool.not_not, Bool.decide_and, Bool.and_assoc]
  | mma =>
    simp only [MCmd.arow, MCmd.mrows, MCmd.afmt, bits_eq_fld, nzBits_eq_fld, operandFmtOk_eq m (fld_lt m.b 8 6), bne,
      Bool.not_not, rowsOk_eq_tileRowsFit]
  | mdrn =>
    have h : (decide (8 ≤ fld m.b 8 6) && decide (fld m.b 8 6 ≤ 10)) = [8, 9, 10].contains (fld m.b 8 6) := by
      have : ∀ k < 64, (decide (8 ≤ k) && decide (k ≤ 10)) = [8, 9, 10].contains k := by decide
      exact this _ (fld_lt ..)
    simp only [drainWordOk_eq_drainFits, MCmd.qs, MCmd.dfmt, bits_eq_fld, getLsbD_eq_fld, ← h, Bool.and_assoc]
  | mdrc =>
    rw [hb hk]
    simp only [drainWordOk_eq_drainFits, controlWordOk_eq, drainShapeOk, MCmd.pub, MCmd.ptag, MCmd.qs, MCmd.dfmt,
      Shape.base, bits_eq_fld, getLsbD_eq_fld, not_fld_beq_one, extractLsb'_beq_zero, fld_add_beq_zero m.b 47 1 16,
      Nat.reduceAdd, Nat.reduceSub]
    split <;> grind
  | mclr =>
    simp only [MCmd.arow, MCmd.rc, bits_eq_fld, nzBits_eq_fld, bne, Bool.not_not, rowsOk_eq_tileRowsFit]
  | mwsw => rfl
  | mmsk =>
    simp only [nzBits_eq_fld, bne, Bool.not_not]

/-- A CPY or CPW through a graph slot other than 0 streams (R181). -/
theorem streams_iff (c : Cmd) : c.streams = true ↔ (c.kind = .cpy ∨ c.kind = .cpw) ∧
    (if c.o.gsub = 0 then fld c.shape 382 4 else c.o.gsub.toNat) ≠ 0 := by
  simp only [Cmd.streams, Cmd.gslot, Shape.graph, bits_eq_fld, Bool.and_eq_true, Bool.or_eq_true, beq_iff_eq,
    bne_iff_ne, Nat.reduceAdd, Nat.reduceSub]

theorem gslot_eq (c : Cmd) : c.gslot = if c.o.gsub = 0 then fld c.shape 382 4 else c.o.gsub.toNat := by
  simp only [Cmd.gslot, Shape.graph, bits_eq_fld, Nat.reduceAdd, Nat.reduceSub]

theorem graphIn_eq (s : State) (p k : Nat) :
    graphIn s p k = ((tget none k (partAt s p).memory.graphs).map (·.graph)).getD [] := by
  unfold graphIn
  cases tget none k (partAt s p).memory.graphs <;> rfl

theorem mkCmd_eq_copyCommand (kind : CKind) (h : EHdr) (o : COp) (s : State) :
    mkCmd kind h o s.ids s = copyCommand kind h o s := by
  refine congrArg (fun c : Cmd => { c with srcLeft := c.sources }) (if_congr (streams_iff _) ?_ rfl)
  rw [graphIn_eq, gslot_eq]
  rfl

theorem rowLoc_isSome (w : W64) : (rowLoc w).isSome = locates w := by
  simp only [rowLoc, locates, bits_eq_fld, nzBits_eq_fld, Nat.reduceAdd, Nat.reduceSub]
  rw [Bool.eq_iff_iff]
  split <;>
  · simp_all
    omega

theorem wordLocOk_eq_wordFits (w : W64) (align : Nat) : wordLocOk w align = wordFits w align := by
  simp only [wordLocOk, wordFits, bits_eq_fld, nzBits_eq_fld, bne, Bool.not_not, Nat.reduceAdd,
    Nat.reduceSub, Nat.lt_succ_iff]

/-- The first row a locator names, where it is one. -/
theorem rowLoc_row {w : W64} (h : locates w = true) : ((rowLoc w).getD (0, 0)).2 = fld w 0 10 := by
  rw [← rowLoc_isSome] at h
  obtain ⟨q, hq⟩ := Option.isSome_iff_exists.mp h
  rw [hq]
  simp only [rowLoc] at hq
  split at hq
  · cases hq
  · obtain rfl := Option.some.inj hq
    exact bits_eq_fld w 9 0

/-- A run of rows from a locator stays in its block. -/
theorem rowLoc_run (w : W64) (n : Nat) :
    ((rowLoc w).isSome && decide (((rowLoc w).getD (0, 0)).2 + n ≤ 768)) = runFits w n := by
  rw [rowLoc_isSome, runFits]
  cases h : locates w
  · rfl
  · rw [rowLoc_row h]

/-- The limits that CPX and CPMC share (R291). -/
def deliveryFits (c : Cmd) : Bool :=
  runFits c.a (fld c.b 13 10) && fld c.b 44 3 == 0 && fld c.b 23 1 == 0 && decide (fld c.b 0 10 + fld c.b 13 10 ≤ 768)

theorem deliveryOk_eq (c : Cmd) (n : Nat) : deliveryOk c n = (deliveryFits c &&
    if c.kind = .cpmc then fld c.b 24 8 == 0 else decide (fld c.b 24 8 < n)) := by
  simp only [deliveryOk, deliveryFits, ← rowLoc_run, Cmd.locA, Cmd.nrows, bits_eq_fld, nzBits_eq_fld, getLsbD_eq_fld,
    not_fld_beq_one, bne, Bool.not_not, Nat.reduceAdd, Nat.reduceSub]
  ac_rfl

/-- The limits that CPG and CPS share (R289). -/
def gatherFits (c : Cmd) : Bool :=
  fld c.shape 389 3 == 2 && fld c.shape 128 16 == 0 && fld c.shape 388 1 == 0 && fld c.shape 382 4 == 0 &&
    fld c.c 13 51 == 0 && decide (fld c.c 0 13 ≤ 4096) && locates c.a && locates c.b

theorem gatherOk_eq (c : Cmd) : gatherOk c = (gatherFits c && (c.kind == .cpg || fld c.shape 365 1 == 0)) := by
  have hbox : (Shape.box c.shape 1 == 1) = (fld c.shape 128 16 == 0) := by
    simp [Shape.box, bits_eq_fld]
  simp only [gatherOk, gatherFits, hbox, rowLoc_isSome, Shape.ndim, Shape.plane, Shape.graph, Shape.pub,
    Cmd.count, bits_eq_fld, nzBits_eq_fld, getLsbD_eq_fld, not_fld_beq_one, bne, Bool.not_not, Nat.reduceAdd,
    Nat.reduceSub]
  ac_rfl

theorem copyOk_eq_copyWordsFit (c : Cmd) (n : Nat) : copyOk c n = copyWordsFit c n := by
  unfold copyOk copyWordsFit
  cases hk : c.kind with
  | cpy => simp only [rowLoc_isSome]
  | cpw =>
    simp only [rowLoc_isSome, Shape.pub, getLsbD_eq_fld, not_fld_beq_one]
  | cpx =>
    rw [deliveryOk_eq, hk]
    rfl
  | cpmc =>
    simp only [deliveryOk_eq, hk, wordLocOk_eq_wordFits, bits_eq_fld]
    rfl
  | cpg =>
    simp [gatherOk_eq, hk, gatherFits, Bool.and_assoc]
  | cps =>
    have : (CKind.cps == CKind.cpg) = false := rfl
    simp [gatherOk_eq, hk, gatherFits, Bool.and_assoc, this]
  | cpaa =>
    simp only [addOk, rowLoc_isSome, Shape.plane, Shape.graph, Shape.pub, Shape.fmt, Shape.base, baseAligned,
      bits_eq_fld, nzBits_eq_fld, getLsbD_eq_fld, not_fld_beq_one, bne, Bool.not_not, Nat.reduceAdd, Nat.reduceSub,
      Bool.and_assoc, List.contains_cons, List.contains_nil, Bool.or_false]
  | cpld => simp only [wordLocOk_eq_wordFits, wordLoc, bits_eq_fld]
  | cpst => simp only [wordLocOk_eq_wordFits, wordLoc, bits_eq_fld]
  | amo =>
    simp only [amoOk, wordLocOk_eq_wordFits, wordLoc, bits_eq_fld, Nat.reduceAdd, Nat.reduceSub]
  | vamo =>
    have h64 (k : Nat) : ceilDiv k 64 = (k + 63) / 64 := rfl
    have h512 (k : Nat) : ceilDiv k 512 = (k + 511) / 512 := rfl
    simp only [vamoOk, Cmd.locA, Cmd.locB, Cmd.count, Cmd.vamoSize, ← rowLoc_run, h64, h512, bits_eq_fld,
      nzBits_eq_fld, getLsbD_eq_fld, not_fld_beq_one, bne, Bool.not_not, Nat.reduceAdd, Nat.reduceSub]
    ac_rfl
  | pft => rfl
  | strm => rfl
  | invp => rfl
  | shpl =>
    simp only [bits_eq_fld, nzBits_eq_fld, bne, Bool.not_not, Nat.reduceAdd, Nat.reduceSub, Nat.lt_succ_iff]
  | mdrc => rfl

end Sys2Proof.Safety

/-! SUPPORT. The first trap of each step function's syllable, and of each instruction (R122, R250). -/

namespace Sys2Proof.Safety

open Sys2Proof Sys2Proof.Machine

/-- An outcome of the syllable of slot `sl` is the first trap of its own bits and of checks that raise the illegal cause
just when `b` holds; the schedule fault, which does more at a PEND or TEND (R40), aside. -/
def TrapsFirst (e : Enc) (sl : Slot) (b : Bool) (s : State) (x : Host.Outcome State Fault Refusal) : Prop :=
  ∃ l, BitsThen e b l ∧
    ∀ r, firstRaise l = some r → r.cause ≠ 0x05 → x = .next (takeTrap (curId s) (issueEvent s sl.num r) s)

namespace TrapsFirst

variable {e : Enc} {sl : Slot} {b : Bool} {s : State} {l : List Raise}

theorem syllableStep {eff : State → State} (h : BitsThen e b l) : TrapsFirst e sl b s (syllableStep sl l eff s) :=
  ⟨l, h, fun _ hr _ => syllableStep_raise hr⟩

theorem endingStep {eff : State → State} (h : BitsThen e b l) : TrapsFirst e sl b s (endingStep sl l eff s) :=
  ⟨l, h, fun _ hr h5 => endingStep_raise hr h5⟩

section
variable {f : SSyl} {always checks : State → List Raise}

/-- An S syllable that executing makes no more illegal. -/
theorem scalarStep {eff : State → State} (ha : IllegalWhen b (always s)) (hc : IllegalWhen false (checks s)) :
    TrapsFirst e .s b s (scalarStep e f always checks eff s) := .syllableStep (.scalarAlways e f ha hc)

theorem transferStep {eff : Ctx → Ctx} (ha : IllegalWhen b (always s)) (hc : IllegalWhen false (checks s)) :
    TrapsFirst e .s b s (transferStep e f always checks eff s) := .syllableStep (.scalarAlways e f ha hc)

theorem scalarOp {pois : Ctx → Bool} {val : Ctx → W64} {lat : Nat} :
    TrapsFirst e .s false s (scalarOp e f pois val lat s) := .scalarStep .nil .nil

theorem scalarBin {op : W64 → W64 → W64} {lat : Nat} : TrapsFirst e .s false s (scalarBin e f op lat s) := .scalarOp

theorem scalarUn {op : W64 → W64} : TrapsFirst e .s false s (scalarUn e f op s) := .scalarOp

theorem scalarShift {op : W64 → Nat → W64} : TrapsFirst e .s false s (scalarShift e f op s) := .scalarOp

theorem floatStep {pois : Ctx → Bool} {res : Ctx → Nat × FlagSet} :
    TrapsFirst e .s false s (floatStep e f pois res s) := .scalarStep .nil .nil

theorem syswStep {write : W64 → State → State} : TrapsFirst e .s false s (syswStep e f write s) :=
  .scalarStep .chk_late .chk_late

theorem fnStep {run : Nat → State → Nat × State} : TrapsFirst e .s false s (fnStep e f run s) :=
  .scalarStep .chk_late .nil

/-- An S syllable that executing may make illegal. -/
theorem executing {a c : Bool} {eff : State → State} (ha : IllegalWhen a (always s)) (hc : IllegalWhen c (checks s))
    (hb : b = (a || (gresolved (cur s) f.g.toNat && guardOn f (cur s) && c))) :
    TrapsFirst e .s b s (Machine.scalarStep e f always checks eff s) :=
  .syllableStep ((BitsThen.scalar e f ha hc).congr (by rw [hb, Bool.not_not, Bool.and_comm (gresolved _ _)]))

end

section
variable {cl : Cluster} {f : VSyl}

theorem vecStep {raises : State → List Raise} {eff : Ctx → Ctx} (h : IllegalWhen b (raises s)) :
    TrapsFirst e cl.slot b s (vecStep cl e raises eff s) := .syllableStep ((BitsThen.bits e).append h)

theorem vecOp {bad : Ctx → Bool} {byp : Option Nat} {lat : Nat} {out : Ctx → VOut} (h : b = bad (cur s)) :
    TrapsFirst e cl.slot b s (vecOp cl e f bad byp lat out s) := .vecStep (IllegalWhen.chk_illegal.congr h)

theorem vecRound {bad floats : Ctx → Bool} {count : Ctx → Nat} {byp : Option Nat} {lat : Nat}
    {out : Ctx → (Nat → Rnd) → VOut} (h : b = bad (cur s)) :
    TrapsFirst e cl.slot b s (vecRound cl e f bad floats count byp lat out s) :=
  .vecStep (IllegalWhen.chk_illegal.congr h)

theorem vArith {nsrc byp lat : Nat} {iop : Int → Int → Int → Int} {vop : Bool → Val → Val → Val → Val} :
    TrapsFirst e cl.slot false s (vArith cl e f nsrc byp lat iop vop s) := .vecRound rfl

theorem vSign {invert : Bool} : TrapsFirst e cl.slot false s (vSign cl e f invert s) := .vecOp rfl

theorem vMinMax {wantMax prop : Bool} : TrapsFirst e cl.slot false s (vMinMax cl e f wantMax prop s) := .vecOp rfl

theorem vBits {op : Nat → Nat → Nat} : TrapsFirst e cl.slot false s (vBits cl e f op s) := .vecOp rfl

theorem vShift {op : Nat → Nat → Nat → Nat} : TrapsFirst e cl.slot false s (vShift cl e f op s) := .vecOp rfl

theorem vSpecial {g : Val → Val} : TrapsFirst e cl.slot false s (vSpecial cl e f g s) := .vecRound rfl

theorem vZip {pick : Nat → Nat → Nat → Nat} : TrapsFirst e cl.slot false s (vZip cl e f pick s) := .vecOp rfl

theorem vRam {up : Bool} : TrapsFirst e cl.slot false s (vRam cl e f up s) := .vecOp rfl

theorem predOp {two : Bool} {op : Pred → Pred → Pred} : TrapsFirst e cl.slot false s (predOp cl e f two op s) :=
  .vecStep .nil

theorem predElems {pois : Ctx → Bool} {res : Ctx → Nat → Bool} :
    TrapsFirst e cl.slot false s (predElems cl e f pois res s) := .vecStep .nil

end

theorem loadStep {kind : LsKind} {sp cmp : Bool} {f : LSyl} :
    TrapsFirst e .ld false s (loadStep e kind sp cmp f s) := by
  refine .syllableStep (((((BitsThen.bits e).late ?_).late ?_).late ?_).late ?_)
  case refine_2 => exact .chkVal_late
  case refine_3 =>
    split
    · exact .one_late
    · exact .nil
  all_goals exact .chk_late

theorem storeStep {kind : LsKind} {f : LSyl} : TrapsFirst e .sd false s (storeStep e kind f s) :=
  .syllableStep ((((BitsThen.bits e).late .chk_late).late .chkVal_late).late .chk_late)

theorem matrixStep {kind : MKind} {h : EHdr} {o : MOp} {shapeOk : MCmd → State → Bool}
    (hb : b = !matrixWordsFit (matrixCommand kind h o s)) (hs : kind = .mdrc → shapeOk = drainShapeOk) :
    TrapsFirst e .m b s (matrixStep e kind h o shapeOk s) := by
  rw [hb, ← mkMCmd_eq_matrixCommand, ← operandsOk_eq_matrixWordsFit (b := shapeOk (mkMCmd kind h o s.ids s) s) _ s
    fun hk => by rw [hs hk]]
  unfold Machine.matrixStep
  exact .syllableStep (.matrixRaises ..)

theorem copyStep {kind : CKind} {h : EHdr} {o : COp}
    (hb : b = !copyWordsFit (copyCommand kind h o s) (partCores s.dev (curPart s)).length) :
    TrapsFirst e .cp b s (copyStep e kind h o s) := by
  rw [hb, ← mkCmd_eq_copyCommand, ← copyOk_eq_copyWordsFit]
  unfold Machine.copyStep
  exact .syllableStep (.copyRaises ..)

theorem updateStep {f : YSyl} {op : SemOp} (h : IllegalWhen false l) :
    TrapsFirst e .sy false s (updateStep e f l op s) :=
  .syllableStep (((BitsThen.bits e).late .chk_late).late h)

theorem waitStep {f : YSyl} {ok : Bool} {w : Wait} {eff : State → State} (h : IllegalWhen b l) :
    TrapsFirst e .sy b s (waitStep e f l ok w eff s) :=
  .syllableStep (((BitsThen.bits e).append h).late .chk_late)

end TrapsFirst

theorem loopChecks_illegalWhen (f : SSyl) (s : State) :
    IllegalWhen ((cur s).pos.loops.any fun e => decide (e.stop < (cur s).pos.pc + bits f.imm 19 0)) (loopChecks f s) :=
  IllegalWhen.chk_illegal.late_right .chk_late

/-- The phaser a handle names, in the statements' terms (R217). -/
theorem handle_eq_fld (f : YSyl) (s : State) : handle f s = fld (sget (cur s) f.sc.toNat) 0 10 := bits_eq_fld _ 9 0

/-- Every syllable takes the first trap of its bits and of its checks, which find it illegal just where `illegalHere`
does: instruction by instruction, as the step function that each is made of says. -/
theorem trapsFirst_exec {i : Instr} {sl : Slot} {w : BitVec 96} (s : State) (he : encodeSyl i = some (sl, w)) :
    TrapsFirst (enc i) sl (illegalHere i s) s (exec i s) := by
  unfold exec
  cases i with
  | nop sl b | illegalOpcode sl b =>
    cases he
    exact .syllableStep (eff := id) (.bits _)
  | hintRegion sl b => exact ⟨_, .bits _, fun r hr => by cases hr⟩
  | add f | sub f | and f | or f | xor f | andn f | mini f | maxi f | minz f | maxz f | mul f | mulh f | mulhz f
  | div f | divz f | cmp f | addr f =>
    cases he
    exact .scalarBin
  | addi f | clz f | popc f | lih f | mov f | cmpi f =>
    cases he
    exact .scalarUn
  | shl f | shr f | sar f | rotr f =>
    cases he
    exact .scalarShift
  | bfx f | bfxz f | li f | movTl f =>
    cases he
    exact .scalarOp
  | sel f =>
    cases he
    unfold execSel
    exact .scalarOp
  | fadd f | fmul f | ffma f | fcmp f | fcvt f =>
    cases he
    exact .floatStep
  | bfi f | ccnr f =>
    cases he
    exact .scalarStep .nil .nil
  | gset f =>
    cases he
    exact .scalarStep .nil .chk_late
  | sysr f | rft f =>
    cases he
    exact .scalarStep .chk_late .nil
  | trapHsave f =>
    cases he
    unfold execTrapHsave
    exact .fnStep
  | trapHload f =>
    cases he
    unfold execTrapHload
    exact .fnStep
  | trapCres f | trapCabn f | trapKill f | trapCancel f =>
    cases he
    exact .fnStep
  | sysw f | lcbWrite f | tebWrite f | nbvWrite f | prioWrite f | flagsWrite f | phtselWrite f | lstkWrite f
  | trapaWrite f =>
    cases he
    exact .syswStep
  | br f =>
    cases he
    exact .transferStep .chk_illegal .chk_late
  | call f =>
    cases he
    exact .transferStep .chk_illegal (.late_left .chk_late .chk_late)
  | ret f | brk f =>
    cases he
    refine .transferStep .chk_illegal ?_
    split
    · exact .one_late
    · exact .nil
  | ntreq f =>
    cases he
    exact .scalarStep .chk_illegal .chk_late
  | loop f =>
    cases he
    unfold execLoop
    exact .executing .chk_illegal ((((loopChecks_illegalWhen f s).append .chk_illegal).late_right
      .chk_late).late_right .chk_late) rfl
  | loopi f =>
    cases he
    exact .executing .chk_illegal (loopChecks_illegalWhen f s) rfl
  | tend f =>
    cases he
    unfold execTend
    exact .endingStep (.scalarAlways _ f .chk_illegal (.late_left .chk_late .chk_late))
  | trap f =>
    cases he
    unfold execTrap
    refine .scalarStep ((IllegalWhen.chk_illegal.late_right .chk_late).congr ?_) .nil
    rw [getLsbD_eq_fld, not_fld_beq_one]
    rfl
  | vadd cl f | vsub cl f | vmul cl f | vmad cl f =>
    cases he
    exact .vArith
  | vabs cl f | vneg cl f =>
    cases he
    exact .vSign
  | vmin cl f | vmax cl f | vminp cl f | vmaxp cl f =>
    cases he
    exact .vMinMax
  | vand cl f | vor cl f | vxor cl f | vandn cl f =>
    cases he
    exact .vBits
  | vshl cl f | vshr cl f | vsar cl f =>
    cases he
    exact .vShift
  | vexp2 cl f | vlog2 cl f | vrcp cl f | vrsq cl f | vsqrt cl f =>
    cases he
    exact .vSpecial
  | vzip cl f | vuzp cl f =>
    cases he
    exact .vZip
  | vramx cl f | vramn cl f =>
    cases he
    exact .vRam
  | pand cl f | por cl f | pxor cl f | pandn cl f | pmov cl f =>
    cases he
    exact .predOp
  | pset cl f | pfirst cl f =>
    cases he
    exact .predElems
  | vclmp cl f | vclz cl f | vpopc cl f | vsel cl f | vmov cl f | vmovx cl f | vbcs cl f | vbcl cl f | viota cl f
  | vperm cl f | vrot cl f | vnar cl f | vcas cl f | vdot4 cl f | vwid cl f =>
    cases he
    exact .vecOp rfl
  | vflr cl f | vred cl f | vscan cl f | vmulw cl f | vcvt cl f =>
    cases he
    exact .vecRound rfl
  | vcmp cl f | vext cl f | pcnt cl f | vrng cl f =>
    cases he
    exact .vecStep .nil
  | vrngs cl f =>
    cases he
    exact .vecStep .chk_late
  | vscl cl f =>
    cases he
    exact .vecStep .chk_illegal
  | vbin cl f | vunbn cl f =>
    cases he
    exact .vecOp (nzBits_eq_fld (sget (cur s) f.b.toNat) 63 11).symm
  | ld f | ldSp f | ldc f | lds f | ldsSp f | ldt f =>
    cases he
    exact .loadStep
  | st f | stc f | sts f | stt f | stz f =>
    cases he
    exact .storeStep
  | mlw h o | mma h o | mdrn h o | mclr h o | mwsw h o | mmsk h o =>
    cases he
    exact .matrixStep rfl nofun
  | mdrc h o =>
    cases he
    exact .matrixStep rfl fun _ => rfl
  | cpy h o | cpw h o | cpx h o | cpmc h o | cpg h o | cps h o | cpaa h o | cpld h o | cpst h o | amo h o | vamo h o
  | pft h o | strm h o | invp h o | shpl h o =>
    cases he
    exact .copyStep rfl
  | swait f =>
    cases he
    unfold execSwait
    exact .waitStep (.late_left .chk_late (.reasonRaise_late _ _))
  | ssig f =>
    cases he
    exact .updateStep .nil
  | sset f | sfaa f =>
    cases he
    exact .updateStep .chk_late
  | scas f =>
    cases he
    unfold execScas
    exact .updateStep (.late_left .chk_late .chk_late)
  | phreg f =>
    cases he
    unfold execPhreg
    refine .syllableStep ((((BitsThen.bits _).late (.handleRaises_late f s)).append .chk_illegal).congr ?_)
    rw [handle_eq_fld]
    rfl
  | phdrp f =>
    cases he
    unfold execPhdrp
    refine .syllableStep ((((BitsThen.bits _).late (.handleRaises_late f s)).append .chk_illegal).congr ?_)
    rw [handle_eq_fld]
    rfl
  | pharv f =>
    cases he
    unfold execPharv
    refine .waitStep (((IllegalWhen.handleRaises_late f s).late_left .chk_illegal).congr ?_)
    rw [handle_eq_fld]
    rfl
  | phwt f =>
    cases he
    unfold execPhwt
    refine .waitStep (((IllegalWhen.handleRaises_late f s).late_left .chk_illegal).congr ?_)
    rw [handle_eq_fld]
    rfl
  | phaw f =>
    cases he
    unfold execPhaw
    refine .waitStep ((((IllegalWhen.handleRaises_late f s).late_left .chk_illegal).late_right
      .chk_late).congr ?_)
    rw [handle_eq_fld]
    rfl
  | pend f =>
    cases he
    unfold execPend
    exact .endingStep ((((((BitsThen.bits _).append .chk_illegal).late .chk_late).late
      .chk_late).late (.reasonRaise_late _ _)).late .chk_late)
  | psel f | yield f =>
    cases he
    exact .syllableStep ((BitsThen.bits _).append .chk_illegal)
  | fence f | hint f =>
    cases he
    exact .syllableStep (.bits _)
  | _ => cases he

/-- Settles O7: the first cause of every syllable is 0x01 where its own bits are illegal, and where one of its reserved
fields is not zero it is 0x01 or 0x02 as the state has it; neither is the schedule fault. -/
theorem badBitsTrap : Obligations.BadBitsTrap := by
  intro i sl w s he
  obtain ⟨l, hl, traps⟩ := trapsFirst_exec s he
  constructor
  · intro hi
    exact traps _ (hl.first_illegal hi) (by decide)
  · intro hi hr
    refine traps _ (hl.first_reserved hi hr) ?_
    split <;> decide

end Sys2Proof.Safety

/-! SUPPORT. Guards of S syllables (R76, R123): one with a write in flight, and the instructions that check
nothing else. -/

namespace Sys2Proof.Machine

/-- A guard with a write in flight: the timing fault, whatever the checks of executing (R76, R123). -/
theorem scalarStep_unresolved {i : Instr} {f : SSyl} {always checks : State → List Raise} {eff : State → State}
    {s : State} (he : encRaises (enc i) = []) (hr : gresolved (cur s) f.g.toNat = false) (ha : always s = []) :
    scalarStep (enc i) f always checks eff s =
      .next (takeTrap (curId s) (issueEvent s Slot.s.num ⟨0x04, 0, 0⟩) s) := by
  refine syllableStep_raise ?_
  simp [scalarRaises, he, ha, hr, firstRaise]

end Sys2Proof.Machine

namespace Sys2Proof.Safety

open Sys2Proof Sys2Proof.Machine

theorem guardOn_of_executes {f : SSyl} {c : Ctx} (h : Executes f c) : guardOn f c = true := by
  have hgn : ∀ g : BitVec 1, ((g == 0) != (g == 1)) = true := by decide
  rw [guardOn, h.2, hgn]

/-- An S syllable that executes raises what its checks of executing do (R123). -/
theorem scalarRaises_of_executes {i : Instr} {f : SSyl} {always checks : State → List Raise} {s : State}
    (he : encRaises (enc i) = []) (hx : Executes f (cur s)) (ha : always s = []) :
    scalarRaises (enc i) f always checks s = checks s := by
  simp [scalarRaises, he, ha, hx.1, guardOn_of_executes hx]

/-- The instruction is an S syllable that checks its own bits, its guard and, when it executes, `checks` (R123). -/
def GuardedStep (i : Instr) (f : SSyl) (s : State) : Prop :=
  ∃ checks eff, exec i s = scalarStep (enc i) f (fun _ => []) checks eff s

/-- Every instruction of the scalar table, and each one named beside it, is such a syllable. -/
theorem guardedStep_of_guardOnly {i : Instr} {s : State} {f : SSyl} (h : guardOnly i s = some f) :
    GuardedStep i f s := by
  cases i with
  | sel g =>
    have hf : g = f := by
      simp only [guardOnly, scalarRow] at h
      split at h <;> exact Option.some.inj h
    exact hf ▸ ⟨_, _, rfl⟩
  | add g | addi g | sub g | and g | or g | xor g | andn g | shl g | shr g | sar g | rotr g | mini g | maxi g | minz g
  | maxz g | clz g | popc g | mul g | mulh g | mulhz g | div g | divz g | bfx g | bfxz g | li g | lih g | mov g
  | movTl g | cmp g | cmpi g | addr g | ccnr g | bfi g | gset g | fadd g | fmul g | ffma g | fcmp g | fcvt g =>
    obtain rfl : g = f := Option.some.inj h
    exact ⟨_, _, rfl⟩
  | _ => cases h

/-- Settles O9: such a syllable does nothing under a guard that does not hold, and takes cause 0x04 under one that is
not resolved. -/
theorem guardsDecideScalarSyllables : Obligations.GuardsDecideScalarSyllables := by
  intro i s f hwf hf
  obtain ⟨checks, eff, hstep⟩ := guardedStep_of_guardOnly hf
  have he := encRaises_wf hwf
  constructor
  · rintro ⟨hr, hg⟩
    rw [hstep]
    exact scalarStep_off he hr hg rfl
  · intro hr
    rw [Traps, hstep]
    exact scalarStep_unresolved he hr rfl

end Sys2Proof.Safety
/-! SUPPORT. Bit-field insertion and the writes of a guard (R282, R304). -/

namespace Sys2Proof.Safety

open Sys2Proof Sys2Proof.Machine

/-- A scalar result with no flag, put in flight, is the result of the statements. -/
theorem launch_scalar (d : Nat) (v : W64) (pois : Bool) (lat : Nat) (c : Ctx) :
    launch .scalar d (v.setWidth 4096) pois 0 0 none lat c = flying (resultFlight d v pois lat c) c := by
  simp [launch, flying, resultFlight]

/-- An instruction whose effect is one scalar result delivers it. -/
theorem delivers_of_launchS {i : Instr} {s : State} {d lat : Nat} {v : W64} {pois : Bool}
    (h : exec i s = .next (launchS d v pois lat s)) : Delivers i s d v pois lat := by
  rw [Delivers, ← launch_scalar]
  exact issuesTo_of_updCur h

theorem bfReg_eq (f : SSyl) : bfReg f = decide (bits f.imm 15 15 = 1) := by
  rw [bfReg, getLsbD_eq_fld, bits_eq_fld]
  rfl

/-- The field of the bit-field forms in whole numbers (R282). -/
theorem bfField_eq (f : SSyl) (c : Ctx) : bfField f c =
    if bits f.imm 15 15 = 1 then
      ((sget c f.b.toNat).toNat % 2 ^ 7, (sget c f.b.toNat).toNat / 2 ^ 8 % 2 ^ 7)
    else (bits f.imm 6 0, bits f.imm 14 8) := by
  simp only [bfField, bfReg_eq, decide_eq_true_eq, srcB, bits_eq_fld (sget c f.b.toNat), fld, Nat.pow_zero, Nat.div_one,
    Nat.reduceAdd, Nat.reduceSub]

/-- Bit by bit, BFI's word is the low bits of `a` in the field and `d` around it (R282). -/
theorem getLsbD_bfInsert (d a : W64) {off wid n : Nat} (hn : n < 64) :
    (bfInsert d a off wid).getLsbD n =
      if off ≤ n ∧ n < off + wid then a.getLsbD (n - off) else d.getLsbD n := by
  have hmask : (BitVec.ofNat 64 ((2 ^ min wid (64 - off) - 1) * 2 ^ off)).getLsbD n =
      decide (off ≤ n ∧ n < off + wid) := by
    rw [BitVec.getLsbD_ofNat, Nat.testBit_mul_two_pow, Nat.testBit_two_pow_sub_one, Bool.eq_iff_iff]
    simp only [hn, decide_true, Bool.true_and, Bool.and_eq_true, decide_eq_true_eq]
    omega
  simp only [bfInsert, BitVec.getLsbD_or, BitVec.getLsbD_and, BitVec.getLsbD_not, BitVec.getLsbD_shiftLeft, hmask, hn,
    decide_true, Bool.true_and]
  by_cases h : off ≤ n ∧ n < off + wid
  · simp [h, show ¬n < off by omega]
  · simp [h]

/-- GSET's truth value: s[A] not zero, inverted by IMM[0] (R304). -/
theorem gsetValue_eq (a : W64) (imm : BitVec 32) : ((a != 0) != imm.getLsbD 0) = decide (a ≠ 0 ↔ bits imm 0 0 = 0) := by
  rw [getLsbD_eq_fld, bits_eq_fld]
  have hlt := fld_lt imm 0 1
  have hz : (fld imm 0 1 == 1) = !decide (fld imm 0 1 = 0) := by
    rw [Bool.eq_iff_iff]
    simp
    omega
  have ha : (a != 0) = decide (a ≠ 0) := by
    rw [Bool.eq_iff_iff]
    simp
  rw [hz, ha]
  by_cases a = 0 <;> by_cases fld imm 0 1 = 0 <;> simp [*]

/-- The effect of a BFI that executes (R282). -/
theorem exec_bfi {f : SSyl} {s : State} (hwf : (Instr.bfi f).wf = true) (hx : Executes f (cur s)) :
    exec (.bfi f) s = .next (
      let c := cur s
      if (bfField f c).1 ≥ 64 || (bfField f c).2 == 0 then s
      else launchS f.d.toNat (bfInsert (sget c f.d.toNat) (srcA f c) (bfField f c).1 (bfField f c).2)
        (srcPois f (bfReg f) c || spois c f.d.toNat) 1 s) :=
  scalarStep_on (encRaises_wf hwf) hx.1 hx.2 rfl rfl

theorem bfi_inserts {f : SSyl} {s : State} {off wid : Nat} {v : W64} (hwf : (Instr.bfi f).wf = true)
    (hx : Executes f (cur s)) (hfield : bfField f (cur s) = (off, wid)) :
    (off ≥ 64 ∨ wid = 0 → exec (.bfi f) s = .next s) ∧
    (off < 64 → wid ≠ 0 →
      (∀ n, n < 64 → v.getLsbD n = if off ≤ n ∧ n < off + wid then (sget (cur s) f.a.toNat).getLsbD (n - off)
        else (sget (cur s) f.d.toNat).getLsbD n) →
      Delivers (.bfi f) s f.d.toNat v (spois (cur s) f.a.toNat ||
        (decide (bits f.imm 15 15 = 1) && spois (cur s) f.b.toNat) || spois (cur s) f.d.toNat) 1) := by
  have hexec := exec_bfi hwf hx
  simp only [hfield, Bool.or_eq_true, decide_eq_true_eq, beq_iff_eq] at hexec
  constructor
  · intro h
    rw [hexec, if_pos h]
  · intro hoff hwid hv
    rw [if_neg (by omega)] at hexec
    have hval : bfInsert (sget (cur s) f.d.toNat) (srcA f (cur s)) off wid = v :=
      BitVec.eq_of_getLsbD_eq fun n hn => by rw [getLsbD_bfInsert _ _ hn, hv n hn, srcA]
    rw [hval, srcPois, bfReg_eq] at hexec
    exact delivers_of_launchS hexec

/-- The write of a guard in flight (R76, R304). -/
theorem issuesTo_guard {i : Instr} {s : State} {d : Nat} {v : Row}
    (h : exec i s = .next (updCur (launch .guard d v false 0 0 none 1) s)) :
    IssuesTo i s (flying { resultFlight d 0 false 1 (cur s) with file := .guard, val := v } (cur s)) :=
  issuesTo_of_updCur h

/-- Settles O16: BFI by the bits of the word it delivers; GSET by its one check and its effect. -/
theorem bitFieldInsertAndGuardSet : Obligations.BitFieldInsertAndGuardSet := by
  constructor
  · intro f s off wid v hwf hx c b reg hfield
    exact bfi_inserts hwf hx (by rw [bfField_eq]; exact hfield.symm)
  · intro f s hwf hx c v
    have he := encRaises_wf hwf
    refine ⟨fun hp => ?_, fun hp hd => ?_, fun hp hd => issuesTo_guard ?_⟩
    · refine syllableStep_raise ?_
      rw [scalarRaises_of_executes he hx rfl, (show spois (cur s) f.a.toNat = true from hp)]
      rfl
    · refine (scalarStep_on he hx.1 hx.2 rfl ((chk_eq_nil ..).mpr hp)).trans ?_
      rw [if_pos hd]
    · refine (scalarStep_on he hx.1 hx.2 rfl ((chk_eq_nil ..).mpr hp)).trans ?_
      simp only [hd, if_false, srcA, gsetValue_eq, decide_eq_true_eq, v, c]

end Sys2Proof.Safety

/-! SUPPORT. The least of a list by a key, which picks the event taken, the result that lands and the update applied. -/

namespace Sys2Proof.Machine

variable {α : Type} {key : α → Nat} {l : List α} {x : α}

theorem leastBy_mem (h : leastBy key l = some x) : x ∈ l := by
  induction l generalizing x with
  | nil => cases h
  | cons a l ih =>
    simp only [leastBy] at h
    split at h
    · simp_all
    · split at h <;> obtain rfl := Option.some.inj h
      · exact List.mem_cons_self
      · exact List.mem_cons_of_mem _ (ih ‹_›)

theorem leastBy_eq_none_iff : leastBy key l = none ↔ l = [] := by
  cases l with
  | nil => simp [leastBy]
  | cons a l =>
    simp only [leastBy, reduceCtorEq, iff_false]
    split
    · simp
    · split <;> simp

theorem leastBy_le (h : leastBy key l = some x) : ∀ y ∈ l, key x ≤ key y := by
  induction l generalizing x with
  | nil => simp
  | cons a l ih =>
    simp only [leastBy] at h
    split at h
    · next hn =>
      obtain rfl := Option.some.inj h
      simp [leastBy_eq_none_iff.mp hn]
    · next b hb =>
      have hle := ih hb
      split at h <;> obtain rfl := Option.some.inj h
      · next hab => exact List.forall_mem_cons.mpr ⟨le_rfl, fun y hy => hab.trans (hle y hy)⟩
      · next hab => exact List.forall_mem_cons.mpr ⟨by omega, hle⟩

theorem exists_leastBy (h : l ≠ []) : ∃ x, leastBy key l = some x :=
  Option.ne_none_iff_exists'.mp fun hn => h (leastBy_eq_none_iff.mp hn)

end Sys2Proof.Machine

/-! SUPPORT. What the selector, the error log and the ends of tasks leave as it was (R32, R45, R255, R266). -/

namespace Sys2Proof.Safety

open Sys2Proof Sys2Proof.Machine

/-- Contexts, partitions and the device stand, and all of each core but its selector. -/
structure SelectorOnly (s t : State) : Prop where
  ctxs : t.ctxs = s.ctxs
  parts : t.parts = s.parts
  dev : t.dev = s.dev
  core : ∀ k, ∃ x, coreOf t k = { coreOf s k with sel := x }

theorem SelectorOnly.refl (s : State) : SelectorOnly s s := ⟨rfl, rfl, rfl, fun _ => ⟨_, rfl⟩⟩

theorem SelectorOnly.ctxOf {s t : State} (h : SelectorOnly s t) (j : Nat) : ctxOf t j = ctxOf s j := by
  rw [Machine.ctxOf, h.ctxs, Machine.ctxOf]

theorem SelectorOnly.sup {s t : State} (h : SelectorOnly s t) (k : Nat) : (coreOf t k).sup = (coreOf s k).sup := by
  obtain ⟨x, hx⟩ := h.core k
  rw [hx]

theorem selectorOnly_updCore (k : Nat) (f : Core → Selector) (s : State) :
    SelectorOnly s (updCore k (fun c => { c with sel := f c }) s) := by
  refine ⟨rfl, rfl, rfl, fun j => ?_⟩
  by_cases h : j = k
  · exact ⟨f (coreOf s k), by rw [h, coreOf_updCore_same]⟩
  · exact ⟨(coreOf s j).sel, by rw [coreOf_updCore_ne h]⟩

theorem selectorOnly_invoke (core keep excl : Nat) (s : State) : SelectorOnly s (invoke core keep excl s) := by
  simp only [invoke]
  exact selectorOnly_updCore ..

theorem selectorOnly_dropSlot (id : Nat) (s : State) : SelectorOnly s (dropSlot id s) := by
  simp only [dropSlot]
  split
  · exact selectorOnly_updCore _ _ _
  · split
    · exact selectorOnly_invoke ..
    · exact .refl s

/-- A context after its member's part has ended (R32, R255). -/
def endedCtx (c : Ctx) : Ctx := { c with status := .ended, boundary := [], pos := { c.pos with endSent := true } }

theorem ctxOf_endMember_same (id : Nat) (s : State) : ctxOf (endMember id s) id = endedCtx (ctxOf s id) := by
  rw [endMember, (selectorOnly_dropSlot ..).ctxOf, ctxOf_updCore, ctxOf_updCtx_same, endedCtx]

theorem ctxOf_endMember_ne {id j : Nat} (h : j ≠ id) (s : State) : ctxOf (endMember id s) j = ctxOf s j := by
  rw [endMember, (selectorOnly_dropSlot ..).ctxOf, ctxOf_updCore, ctxOf_updCtx_ne h]

theorem endMember_parts (id : Nat) (s : State) : (endMember id s).parts = s.parts := by
  rw [endMember, (selectorOnly_dropSlot ..).parts, updCore_parts, updCtx_parts]

theorem endMember_sup (id : Nat) (s : State) (k : Nat) : (coreOf (endMember id s) k).sup = (coreOf s k).sup := by
  rw [endMember, (selectorOnly_dropSlot ..).sup]
  by_cases h : k = id / 5
  · rw [h, coreOf_updCore_same, coreOf_updCtx]
  · rw [coreOf_updCore_ne h, coreOf_updCtx]

/-- The members of a task end, one after the other. -/
def endMembers (ms : List (Nat × Nat)) (s : State) : State := ms.foldl (fun s m => endMember (ctxId m.1 m.2) s) s

theorem endMembers_parts (ms : List (Nat × Nat)) (s : State) : (endMembers ms s).parts = s.parts := by
  induction ms generalizing s with
  | nil => rfl
  | cons m ms ih => exact (ih _).trans (endMember_parts ..)

theorem endMembers_sup (ms : List (Nat × Nat)) (s : State) (k : Nat) :
    (coreOf (endMembers ms s) k).sup = (coreOf s k).sup := by
  induction ms generalizing s with
  | nil => rfl
  | cons m ms ih => exact (ih _).trans (endMember_sup ..)

theorem endMembers_keep_ended (ms : List (Nat × Nat)) {s : State} {id : Nat} (h : (ctxOf s id).status = .ended) :
    (ctxOf (endMembers ms s) id).status = .ended := by
  induction ms generalizing s with
  | nil => exact h
  | cons m ms ih =>
    refine ih ?_
    by_cases hm : id = ctxId m.1 m.2
    · rw [hm, ctxOf_endMember_same, endedCtx]
    · rw [ctxOf_endMember_ne hm, h]

/-- Every member of the list has ended. -/
theorem endMembers_ended {ms : List (Nat × Nat)} {m : Nat × Nat} (h : m ∈ ms) (s : State) :
    (ctxOf (endMembers ms s) (ctxId m.1 m.2)).status = .ended := by
  induction ms generalizing s with
  | nil => cases h
  | cons x ms ih =>
    obtain rfl | h := List.mem_cons.mp h
    · refine endMembers_keep_ended ms ?_
      rw [ctxOf_endMember_same, endedCtx]
    · exact ih h _

theorem taskOf_eq_of_parts {s t : State} (h : t.parts = s.parts) (p n : Nat) : taskOf t p n = taskOf s p n := by
  rw [taskOf, partAt, h, taskOf, partAt]

@[simp] theorem taskOf_setTask_same (p n : Nat) (x : Option Task) (s : State) : taskOf (setTask p n x s) p n = x := by
  rw [taskOf, setTask, updLaunch, partAt_updPart_same]
  exact tget_tset_same ..

/-- The end of a task that is bound (R255): its members end, and it has the status. -/
theorem endTask_bound {p n status : Nat} {s : State} {x : Task} (hx : taskOf s p n = some x) (hb : x.stage = .bound) :
    endTask p n status s =
      endMembers x.members (setTask p n (some { x with stage := .ending, status := status }) s) := by
  simp [endTask, hx, hb, endMembers]

theorem endTask_sup (p n status : Nat) (s : State) (k : Nat) :
    (coreOf (endTask p n status s) k).sup = (coreOf s k).sup := by
  unfold endTask
  split
  · rfl
  · split
    · exact endMembers_sup ..
    · rfl

theorem endTaskOf_sup (id status : Nat) (s : State) (k : Nat) :
    (coreOf (endTaskOf id status s) k).sup = (coreOf s k).sup := by
  unfold endTaskOf
  split
  · exact endTask_sup ..
  · rfl

/-- Posting a record to a ring changes bytes of DRAM alone (R397). -/
theorem postRing_stands (p idx size : Nat) (r : RecRing) (rec : Bool → List Byte) (s : State) :
    let t := (postRing p idx size r rec s).2
    t.ctxs = s.ctxs ∧ t.cores = s.cores ∧ t.parts = s.parts ∧ t.dev = s.dev := by
  simp only [postRing]
  split <;> exact ⟨rfl, rfl, rfl, rfl⟩

theorem launch_updMem (p : Nat) (f : MemSys → MemSys) (s : State) (q : Nat) :
    (partAt (updMem p f s) q).launch = (partAt s q).launch := by
  by_cases h : q = p
  · rw [h, updMem, partAt_updPart_same]
  · rw [updMem, partAt_updPart_ne h]

/-- A record posted, as a pair of the ring and the state. -/
theorem postRing_eq_pair (p idx size : Nat) : postRing p idx size =
    fun r rec s => ((postRing p idx size r rec s).1, (postRing p idx size r rec s).2) :=
  funext fun _ => funext fun _ => funext fun _ => Prod.mk.eta.symm

section
variable (p kind slot core unit addr info : Nat) (s : State)

/-- A record of the error log changes memory and the log's own place alone (R266). -/
theorem logErr_stands :
    let t := logErr p kind slot core unit addr info s
    t.ctxs = s.ctxs ∧ t.cores = s.cores ∧ t.dev = s.dev ∧ ∀ q, (partAt t q).launch = (partAt s q).launch := by
  unfold logErr
  rw [postRing_eq_pair]
  split
  · exact ⟨rfl, rfl, rfl, fun _ => rfl⟩
  · next r _ =>
    obtain ⟨hctxs, hcores, hparts, hdev⟩ :=
      postRing_stands p 16 64 r (errRecord kind slot core unit (now s) addr info) s
    refine ⟨(updMem_ctxs ..).trans hctxs, (updMem_cores ..).trans hcores, (updMem_dev ..).trans hdev, fun q => ?_⟩
    rw [launch_updMem, partAt, hparts, partAt]

@[simp] theorem logErr_dev : (logErr p kind slot core unit addr info s).dev = s.dev := (logErr_stands ..).2.2.1

@[simp] theorem ctxOf_logErr (j : Nat) : ctxOf (logErr p kind slot core unit addr info s) j = ctxOf s j := by
  rw [ctxOf, (logErr_stands ..).1, ctxOf]

@[simp] theorem coreOf_logErr (k : Nat) : coreOf (logErr p kind slot core unit addr info s) k = coreOf s k := by
  rw [coreOf, (logErr_stands ..).2.1, coreOf]

@[simp] theorem taskOf_logErr (q n : Nat) : taskOf (logErr p kind slot core unit addr info s) q n = taskOf s q n := by
  rw [taskOf, (logErr_stands ..).2.2.2, taskOf]

end

/-- Of a fault of the supervisor, its core is fenced (R257). -/
theorem fenceCore_fenced (core : Nat) (s : State) : (coreOf (fenceCore core s) core).sup.fenced = true := by
  rw [fenceCore, (selectorOnly_invoke ..).sup, coreOf_logErr]
  simp only [List.foldl_cons, List.foldl_nil, endTaskOf_sup, coreOf_updCtx, coreOf_updCore_same]

/-- A trap ends the task of its slot, but leaves what waits for the supervisor (R255). -/
theorem killByTrap_sup (id va cause : Nat) (s : State) (k : Nat) :
    (coreOf (killByTrap id va cause s) k).sup = (coreOf s k).sup := by
  simp only [killByTrap, endTaskOf_sup]
  split
  · rw [coreOf_logErr]
  · rfl

theorem endTaskOf_of_task {id status n : Nat} {s : State} (h : (ctxOf s id).task = some n) :
    endTaskOf id status s = endTask (partOfCore s.dev (id / 5)) n status s := by
  rw [endTaskOf, h]

/-- A trap of a member of a bound task ends the task with STATUS 1 (R79, R255). -/
theorem killByTrap_bound {id va cause n : Nat} {s : State} {x : Task} (ht : (ctxOf s id).task = some n)
    (hx : taskOf s (partOfCore s.dev (id / 5)) n = some x) (hb : x.stage = .bound)
    (hm : (id / 5, id % 5) ∈ x.members) :
    (ctxOf (killByTrap id va cause s) id).status = .ended ∧
      taskOf (killByTrap id va cause s) (partOfCore s.dev (id / 5)) n =
        some { x with stage := .ending, status := 1 } := by
  have hlive : (((ctxOf s id).task.bind (taskOf s (partOfCore s.dev (id / 5)))).any
      fun x => x.stage == .bound || x.stage == .preempting) = true := by simp [ht, hx, hb]
  rw [killByTrap, if_pos hlive]
  generalize hu : logErr .. = u
  have htask : (ctxOf u id).task = some n := by rw [← hu, ctxOf_logErr, ht]
  have hdev : u.dev = s.dev := by rw [← hu, logErr_dev]
  have hstage : taskOf u (partOfCore s.dev (id / 5)) n = some x := by rw [← hu, taskOf_logErr, hx]
  rw [endTaskOf_of_task htask, hdev, endTask_bound hstage hb]
  constructor
  · have := endMembers_ended hm (setTask (partOfCore s.dev (id / 5)) n (some { x with stage := .ending, status := 1 }) u)
    rwa [ctxId, Nat.div_add_mod] at this
  · rw [taskOf_eq_of_parts (endMembers_parts ..), taskOf_setTask_same]

end Sys2Proof.Safety

/-! SUPPORT. What taking a trap does in a task context (R251, R253, R254). -/

namespace Sys2Proof.Safety

open Sys2Proof Sys2Proof.Machine

/-- Where a trap finds a context: in a transom, or held by a wait after its bundle (R331, R398). -/
def trappedIn (c : Ctx) : Option Bool :=
  match c.status with
  | .transom sent => some sent
  | _ => none

/-- The wait that holds a context after its bundle, but for one that has only given up the issue slot (R331, R374). -/
def heldBy (c : Ctx) : Option Wait :=
  match c.status with
  | .waiting .sill true => none
  | .waiting w true => some w
  | _ => none

/-- A context stopped by a trap; one that has ended stays so (R251). -/
def stopped (tr : Option Bool) (hold : Option Wait) (e : Event) (c : Ctx) : Ctx :=
  match c.status with
  | .ended => { c with boundary := [] }
  | _ => { c with status := .trapped tr hold, event := some e, boundary := [] }

/-- The contexts as a trap leaves them; raising a deferred copy fault clears its reason (R214, R251). -/
def stoppedState (id : Nat) (e : Event) (s : State) : State :=
  let s := updCtx id (stopped (trappedIn (ctxOf s id)) (heldBy (ctxOf s id)) e) s
  if (e.cause = 0x10 ∨ e.cause = 0x0A) ∧ !e.fetch then
    updCtx id (fun c => { c with reasons := tset 0 e.val 0 c.reasons }) s else s

/-- A trap of a task context stops it, posts its event and frees the issue slot (R251, R254). -/
theorem takeTrap_eq {id : Nat} (h : id % 5 ≠ 4) (e : Event) (s : State) :
    takeTrap id e s = dropSlot id (postEvent (id / 5) e (stoppedState id e s)) := by
  rw [takeTrap, if_neg h]
  rfl

theorem stoppedState_parts (id : Nat) (e : Event) (s : State) : (stoppedState id e s).parts = s.parts := by
  unfold stoppedState
  split <;> rfl

theorem stoppedState_cores (id : Nat) (e : Event) (s : State) : (stoppedState id e s).cores = s.cores := by
  unfold stoppedState
  split <;> rfl

theorem ctxOf_stoppedState (id : Nat) (e : Event) (s : State) : ∃ r, ctxOf (stoppedState id e s) id =
    { stopped (trappedIn (ctxOf s id)) (heldBy (ctxOf s id)) e (ctxOf s id) with reasons := r } := by
  simp only [stoppedState]
  split <;> simp only [ctxOf_updCtx_same] <;> exact ⟨_, rfl⟩

section
variable {id : Nat} (h : id % 5 ≠ 4) (e : Event) (s : State)
include h

/-- The context a trap leaves, but for the reason it clears. -/
theorem ctxOf_takeTrap : ∃ r, ctxOf (takeTrap id e s) id =
    { stopped (trappedIn (ctxOf s id)) (heldBy (ctxOf s id)) e (ctxOf s id) with reasons := r } := by
  rw [takeTrap_eq h, (selectorOnly_dropSlot ..).ctxOf]
  exact ctxOf_stoppedState id e s

theorem takeTrap_boundary : (ctxOf (takeTrap id e s) id).boundary = [] := by
  obtain ⟨r, hr⟩ := ctxOf_takeTrap h e s
  rw [hr]
  unfold stopped
  split <;> rfl

theorem takeTrap_ended (he : (ctxOf s id).status = .ended) : (ctxOf (takeTrap id e s) id).status = .ended := by
  obtain ⟨r, hr⟩ := ctxOf_takeTrap h e s
  simp [hr, stopped, he]

theorem takeTrap_ready (hs : (ctxOf s id).status = .ready) : ∃ r, ctxOf (takeTrap id e s) id =
    { ctxOf s id with status := .trapped none none, event := some e, boundary := [], reasons := r } := by
  obtain ⟨r, hr⟩ := ctxOf_takeTrap h e s
  refine ⟨r, ?_⟩
  simp [hr, stopped, trappedIn, heldBy, hs]

theorem takeTrap_parts : (takeTrap id e s).parts = s.parts := by
  rw [takeTrap_eq h, (selectorOnly_dropSlot ..).parts]
  exact stoppedState_parts id e s

/-- The core of the trap: its event behind those pending, and its selector anew. -/
theorem takeTrap_core : ∃ x, coreOf (takeTrap id e s) (id / 5) = { coreOf s (id / 5) with
    sup := { (coreOf s (id / 5)).sup with events := (coreOf s (id / 5)).sup.events ++ [e] }, sel := x } := by
  obtain ⟨x, hx⟩ := (selectorOnly_dropSlot id (postEvent (id / 5) e (stoppedState id e s))).core (id / 5)
  refine ⟨x, ?_⟩
  rw [takeTrap_eq h, hx, postEvent, coreOf_updCore_same, coreOf, stoppedState_cores, ← coreOf]

end

end Sys2Proof.Safety

/-! SUPPORT. The boundary causes of a context (R250, R253, R345). -/

namespace Sys2Proof.Safety

open Sys2Proof Sys2Proof.Machine

/-- The place of a boundary cause in the order of R250: the causes listed, any other, TRAP. -/
theorem boundaryRank_eq (k : Nat) :
    boundaryRank k = if k = 0x0F then 5 else [0x09, 0x04, 0x05, 0x0B].findIdx (· == k) := by
  unfold boundaryRank
  split <;> simp_all [List.findIdx_cons, beq_eq_decide, eq_comm]

/-- A ready context takes the first of its boundary causes (R250). -/
theorem boundaryTrap_ready {id : Nat} {s : State} (hr : (ctxOf s id).status = .ready)
    (hb : (ctxOf s id).boundary ≠ []) :
    ∃ e ∈ (ctxOf s id).boundary, (∀ x ∈ (ctxOf s id).boundary, boundaryRank e.cause ≤ boundaryRank x.cause) ∧
      boundaryTrap id s = takeTrap id { e with va := bundleVa (ctxOf s id) }
        (if e.cause = 0x09 then killByTrap id (bundleVa (ctxOf s id)) 0x09 s else s) := by
  obtain ⟨e, he⟩ := exists_leastBy (key := fun e : Event => boundaryRank e.cause) hb
  refine ⟨e, leastBy_mem he, leastBy_le he, ?_⟩
  have hp : pendCause id (ctxOf s id) = [] := by simp [pendCause, hr]
  simp [boundaryTrap, isFrozen, hr, hp, he]

/-- What a TRAP raises: the illegal-instruction cause in a delay bundle (R345). -/
theorem exec_trap {f : SSyl} {s : State} (hwf : (Instr.trap f).wf = true) (h31 : bits f.imm 31 31 = 0)
    (hx : Executes f (cur s)) (hd : inDelay (cur s) = false) :
    exec (.trap f) s = .next (if isSuper s = true then fenceCore s.core s else noteBoundary (curId s)
      { cause := 0x0F, slot := s.slot, async := true, fetch := false, detail := 0, va := 0, syl := 15
        val := bits f.imm 30 0 } s) := by
  have h : f.imm.getLsbD 31 = false := by
    rw [getLsbD_eq_fld, ← bits_eq_fld f.imm 31 31, h31]
    rfl
  exact scalarStep_on (encRaises_wf hwf) hx.1 hx.2 (by simp only [hd, h]; rfl) rfl

theorem trap_in_delay {f : SSyl} {s : State} (hwf : (Instr.trap f).wf = true) (h31 : bits f.imm 31 31 = 0)
    (hd : inDelay (cur s) = true) : Traps (.trap f) s .s (plain 0x01) := by
  have h : f.imm.getLsbD 31 = false := by
    rw [getLsbD_eq_fld, ← bits_eq_fld f.imm 31 31, h31]
    rfl
  refine syllableStep_raise ?_
  simp only [scalarRaises, encRaises_wf hwf, h, hd, Bool.not_false, Bool.and_self, Bool.false_and, chk_true, chk_false,
    List.nil_append, List.append_nil, ite_self, List.cons_append]
  exact firstRaise_illegal _ fun r hr => by rw [(mem_chk.mp hr).2]; decide

/-- Where bit 31 is clear, IMM[30:0] is the whole immediate. -/
theorem bits_30_eq_toNat {imm : BitVec 32} (h : bits imm 31 31 = 0) : bits imm 30 0 = imm.toNat := by
  have := imm.isLt
  rw [bits_eq_fld] at h ⊢
  simp only [fld] at h ⊢
  omega

/-- Settles O26: a TRAP notes its cause, and of the causes noted the one of least rank is taken; a memory error has ended
the task before its trap is taken. -/
theorem trapsAndBoundaryCausesAreTakenInOrder : Obligations.TrapsAndBoundaryCausesAreTakenInOrder := by
  constructor
  · intro f s hwf h31
    refine ⟨fun hx hd hs => issuesTo_of_updCur (f := fun c => { c with boundary := c.boundary ++ _ }) ?_,
      trap_in_delay hwf h31, fun hx hd hs => ⟨_, exec_trap hwf h31 hx hd, ?_⟩⟩
    · rw [exec_trap hwf h31 hx hd, bits_30_eq_toNat h31, isSuper, if_neg (by simpa using hs)]
      rfl
    · rw [isSuper, if_pos (by simpa using hs)]
      exact fenceCore_fenced ..
  · intro s id hid hr hb order place t
    obtain ⟨e, he, hle, ht⟩ := boundaryTrap_ready hr hb
    replace ht : t = _ := ht
    have hplace : ∀ x : Event, place x = boundaryRank x.cause := fun x => (boundaryRank_eq x.cause).symm
    refine ⟨e, { e with va := bundleVa (ctxOf s id) }, he, fun x hx => ?_, rfl, rfl, rfl, rfl, ?_, ?_, fun h9 => ?_,
      fun h9 n x hn hx hst hm => ?_⟩
    · rw [hplace, hplace]
      exact hle x hx
    · rw [ht, takeTrap_boundary hid]
    · obtain ⟨x, hx⟩ := takeTrap_core hid { e with va := bundleVa (ctxOf s id) }
        (if e.cause = 0x09 then killByTrap id (bundleVa (ctxOf s id)) 0x09 s else s)
      rw [ht, hx]
      exact ⟨_, rfl⟩
    · rw [if_neg h9] at ht
      obtain ⟨r, hc⟩ := takeTrap_ready hid { e with va := bundleVa (ctxOf s id) } s hr
      rw [ht, hc]
      exact ⟨rfl, rfl⟩
    · rw [if_pos h9] at ht
      obtain ⟨hended, htask⟩ := killByTrap_bound (va := bundleVa (ctxOf s id)) (cause := 0x09) hn hx hst hm
      rw [ht, takeTrap_ended hid _ _ hended, taskOf_eq_of_parts (takeTrap_parts hid ..), htask]
      exact ⟨rfl, _, rfl, rfl, rfl⟩

end Sys2Proof.Safety

/-! SUPPORT. What the registers of a context hold after a result has landed (R72, R74, R222). -/

namespace Sys2Proof.Machine

theorem getLsbD_setBit {n : Nat} (x : BitVec n) (i : Nat) (b : Bool) {j : Nat} (hj : j < n) :
    (setBit x i b).getLsbD j = if j = i then b else x.getLsbD j := by
  have hbit : (BitVec.ofNat n (2 ^ i)).getLsbD j = decide (i = j) := by
    rw [BitVec.getLsbD_ofNat, Nat.testBit_two_pow, decide_eq_true hj, Bool.true_and]
  unfold setBit
  split
  · next hb =>
    rw [BitVec.getLsbD_or, hbit]
    by_cases h : j = i
    · simp [h, hb]
    · simp [h, Ne.symm h]
  · next hb =>
    rw [BitVec.getLsbD_and, BitVec.getLsbD_not, hbit]
    by_cases h : j = i
    · simp [h, hb]
    · simp [h, Ne.symm h, hj]

/-- A table after a write that only happens unless `p`. -/
theorem tget_unless {α : Type} [DecidableEq α] (d v : α) (p : Prop) [Decidable p] (j k : Nat) (m : Sparse α) :
    tget d j (if p then m else tset d k v m) = if j = k ∧ ¬p then v else tget d j m := by
  by_cases hp : p
  · simp [hp]
  · simp [hp, tget_tset]

/-- The bits of a word after a bit of it has been set unless `p`. -/
theorem getLsbD_unless {n : Nat} (x : BitVec n) (p : Prop) [Decidable p] (i : Nat) (b : Bool) {j : Nat} (hj : j < n) :
    (if p then x else setBit x i b).getLsbD j = if j = i ∧ ¬p then b else x.getLsbD j := by
  by_cases hp : p
  · simp only [hp, if_true, not_true_eq_false, and_false, if_false]
  · simp only [hp, if_false, not_false_eq_true, and_true, getLsbD_setBit x i b hj]

/-- A write of a scalar register, field by field. -/
theorem sput_eq (n : Nat) (v : W64) (pois : Bool) (r : Regs) : sput n v pois r =
    { r with s := if n = 0 then r.s else tset 0 n v r.s
             sPois := if n = 0 then r.sPois else setBit r.sPois n pois } := by
  unfold sput
  split <;> rfl

/-- A write of a predicate, field by field. -/
theorem pput_eq (k : Nat) (v : Pred) (pois : Bool) (r : Regs) : pput k v pois r =
    { r with p := if k % 8 = 0 then r.p else tset 0 k v r.p
             pPois := if k % 8 = 0 then r.pPois else setBit r.pPois k pois } := by
  unfold pput
  split <;> rfl

/-- A write of a guard, field by field. -/
theorem gput_eq (n : Nat) (b : Bool) (r : Regs) : gput n b r =
    { r with g := if n = 0 then r.g else setBit r.g n b } := by
  unfold gput
  split <;> rfl

/-- The registers after a result has been written to the one it names. -/
def landRegs (f : Flight) (r : Regs) : Regs :=
  match f.file with
  | .scalar => sput f.reg (f.val.setWidth 64) f.pois r
  | .va => vput f.reg f.val f.pois r
  | .vb => vput (32 + f.reg) f.val f.pois r
  | .pa => pput f.reg (f.val.setWidth 512) f.pois r
  | .pb => pput (8 + f.reg) (f.val.setWidth 512) f.pois r
  | .guard => gput f.reg (f.val.getLsbD 0) r
  | .sys => r

/-- The registers after a value has been presented on its bypass register, if any (R74). -/
def presentOn (byp : Option Nat) (v : Row) (pois : Bool) (r : Regs) : Regs :=
  match byp with
  | some k => { r with byp := tset 0 k v r.byp, bypPois := setBit r.bypPois k pois }
  | none => r

theorem applyFlight_eq (f : Flight) (c : Ctx) : applyFlight f c =
    let ctl := if f.file = .sys then ctlWrite f.reg (f.val.setWidth 64) c.ctl else c.ctl
    { c with
      regs := presentOn f.byp f.val f.pois (landRegs f c.regs)
      ctl := { ctl with flags := ctl.flags ||| f.flags, subst := ctl.subst ||| f.subst } } := rfl

theorem presentOn_eq (byp : Option Nat) (v : Row) (pois : Bool) (r : Regs) : presentOn byp v pois r =
    { r with byp := byp.elim r.byp fun k => tset 0 k v r.byp
             bypPois := byp.elim r.bypPois fun k => setBit r.bypPois k pois } := by
  cases byp <;> rfl

section
variable (f : Flight) (r : Regs)

/-- A landing writes a scalar register and its poison, but not s0. -/
theorem landRegs_scalars {n : Nat} (hn : n < 64) :
    let hit := f.file = .scalar ∧ n = f.reg ∧ n ≠ 0
    tget 0 n (landRegs f r).s = (if hit then f.val.setWidth 64 else tget 0 n r.s) ∧
      (landRegs f r).sPois.getLsbD n = if hit then f.pois else r.sPois.getLsbD n := by
  cases hf : f.file with
  | scalar =>
    have hhit : n = f.reg ∧ ¬f.reg = 0 ↔ n = f.reg ∧ n ≠ 0 := by omega
    simp only [landRegs, hf, sput_eq, tget_unless, getLsbD_unless _ _ _ _ hn, true_and, hhit, and_self]
  | _ => simp only [landRegs, hf, vput, pput_eq, gput_eq, reduceCtorEq, false_and, if_false, and_self]

/-- A landing writes a vector register of its cluster and its poison. -/
theorem landRegs_vectors {n : Nat} (hn : n < 64) :
    let hit := f.file = .va ∧ n = f.reg ∨ f.file = .vb ∧ n = 32 + f.reg
    tget 0 n (landRegs f r).v = (if hit then f.val else tget 0 n r.v) ∧
      (landRegs f r).vPois.getLsbD n = if hit then f.pois else r.vPois.getLsbD n := by
  cases hf : f.file with
  | va | vb =>
    simp only [landRegs, hf, vput, tget_tset, getLsbD_setBit _ _ _ hn, reduceCtorEq, true_and, false_and, or_false,
      false_or, and_self]
  | _ =>
    simp only [landRegs, hf, sput_eq, pput_eq, gput_eq, reduceCtorEq, false_and, or_false, if_false, and_self]

/-- A landing writes a predicate of its cluster and its poison, but not pa0 and pb0. -/
theorem landRegs_preds {n : Nat} (hn : n < 16) :
    let hit := n % 8 ≠ 0 ∧ (f.file = .pa ∧ n = f.reg ∨ f.file = .pb ∧ n = 8 + f.reg)
    tget 0 n (landRegs f r).p = (if hit then f.val.setWidth 512 else tget 0 n r.p) ∧
      (landRegs f r).pPois.getLsbD n = if hit then f.pois else r.pPois.getLsbD n := by
  cases hf : f.file with
  | pa =>
    have hhit : n = f.reg ∧ ¬f.reg % 8 = 0 ↔ n % 8 ≠ 0 ∧ n = f.reg := by omega
    simp only [landRegs, hf, pput_eq, tget_unless, getLsbD_unless _ _ _ _ hn, reduceCtorEq, true_and, false_and,
      or_false, hhit, and_self]
  | pb =>
    have hhit : n = 8 + f.reg ∧ ¬(8 + f.reg) % 8 = 0 ↔ n % 8 ≠ 0 ∧ n = 8 + f.reg := by omega
    simp only [landRegs, hf, pput_eq, tget_unless, getLsbD_unless _ _ _ _ hn, reduceCtorEq, true_and, false_and,
      false_or, hhit, and_self]
  | _ =>
    simp only [landRegs, hf, sput_eq, vput, gput_eq, reduceCtorEq, false_and, or_false, and_false, if_false, and_self]

/-- A landing writes a guard, but not g0. -/
theorem landRegs_guards {n : Nat} (hn : n < 32) : (landRegs f r).g.getLsbD n =
    if f.file = .guard ∧ n = f.reg ∧ n ≠ 0 then f.val.getLsbD 0 else r.g.getLsbD n := by
  cases hf : f.file with
  | guard =>
    have hhit : n = f.reg ∧ ¬f.reg = 0 ↔ n = f.reg ∧ n ≠ 0 := by omega
    simp only [landRegs, hf, gput_eq, getLsbD_unless _ _ _ _ hn, true_and, hhit]
  | _ => simp only [landRegs, hf, sput_eq, vput, pput_eq, reduceCtorEq, false_and, if_false]

/-- A landing leaves the registers no result lands in. -/
theorem landRegs_rest : (landRegs f r).byp = r.byp ∧ (landRegs f r).tl = r.tl ∧ (landRegs f r).sh = r.sh ∧
    (landRegs f r).gen = r.gen := by
  cases hf : f.file <;> simp only [landRegs, hf, sput_eq, vput, pput_eq, gput_eq, and_self]

end

end Sys2Proof.Machine

/-! SUPPORT. The control registers a SYSW writes, as numbers (R73, R87, R96, R108, R140). -/

namespace Sys2Proof.Safety

open Sys2Proof Sys2Proof.Machine

/-- What a format register keeps of a word: all but its low 13 bits (R87). -/
theorem fmKept_eq (v : W64) : fmKept (v.setWidth 32) = BitVec.ofNat 32 (v.toNat % 2 ^ 32 / 2 ^ 13 * 2 ^ 13) := by
  have hmask : ∀ j < 32, (0xFFFFE000#32).getLsbD j = decide (13 ≤ j) := by decide
  have hshift : fmKept (v.setWidth 32) = (v.setWidth 32 >>> 13) <<< 13 := by
    refine BitVec.eq_of_getLsbD_eq fun j hj => ?_
    rw [fmKept, BitVec.getLsbD_and, hmask j hj, BitVec.getLsbD_shiftLeft, BitVec.getLsbD_ushiftRight]
    by_cases h : 13 ≤ j
    · simp [h, hj, show 13 + (j - 13) = j by omega]
    · simp [h, show j < 13 by omega]
  apply BitVec.eq_of_toNat_eq
  rw [hshift, BitVec.toNat_shiftLeft, BitVec.toNat_ushiftRight, BitVec.toNat_setWidth, BitVec.toNat_ofNat,
    Nat.shiftLeft_eq, Nat.shiftRight_eq_div_pow]

/-- A word put in the place of another in a number: the parts above and below stand. -/
theorem replace_word (x v P : Nat) :
    x - x / P % 2 ^ 64 * P + v * P = P * (2 ^ 64 * (x / P / 2 ^ 64) + v) + x % P := by
  have hx := Nat.div_add_mod x P
  have hq := Nat.div_add_mod (x / P) (2 ^ 64)
  generalize x / P / 2 ^ 64 = d at *
  generalize x / P % 2 ^ 64 = m at *
  generalize x % P = r at *
  rw [← hx, ← hq]
  have h : P * (2 ^ 64 * d + m) + r = m * P + (P * (2 ^ 64 * d) + r) := by ring
  rw [h, Nat.add_sub_cancel_left]
  ring

/-- A write of one word of SAM (R73). -/
theorem samWrite_eq (x : BitVec 256) (v : W64) (k : Nat) :
    (x &&& ~~~((BitVec.allOnes 64).setWidth 256 <<< (64 * k))) ||| (v.setWidth 256 <<< (64 * k)) =
      BitVec.ofNat 256 (x.toNat - x.toNat / 2 ^ (64 * k) % 2 ^ 64 * 2 ^ (64 * k) + v.toNat * 2 ^ (64 * k)) := by
  refine BitVec.eq_of_getLsbD_eq fun j hj => ?_
  rw [replace_word, BitVec.getLsbD_ofNat, Nat.testBit_two_pow_mul_add _ (Nat.mod_lt _ (by positivity)),
    Nat.testBit_two_pow_mul_add _ v.isLt, Nat.testBit_mod_two_pow, Nat.testBit_div_two_pow, Nat.testBit_div_two_pow]
  simp only [BitVec.getLsbD_or, BitVec.getLsbD_and, BitVec.getLsbD_not, BitVec.getLsbD_shiftLeft,
    BitVec.getLsbD_setWidth, BitVec.getLsbD_allOnes, BitVec.testBit_toNat, hj, decide_true, Bool.true_and]
  by_cases h1 : j < 64 * k
  · simp [h1]
  · by_cases h2 : j - 64 * k < 64
    · simp [h1, h2, show j - 64 * k < 256 by omega]
    · have hv : v.getLsbD (j - 64 * k) = false := BitVec.getLsbD_of_ge v _ (by omega)
      simp [h1, h2, hv, show j - 64 * k - 64 + 64 + 64 * k = j by omega]

/-- A write of a control register takes the bits that are its own (R87, R96, R108, R140). -/
theorem ctlWrite_eq_ctlAfter (n : Nat) (v : W64) (c : Ctl) : ctlWrite n v c = ctlAfter n v.toNat c := by
  have hbits (w : Nat) : v.setWidth w = BitVec.ofNat w v.toNat := (BitVec.ofNat_toNat w v).symm
  have hsam := samWrite_eq c.sam v
  unfold ctlAfter
  split
  case h_2 =>
    by_cases h : 1 ≤ v.toNat ∧ v.toNat ≤ 3
    · rw [if_pos (by omega), ← hbits]
      exact if_pos h
    · rw [if_neg (by omega)]
      exact if_neg h
  case h_4 =>
    have hmode : rmodeKept (v.setWidth 3) =
        if v.toNat % 8 = 6 ∨ v.toNat % 8 = 7 then 0 else BitVec.ofNat 3 v.toNat := by
      rw [rmodeKept, hbits, BitVec.toNat_ofNat]
      exact if_congr (by omega) rfl rfl
    rw [← hmode]
    rfl
  case h_7 => exact congrArg ({ c with sam := · }) (hsam 0)
  case h_8 => exact congrArg ({ c with sam := · }) (hsam 1)
  case h_9 => exact congrArg ({ c with sam := · }) (hsam 2)
  case h_10 => exact congrArg ({ c with sam := · }) (hsam 3)
  case h_11 _ h2 h8 h9 hA hB hC h24 h25 h26 h27 =>
    by_cases h : 0x10 ≤ n ∧ n ≤ 0x17
    · simp only [ctlWrite, h, and_self, if_true, fmKept_eq]
    · have h' : ¬(0x24 ≤ n ∧ n ≤ 0x27) := by
        rintro ⟨hlo, hhi⟩
        interval_cases n
        exacts [h24 rfl, h25 rfl, h26 rfl, h27 rfl]
      simp only [ctlWrite, h, h', if_false]
  all_goals
    simp only [ctlWrite, hbits, Nat.reduceLeDiff, false_and, if_false]
/-- A result that lands leaves its context as the statements say. -/
theorem lands_applyFlight (f : Flight) (c : Ctx) : Lands f c (applyFlight f (removeFlight f.seq c)) := by
  rw [applyFlight_eq]
  constructor
  case scalars =>
    intro n hn
    obtain ⟨hval, hpois⟩ := landRegs_scalars f c.regs hn
    simp only [sget, spois, presentOn_eq, removeFlight, hval, hpois]
    by_cases h0 : n = 0
    · simp [h0]
    · simp [h0, bne_iff_ne.mpr h0]
  case vectors =>
    intro n hn hit
    obtain ⟨hval, hpois⟩ := landRegs_vectors f c.regs hn
    simp only [vget, presentOn_eq, removeFlight, hval, hpois]
    exact ⟨fun h => ⟨if_pos h, if_pos h⟩, fun h => ⟨if_neg h, if_neg h⟩⟩
  case preds =>
    intro n hn hit
    obtain ⟨hval, hpois⟩ := landRegs_preds f c.regs hn
    simp only [pget, ppois, presentOn_eq, removeFlight, hval, hpois]
    refine ⟨fun h => ?_, fun h => ?_⟩
    · rw [if_neg h.1, if_pos h, if_pos h, bne_iff_ne.mpr h.1]
      exact ⟨rfl, rfl⟩
    · rw [if_neg h, if_neg h]
      exact ⟨rfl, rfl⟩
  case guards =>
    intro n hn
    simp only [gget, presentOn_eq, removeFlight, landRegs_guards f c.regs hn]
    by_cases h0 : n = 0
    · simp [h0]
    · simp [h0, beq_eq_false_iff_ne.mpr h0]
  case bypass =>
    intro k
    simp only [presentOn_eq, removeFlight, (landRegs_rest f c.regs).1]
    cases f.byp with
    | none => rfl
    | some j => simp only [Option.elim_some, tget_tset, Option.some.injEq, eq_comm]
  case ctl =>
    simp only [removeFlight, ctlWrite_eq_ctlAfter, BitVec.toNat_setWidth]
  case fly => rfl
  case rest =>
    obtain ⟨-, htl, hsh, hgen⟩ := landRegs_rest f c.regs
    rw [presentOn_eq]
    exact ⟨rfl, htl, hsh, hgen⟩

/-- Settles O41: the landing that is due is the least in the order of R74, and leaves its context as `Lands` says. -/
theorem resultsLandInTheirRegister : Obligations.ResultsLandInTheirRegister := by
  constructor
  · intro s id f hdue _ _ _
    have hexec : exec (.resultLanding id) s = .next (updCtx id (fun c => applyFlight f (removeFlight f.seq c)) s) := by
      simp only [exec, execResultLanding, hdue]
    refine ⟨_, hexec, frame_updCtx .., ?_⟩
    rw [ctxOf_updCtx_same]
    exact lands_applyFlight f _
  · intro c f g hdue hf hg hmem hland
    have hle := leastBy_le hdue g (List.mem_append_left _ (List.mem_filter.mpr ⟨hmem, by simpa using hland⟩))
    by_cases hfs : f.file = .sys <;> by_cases hgs : g.file = .sys <;>
      simp [hfs, hgs] at hle ⊢ <;> omega

end Sys2Proof.Safety

/-! SUPPORT. The application of semaphore updates (R211 to R213, R338). -/

namespace Sys2Proof.Safety

open Sys2Proof Sys2Proof.Machine

theorem semPut_semq (i : Nat) (v : BitVec 16) (k : Core) : (semPut i v k).semq = k.semq := by
  unfold semPut
  split <;> rfl

/-- The semaphores after a write of one: sm0 discards it (R211). -/
theorem tget_semPut (i : Nat) (v : BitVec 16) (k : Core) (j : Nat) :
    tget 0 j (semPut i v k).sems = if j = i ∧ j ≠ 0 then v else tget 0 j k.sems := by
  have hhit : j = i ∧ ¬i = 0 ↔ j = i ∧ j ≠ 0 := by omega
  rw [← if_congr hhit rfl rfl, ← tget_unless, semPut]
  split <;> rfl

theorem sourcePlace_eq_semOrder (s : State) (u : SemUpd) : sourcePlace s u = semOrder s u := rfl

theorem isBridge_iff (u : SemUpd) : u.isBridge = true ↔ ∃ d, u.src = .doorbell d := by
  unfold SemUpd.isBridge
  split <;> simp_all

/-- The updates of a core from which the next is taken (R212). -/
theorem mem_dueList {s : State} {core : Nat} {b : Bool} {u : SemUpd} :
    u ∈ ((coreOf s core).semq.filter fun u =>
      u.isBridge == b && decide (u.due ≤ now s) && u.rel.isEmpty && u.stores.isEmpty) ↔
    u ∈ (coreOf s core).semq ∧ u.isBridge = b ∧ isDue s u := by
  simp [isDue, and_assoc]

/-- The update taken is due, and of the first source in the order of R212. -/
theorem firstDue_spec {s : State} {core : Nat} {b : Bool} {u : SemUpd} (h : firstDue s core b = some u) :
    u ∈ (coreOf s core).semq ∧ u.isBridge = b ∧ isDue s u ∧
      ∀ w ∈ (coreOf s core).semq, w.isBridge = b → isDue s w → sourcePlace s u ≤ sourcePlace s w := by
  obtain ⟨hmem, hb, hdue⟩ := mem_dueList.mp (leastBy_mem h)
  exact ⟨hmem, hb, hdue, fun w hw hwb hwd => leastBy_le h w (mem_dueList.mpr ⟨hw, hwb, hwd⟩)⟩

/-- Where no update of its kind is due, none is taken (R212). -/
theorem firstDue_eq_none {s : State} {core : Nat} {b : Bool}
    (h : ∀ u ∈ (coreOf s core).semq, u.isBridge = b → ¬isDue s u) : firstDue s core b = none := by
  rw [firstDue, leastBy_eq_none_iff, List.eq_nil_iff_forall_not_mem]
  intro u hu
  obtain ⟨hmem, hb, hdue⟩ := mem_dueList.mp hu
  exact h u hmem hb hdue

theorem exists_firstDue {s : State} {core : Nat} {b : Bool} {u : SemUpd} (hu : u ∈ (coreOf s core).semq)
    (hb : u.isBridge = b) (hdue : isDue s u) : ∃ w, firstDue s core b = some w :=
  exists_leastBy (List.ne_nil_of_mem (mem_dueList.mpr ⟨hu, hb, hdue⟩))

/-- A core's semaphores hold what an update leaves: `new` in semaphore `i`, every other as it was; sm0 keeps its 0. -/
def SemLeft (i : Nat) (new : BitVec 16) (k k' : Core) : Prop :=
  k'.semq = k.semq ∧ ∀ j, tget 0 j k'.sems = if j = i ∧ j ≠ 0 then new else tget 0 j k.sems

theorem semLeft_semPut (i : Nat) (v : BitVec 16) (k : Core) : SemLeft i v k (semPut i v k) :=
  ⟨semPut_semq .., tget_semPut i v k⟩

theorem semLeft_self {i : Nat} {v : BitVec 16} {k : Core} (h : i = 0 ∨ tget 0 i k.sems = v) : SemLeft i v k k := by
  refine ⟨rfl, fun j => ?_⟩
  split
  · next hj => obtain rfl | rfl := h <;> simp_all
  · rfl

/-- An add past 0xFFFF (R213). -/
def PastLimit (k : Core) (u : SemUpd) (n : Nat) : Prop :=
  u.idx ≠ 0 ∧ n ≠ 0 ∧ 0xFFFF < (semGet k u.idx).toNat + n

/-- An add that stays in range changes its semaphore alone. -/
theorem semAdd_in_range {s : State} {core : Nat} {u : SemUpd} {n : Nat} (h : ¬PastLimit (coreOf s core) u n) :
    Frame [] [core] [] s (semAdd core u n s) ∧
      SemLeft u.idx (BitVec.ofNat 16 ((semGet (coreOf s core) u.idx).toNat + n)) (coreOf s core)
        (coreOf (semAdd core u n s) core) := by
  unfold semAdd
  split
  · next h0 =>
    refine ⟨.refl .., semLeft_self ?_⟩
    obtain h0 | rfl := h0
    · exact .inl h0
    · by_cases hi : u.idx = 0
      · exact .inl hi
      · exact .inr (by simp [semGet, hi])
  · next h0 =>
    obtain ⟨hi, hn⟩ := not_or.mp h0
    rw [if_neg fun hv => h ⟨hi, hn, hv⟩, coreOf_updCore_same]
    exact ⟨frame_updCore .., semLeft_semPut ..⟩

theorem semAdd_past {s : State} {core : Nat} {u : SemUpd} {n : Nat} (h : PastLimit (coreOf s core) u n) :
    semAdd core u n s = semOverflow core u s := by
  obtain ⟨hi, hn, hv⟩ := h
  unfold semAdd
  rw [if_neg (not_or.mpr ⟨hi, hn⟩), if_pos hv]

/-- A count of the error log changes no context and no core (R266). -/
theorem countErr_stands (p k : Nat) (s : State) : (countErr p k s).ctxs = s.ctxs ∧ (countErr p k s).cores = s.cores := by
  simp only [countErr]
  split
  · split <;> exact ⟨rfl, rfl⟩
  · exact ⟨rfl, rfl⟩

/-- An overflow of an update that no context's instruction sent only leaves a record (R213). -/
theorem semOverflow_logged {s : State} {core : Nat} {u : SemUpd}
    (h : (∃ g, u.src = .gateway g) ∨ ∃ d, u.src = .doorbell d) :
    (∀ j, ctxOf (semOverflow core u s) j = ctxOf s j) ∧ ∀ k, coreOf (semOverflow core u s) k = coreOf s k := by
  unfold semOverflow
  obtain ⟨x, hx⟩ | ⟨x, hx⟩ := h <;> rw [hx] <;>
    refine ⟨fun j => (ctxOf_logErr ..).trans ?_, fun k => (coreOf_logErr ..).trans ?_⟩
  all_goals simp only [ctxOf, coreOf, (countErr_stands _ _ s).1, (countErr_stands _ _ s).2]

/-- The state once an update has left the queue. -/
def dequeued (core : Nat) (u : SemUpd) (s : State) : State :=
  updCore core (fun k => { k with semq := k.semq.filter fun x => x.id != u.id }) s

theorem takeUpdate_eq (core : Nat) (u : SemUpd) (s : State) :
    takeUpdate core u s = applyUpdate core u (dequeued core u s) := rfl

theorem frame_dequeued (core : Nat) (u : SemUpd) (s : State) : Frame [] [core] [] s (dequeued core u s) :=
  frame_updCore ..

theorem coreOf_dequeued (core : Nat) (u : SemUpd) (s : State) : coreOf (dequeued core u s) core =
    { coreOf s core with semq := (coreOf s core).semq.filter fun x => x.id != u.id } := coreOf_updCore_same ..

theorem ctxOf_dequeued (core : Nat) (u : SemUpd) (s : State) (j : Nat) : ctxOf (dequeued core u s) j = ctxOf s j := rfl

/-- What an instruction that applies `u` leaves of a core: the queue without it, and its semaphore. -/
theorem semLeft_of_dequeued {core : Nat} {u : SemUpd} {new : BitVec 16} {s t : State}
    (h : SemLeft u.idx new (coreOf (dequeued core u s) core) (coreOf t core)) :
    (coreOf t core).semq = (coreOf s core).semq.filter (fun x => x.id != u.id) ∧
      ∀ j, tget 0 j (coreOf t core).sems = if j = u.idx ∧ j ≠ 0 then new else tget 0 j (coreOf s core).sems := by
  rw [coreOf_dequeued] at h
  exact h

/-- SEMAPHORE_UPDATE_APPLY applies the update that is due (R212). -/
theorem exec_apply {s : State} {core : Nat} {u : SemUpd} (h : dueUpdate s core = some u) :
    exec (.semaphoreUpdateApply core) s = .next (applyUpdate core u (dequeued core u s)) := by
  simp only [exec, execSemaphoreUpdateApply, h, takeUpdate_eq]

/-- A context that has been given the result of an SFAA or SCAS (R338). -/
def given (u : SemUpd) (reg : Nat) (v : BitVec 16) (c : Ctx) : Ctx :=
  { c with fly := { c.fly with flights := c.fly.flights ++ [semResult c u reg v] } }

theorem landSem_eq (core : Nat) (u : SemUpd) (reg : Nat) (v : BitVec 16) (s : State) :
    landSem core u reg v s = updCtx (ctxId core u.slot) (given u reg v) s := rfl

/-- The boundary cause of an overflow (R213, R254). -/
def overflowEvent (core : Nat) (u : SemUpd) (s : State) : Event :=
  { cause := 0x0B, slot := u.slot, async := true, fetch := false, detail := 0
    va := bundleVa (ctxOf s (ctxId core u.slot)), syl := srcSyl u.src, val := u.idx }

/-- An update of a context's own instructions or engines (R212). -/
def OfContext (u : SemUpd) : Prop := u.src = .sy ∨ u.src = .mEngine ∨ ∃ q, u.src = .cpEngine q

/-- The overflow of a context's update is noted and taken at once (R213). -/
theorem semOverflow_eq {s : State} {core : Nat} {u : SemUpd} (h : OfContext u) : semOverflow core u s =
    boundaryTrap (ctxId core u.slot) (noteBoundary (ctxId core u.slot) (overflowEvent core u s)
      (updCtx (ctxId core u.slot) (landBeforeTrap u) s)) := by
  unfold semOverflow overflowEvent
  obtain h | h | ⟨q, h⟩ := h <;> rw [h]

/-- A ready context with no other boundary cause takes the trap of the overflow (R213, R250), after a result of its own
update has landed. -/
theorem semOverflow_traps {s : State} {core : Nat} {u : SemUpd} {c : Ctx} (h : OfContext u) (hslot : u.slot < 4)
    (hc : landBeforeTrap u (ctxOf s (ctxId core u.slot)) = c) (hready : c.status = .ready) (hnone : c.boundary = []) :
    let t := semOverflow core u s
    (coreOf t core).semq = (coreOf s core).semq ∧ (coreOf t core).sems = (coreOf s core).sems ∧
      isTrapped (ctxOf t (ctxId core u.slot)) = true ∧ (ctxOf t (ctxId core u.slot)).regs = c.regs ∧
      ∃ e, (ctxOf t (ctxId core u.slot)).event = some e ∧ e.cause = 0x0B ∧ e.val = u.idx ∧ e.va = bundleVa c := by
  have hid : ctxId core u.slot % 5 ≠ 4 := by simp only [ctxId]; omega
  have hcore : ctxId core u.slot / 5 = core := by simp only [ctxId]; omega
  have heq := semOverflow_eq (s := s) (core := core) h
  generalize hw : noteBoundary .. = w at heq
  have hcw : ctxOf w (ctxId core u.slot) = { c with boundary := [overflowEvent core u s] } := by
    rw [← hw, noteBoundary, ctxOf_updCtx_same, ctxOf_updCtx_same, hc, hnone, List.nil_append]
  have hkw : coreOf w core = coreOf s core := by rw [← hw]; rfl
  have hrw : (ctxOf w (ctxId core u.slot)).status = .ready := by rw [hcw]; exact hready
  obtain ⟨e, he, -, htrap⟩ := boundaryTrap_ready hrw (by rw [hcw]; exact List.cons_ne_nil _ _)
  rw [hcw] at he
  obtain rfl := List.mem_singleton.mp he
  rw [if_neg (show (overflowEvent core u s).cause ≠ 0x09 by simp [overflowEvent])] at htrap
  obtain ⟨r, hctx⟩ := takeTrap_ready hid { overflowEvent core u s with va := bundleVa (ctxOf w (ctxId core u.slot)) } w hrw
  obtain ⟨x, hx⟩ := takeTrap_core hid { overflowEvent core u s with va := bundleVa (ctxOf w (ctxId core u.slot)) } w
  rw [hcore, hkw] at hx
  intro t
  have ht : t = _ := heq.trans htrap
  refine ⟨by rw [ht, hx], by rw [ht, hx], by rw [ht, hctx]; rfl, ?_, _, by rw [ht, hctx], rfl, rfl, ?_⟩
  · rw [ht, hctx, hcw]
  · rw [hcw]
    rfl

/-- An add with no result lands none before its trap (R213). -/
theorem landBeforeTrap_add {u : SemUpd} {n : Nat} (h : u.op = .add n) (c : Ctx) : landBeforeTrap u c = c := by
  unfold landBeforeTrap
  rw [h]

/-- The result of an SFAA lands before its trap (R213). -/
theorem landBeforeTrap_given {u : SemUpd} {n reg : Nat} {v : BitVec 16} {c : Ctx} (h : u.op = .fetchAdd n reg)
    (hready : c.status = .ready) (hseq : ∀ f ∈ c.fly.flights, f.seq ≠ u.seq) :
    landBeforeTrap u (given u reg v c) =
      applyFlight (semResult c u reg v) (removeFlight u.seq (given u reg v c)) := by
  have hfind : (given u reg v c).fly.flights.find? (fun f => f.slow && f.seq == u.seq) = some (semResult c u reg v) := by
    have hold : c.fly.flights.find? (fun f => f.slow && f.seq == u.seq) = none := by
      rw [List.find?_eq_none]
      intro f hf
      simp [hseq f hf]
    simp [given, List.find?_append, hold, semResult]
  have hfrozen : isFrozen (given u reg v c) = false := by simp [isFrozen, given, hready]
  simp only [landBeforeTrap, h, hfind, hfrozen]
  rfl


section
variable {s : State} {core : Nat} {u : SemUpd}

/-- The update once it has left the queue, for an update with a result: the result in flight first, then the semaphore. -/
theorem frame_landSem (reg : Nat) (v : BitVec 16) (s : State) :
    Frame [ctxId core u.slot] [core] [] s (landSem core u reg v s) := by
  rw [landSem_eq]
  exact (frame_updCtx ..).mono (by simp) (by simp) (by simp)

/-- An SFAA in range (R336, R338). -/
theorem fetchAdd_in_range {n reg : Nat} (hop : u.op = .fetchAdd n reg) (h : ¬PastLimit (coreOf s core) u n) :
    let t := applyUpdate core u s
    Frame [ctxId core u.slot] [core] [] s t ∧
      SemLeft u.idx (BitVec.ofNat 16 ((semGet (coreOf s core) u.idx).toNat + n)) (coreOf s core) (coreOf t core) ∧
      ctxOf t (ctxId core u.slot) = given u reg (semGet (coreOf s core) u.idx) (ctxOf s (ctxId core u.slot)) := by
  rw [applyUpdate, hop]
  obtain ⟨hframe, hleft⟩ := semAdd_in_range
    (s := landSem core u reg (semGet (coreOf s core) u.idx) s) (core := core) (u := u) (n := n) h
  refine ⟨(frame_landSem ..).trans (hframe.mono (by simp) (by simp) (by simp)), hleft, ?_⟩
  rw [hframe.ctx _ List.not_mem_nil, landSem_eq, ctxOf_updCtx_same]

/-- An SCAS (R336, R338). -/
theorem cas_applies {e w : BitVec 16} {reg : Nat} (hop : u.op = .cas e w reg) :
    let t := applyUpdate core u s
    let v := semGet (coreOf s core) u.idx
    Frame [ctxId core u.slot] [core] [] s t ∧
      SemLeft u.idx (if v = e then w else v) (coreOf s core) (coreOf t core) ∧
      ctxOf t (ctxId core u.slot) = given u reg v (ctxOf s (ctxId core u.slot)) := by
  rw [applyUpdate, hop]
  by_cases hv : semGet (coreOf s core) u.idx = e
  · simp only [hv, if_true, landSem_eq, coreOf_updCtx, ctxOf_updCtx_same, ctxOf_updCore, coreOf_updCore_same]
    exact ⟨((frame_updCore ..).mono (by simp) (by simp) (by simp)).trans (frame_landSem ..), semLeft_semPut .., trivial⟩
  · simp only [hv, if_false, landSem_eq, coreOf_updCtx, ctxOf_updCtx_same]
    refine ⟨frame_landSem .., semLeft_self ?_, trivial⟩
    by_cases hi : u.idx = 0
    · exact .inl hi
    · exact .inr (by simp [semGet, hi])

end

/-- Settles O51: the update taken is the first in the order of R212; an add in range changes its semaphore alone, and
one past 0xFFFF leaves it and traps its context or leaves a record. -/
theorem semaphoreUpdatesApply : Obligations.SemaphoreUpdatesApply := by
  intro s core k apply
  refine ⟨fun hnone => ?_, ?_, ?_⟩
  · have hd : dueUpdate s core = none := firstDue_eq_none fun v hv hb hdue => by
      obtain ⟨d, hd⟩ | hn := hnone v hv
      · rw [(isBridge_iff v).mpr ⟨d, hd⟩] at hb
        cases hb
      · exact hn hdue
    simp only [apply, exec, execSemaphoreUpdateApply, hd]
  · intro u hu hslot id c v queue leaves gives past
    have hexec := exec_apply hu
    have hv : semGet (coreOf (dequeued core u s) core) u.idx = v := by rw [coreOf_dequeued]; rfl
    have hpast (n : Nat) : PastLimit (coreOf (dequeued core u s) core) u n ↔ past n := by rw [PastLimit, hv]
    obtain ⟨hmem, hbridge, hdue, hle⟩ := firstDue_spec hu
    refine ⟨⟨hmem, hdue, fun w hw hwd hsrc => hle w hw ?_ hwd⟩, ?_, ?_, ?_, ?_, ?_, ?_⟩
    · rw [← Bool.not_eq_true, isBridge_iff]
      exact fun ⟨d, hd⟩ => hsrc d hd
    · intro n hop hin
      obtain ⟨hframe, hleft⟩ := semAdd_in_range (mt (hpast n).mp hin)
      rw [hv] at hleft
      refine ⟨_, hexec, ?_⟩
      rw [applyUpdate, hop]
      exact ⟨(frame_dequeued ..).trans hframe, semLeft_of_dequeued hleft⟩
    · intro x hop
      refine ⟨_, hexec, ?_⟩
      rw [applyUpdate, hop]
      refine ⟨(frame_dequeued ..).trans (frame_updCore ..), semLeft_of_dequeued ?_⟩
      rw [coreOf_updCore_same]
      exact semLeft_semPut ..
    · intro n reg hop hin
      obtain ⟨hframe, hleft, hctx⟩ := fetchAdd_in_range hop (mt (hpast n).mp hin)
      rw [hv] at hleft hctx
      exact ⟨_, hexec, ((frame_dequeued ..).mono (by simp) (by simp) (by simp)).trans hframe,
        semLeft_of_dequeued hleft, hctx⟩
    · intro e w reg hop
      obtain ⟨hframe, hleft, hctx⟩ := cas_applies (s := dequeued core u s) (core := core) hop
      rw [hv] at hleft hctx
      exact ⟨_, hexec, ((frame_dequeued ..).mono (by simp) (by simp) (by simp)).trans hframe,
        semLeft_of_dequeued hleft, hctx⟩
    · intro n hop hp
      have happly : applyUpdate core u (dequeued core u s) = semOverflow core u (dequeued core u s) := by
        rw [applyUpdate, hop]
        exact semAdd_past ((hpast n).mpr hp)
      rw [happly] at hexec
      constructor
      · intro hgw
        obtain ⟨hctx, hcore⟩ := semOverflow_logged (s := dequeued core u s) (core := core) (.inl hgw)
        exact ⟨_, hexec, hctx, by simp only [queue, hcore, coreOf_dequeued, k], by rw [hcore, coreOf_dequeued]⟩
      · intro hsrc h4 hr hb
        obtain ⟨hq, hs, htr, -, he⟩ := semOverflow_traps (s := dequeued core u s) (core := core) hsrc (by omega)
          (landBeforeTrap_add hop _) hr hb
        rw [coreOf_dequeued] at hq hs
        exact ⟨_, hexec, hq, hs, htr, he⟩
    · intro n reg hop hp hsrc h4 hr hb hreg hseq
      have happly : applyUpdate core u (dequeued core u s) =
          semOverflow core u (landSem core u reg v (dequeued core u s)) := by
        rw [applyUpdate, hop, hv]
        exact semAdd_past ((hpast n).mpr hp)
      rw [happly] at hexec
      have hgiven : landBeforeTrap u (ctxOf (landSem core u reg v (dequeued core u s)) id) =
          applyFlight (semResult c u reg v) (removeFlight u.seq (given u reg v c)) := by
        rw [landSem_eq, ctxOf_updCtx_same]
        exact landBeforeTrap_given hop hr hseq
      obtain ⟨hq, hs, htr, hregs, he⟩ := semOverflow_traps (.inl hsrc) (by omega) hgiven hr hb
      rw [landSem_eq, coreOf_updCtx, coreOf_dequeued] at hq hs
      refine ⟨_, hexec, hq, hs, htr, fun j hj => ?_, he⟩
      have hval := (lands_applyFlight (semResult c u reg v) (given u reg v c)).scalars j hj
      rw [sget, hregs, ← sget]
      refine hval.1.trans (if_congr ?_ ?_ rfl)
      · simp [semResult]
      · simp [semResult]
  · intro u d n hu hsrc hop hdue hfirst t v past
    obtain ⟨u', hu'⟩ := exists_firstDue hu ((isBridge_iff u).mpr ⟨d, hsrc⟩) hdue
    obtain ⟨hmem, hbridge, hdue', hle⟩ := firstDue_spec hu'
    obtain ⟨e, he⟩ := (isBridge_iff u').mp hbridge
    obtain rfl : u' = u := by
      refine (hfirst u' hmem hdue' e he).resolve_right fun hlt => ?_
      have := hle u hu ((isBridge_iff u).mpr ⟨d, hsrc⟩) hdue
      simp only [sourcePlace, he, hsrc] at this
      omega
    have ht : t = semAdd core u' n (dequeued core u' s) := by
      simp only [t, takeBridges, hu', takeUpdate_eq, applyUpdate, hop]
    have hv : semGet (coreOf (dequeued core u' s) core) u'.idx = v := by rw [coreOf_dequeued]; rfl
    have hpast : PastLimit (coreOf (dequeued core u' s) core) u' n ↔ past := by rw [PastLimit, hv]
    by_cases hp : past
    · rw [ht, semAdd_past (hpast.mpr hp)]
      obtain ⟨hctx, hcore⟩ := semOverflow_logged (s := dequeued core u' s) (core := core) (.inr ⟨d, hsrc⟩)
      rw [hcore, coreOf_dequeued]
      refine ⟨rfl, hctx, fun j => (if_neg ?_).symm⟩
      exact fun ⟨_, _, hn⟩ => hn hp
    · obtain ⟨hframe, hleft⟩ := semAdd_in_range (mt hpast.mp hp)
      rw [hv, ← ht] at hleft
      rw [← ht] at hframe
      obtain ⟨hq, hs⟩ := semLeft_of_dequeued hleft
      exact ⟨hq, fun j => hframe.ctx j List.not_mem_nil, fun j => (hs j).trans (if_congr (by simp [hp]) rfl rfl)⟩

end Sys2Proof.Safety

/-! SUPPORT. What the LD and SD slots issue (R61 to R64, R307 to R312, R340, R341). -/

namespace Sys2Proof.Machine

@[simp] theorem chkVal_false (k v : Nat) : chkVal false k v = [] := rfl
@[simp] theorem chkVal_true (k v : Nat) : chkVal true k v = [⟨k, 0, v⟩] := rfl

/-- The raise of a tile that carries another tag (R71). -/
def missRaise (t : Option Nat) : List Raise :=
  match t with
  | some t => [⟨0x05, 0, t⟩]
  | none => []

@[simp] theorem missRaise_none : missRaise none = [] := rfl
@[simp] theorem missRaise_some (t : Nat) : missRaise (some t) = [⟨0x05, 0, t⟩] := rfl

/-- What an access raises beside its own bits, in the order of R250: poison, the permission fault of address `a`, the
tile that carries another tag, and the lane collision. -/
def accessRaises (pois bad : Bool) (a : Nat) (miss : Option Nat) (taken : Bool) : List Raise :=
  chk pois 0x06 ++ (chkVal bad 0x08 a ++ (missRaise miss ++ chk taken 0x0E))

/-- The first raise of an access is the first of its list: the list is in the order of R250. -/
theorem firstRaise_accessRaises (pois bad : Bool) (a : Nat) (miss : Option Nat) (taken : Bool) :
    firstRaise (accessRaises pois bad a miss taken) =
      if pois = true then some ⟨0x06, 0, 0⟩
      else if bad = true then some ⟨0x08, 0, a⟩
      else if let some t := miss then some ⟨0x05, 0, t⟩
      else if taken = true then some ⟨0x0E, 0, 0⟩
      else none := by
  cases pois <;> cases bad <;> cases miss <;> cases taken <;> rfl

end Sys2Proof.Machine

namespace Sys2Proof.Safety

open Sys2Proof Sys2Proof.Machine

/-! The address decoding and the hops of the machine are those of the statements. -/

/-- What an address touches, in range or not (R64). -/
def touchAt (kind : LsKind) (col : Bool) (a : Nat) : Touch :=
  let p := Machine.placeOf kind col a
  ⟨p.row, p.rows, p.col, p.sub⟩

theorem touched_eq (kind : LsKind) (col : Bool) (a : Nat) :
    touched kind col a = if (Machine.placeOf kind col a).ok = true then some (touchAt kind col a) else none := by
  have h767 : a ≤ 767 ↔ a < 768 := by omega
  cases kind <;> cases col <;> simp [touched, touchAt, Machine.placeOf, h767]

/-- An access faults: its address is out of range, or not all of its rows are the task's (R64, R68). -/
def accessFaults (kind : LsKind) (f : LSyl) (s : State) : Bool :=
  let p := Machine.placeOf kind (f.am == 1) (lsAddr f (cur s))
  !p.ok || !placeMine s f.blk.toNat p

theorem placeMine_iff (s : State) (blk : Nat) (kind : LsKind) (col : Bool) (a : Nat) :
    placeMine s blk (Machine.placeOf kind col a) = true ↔ ownsRows s blk (touchAt kind col a) := by
  simp [placeMine, rowsMine, ownsRows, touchAt, tileOf, curCore]

theorem lsAddr_eq (f : LSyl) (c : Ctx) : lsAddr f c = lsAddress f c := rfl

theorem accessFaults_iff (kind : LsKind) (f : LSyl) (s : State) : accessFaults kind f s = true ↔
    ∀ x, touched kind (f.am == 1) (lsAddress f (cur s)) = some x → ¬ownsRows s f.blk.toNat x := by
  simp only [accessFaults, touched_eq, Bool.or_eq_true, Bool.not_eq_true', ← Bool.not_eq_true, placeMine_iff,
    lsAddr_eq]
  by_cases h : (Machine.placeOf kind (f.am == 1) (lsAddress f (cur s))).ok = true
  · simp only [h, not_true_eq_false, false_or, if_true, Option.some.injEq, forall_eq']
  · simp only [h, not_false_eq_true, true_or, reduceCtorEq, false_implies, implies_true, Bool.false_eq_true, if_false]

/-- An access that touches rows of the task does not fault, and touches those of its address. -/
theorem accessFaults_eq_false {kind : LsKind} {f : LSyl} {s : State} {x : Touch}
    (hx : touched kind (f.am == 1) (lsAddress f (cur s)) = some x) (hown : ownsRows s f.blk.toNat x) :
    accessFaults kind f s = false ∧ touchAt kind (f.am == 1) (lsAddr f (cur s)) = x := by
  constructor
  · rw [← Bool.not_eq_true, accessFaults_iff]
    exact fun h => h x hx hown
  · rw [touched_eq] at hx
    split at hx
    · exact Option.some.inj hx
    · cases hx

theorem fileStation_lsReg (kind : LsKind) (f : LSyl) : fileStation (lsReg kind f).1 = lsStation kind f := by
  have hcl : ∀ b : BitVec 1, b = 0 ∨ b = 1 := by decide
  obtain h | h := hcl f.cl <;> cases kind <;> simp [lsReg, lsStation, fileStation, landFile, h]

/-- The hops of a legal transfer are the distance on the ring (R61). -/
theorem hops_eq_hopCount {load : Bool} {blk lane st : Nat} (hblk : blk < 8) (hst : st < 16) (hodd : st % 2 = 1)
    (h : hops load blk lane st ≤ 8) : hops load blk lane st = hopCount blk st := by
  unfold hops hopCount at *
  by_cases hl : lane < 8
  · cases load <;> simp only [hl, Bool.false_eq_true, if_true, if_false] at * <;> omega
  · cases load <;> simp only [hl, Bool.false_eq_true, if_true, if_false] at * <;> omega

theorem lsStation_spec (kind : LsKind) (f : LSyl) : lsStation kind f < 16 ∧ lsStation kind f % 2 = 1 := by
  unfold lsStation
  split
  · decide
  · decide
  · split <;> decide

theorem mkLoad_eq_loadOf {kind : LsKind} {spec : Bool} {f : LSyl} {a : Nat} {c : Ctx}
    (h : hops true f.blk.toNat f.lane.toNat (lsStation kind f) ≤ 8) :
    mkLoad kind spec f (Machine.placeOf kind (f.am == 1) a) c = loadOf kind spec f (touchAt kind (f.am == 1) a) c := by
  obtain ⟨hst, hodd⟩ := lsStation_spec kind f
  have hh := hops_eq_hopCount f.blk.isLt hst hodd h
  rw [loadOf, ← hh, ← fileStation_lsReg]
  rfl

theorem mkStore_eq_storeOf {kind : LsKind} {f : LSyl} {a : Nat} {c : Ctx}
    (h : hops false f.blk.toNat f.lane.toNat (lsStation kind f) ≤ 8) :
    mkStore kind f (Machine.placeOf kind (f.am == 1) a) c = storeOf kind f (touchAt kind (f.am == 1) a) c := by
  obtain ⟨hst, hodd⟩ := lsStation_spec kind f
  have hh := hops_eq_hopCount f.blk.isLt hst hodd h
  rw [storeOf, ← hh, ← fileStation_lsReg]
  rfl

/-- The bits of a well-formed LD or SD syllable keep its transfer within 8 hops (R61). -/
theorem hops_le_of_legal {load scalar am pZero dRes : Bool} {f : LSyl}
    (h : (Machine.encL load scalar am pZero dRes f).illegal = false) :
    hops load f.blk.toNat f.lane.toNat (station scalar f.cl) ≤ 8 := by
  simp only [Machine.encL, Bool.or_eq_false_iff, decide_eq_false_iff_not, Nat.not_lt] at h
  exact h.1.2

theorem not_illegal_of_wf {i : Instr} (h : i.wf = true) : (enc i).illegal = false := by
  simp only [Instr.wf, Bool.and_eq_true, Bool.not_eq_true'] at h
  exact h.1.1

/-! The load a syllable issues. -/

/-- Nothing of a load is read from its registers: it lands poisoned zero (R223). -/
def landsZero (kind : LsKind) (sp : Bool) (f : LSyl) (s : State) : Bool :=
  sp && (spois (cur s) f.sb.toNat || accessFaults kind f s)

/-- The load of an LD syllable. -/
def loadIssued (kind : LsKind) (sp : Bool) (f : LSyl) (s : State) : LoadOp :=
  loadOf kind (landsZero kind sp f s) f (touchAt kind (f.am == 1) (lsAddr f (cur s))) (cur s)

/-- The tiles an LD syllable compares (R71). -/
def comparedTiles (kind : LsKind) (sp cmp : Bool) (f : LSyl) (s : State) : List Nat :=
  if cmp && !landsZero kind sp f s && !accessFaults kind f s then
    tilesOf f.blk.toNat (touchAt kind (f.am == 1) (lsAddr f (cur s)))
  else []

/-- What an LD syllable raises beside its own bits. -/
def loadRaises (kind : LsKind) (sp cmp : Bool) (f : LSyl) (s : State) : List Raise :=
  accessRaises (!sp && spois (cur s) f.sb.toNat) (!sp && accessFaults kind f s) (lsAddress f (cur s))
    (tagMismatch (coreOf s s.core) (cur s) (comparedTiles kind sp cmp f s))
    (conflicts (loadClaims (cur s).pos.clk (loadIssued kind sp f s)) (claims s s.core s.slot))

theorem loadStep_eq {i : Instr} {kind : LsKind} {sp cmp : Bool} {f : LSyl} {s : State} (he : encRaises (enc i) = [])
    (h : hops true f.blk.toNat f.lane.toNat (lsStation kind f) ≤ 8) :
    loadStep (enc i) kind sp cmp f s = syllableStep .ld (loadRaises kind sp cmp f s)
      (updCur (loading (loadIssued kind sp f s) (comparedTiles kind sp cmp f s))) s := by
  have hl : mkLoad kind (landsZero kind sp f s) f (Machine.placeOf kind (f.am == 1) (lsAddr f (cur s))) (cur s) =
      loadIssued kind sp f s := mkLoad_eq_loadOf h
  rw [loadRaises, accessRaises, ← hl, ← List.nil_append (chk _ 0x06 ++ _), ← he]
  simp only [← List.append_assoc]
  rfl

/-- An LD-slot instruction is the load step of its kind. -/
theorem exec_load {i : Instr} {kind : LsKind} {sp cmp : Bool} {f : LSyl} {s : State} (hwf : i.wf = true)
    (hk : loadKind i = some (kind, sp, cmp, f)) :
    exec i s = syllableStep .ld (loadRaises kind sp cmp f s)
      (updCur (loading (loadIssued kind sp f s) (comparedTiles kind sp cmp f s))) s := by
  have he := encRaises_wf hwf
  have hl := not_illegal_of_wf hwf
  cases i with
  | ld g | ldSp g | ldc g | lds g | ldsSp g | ldt g =>
    cases hk
    rw [← loadStep_eq he (hops_le_of_legal hl)]
    rfl
  | _ => cases hk

/-- A load with no poison, fault or other tag puts itself in flight, or finds a claim taken. -/
theorem load_flies {i : Instr} {kind : LsKind} {sp cmp : Bool} {f : LSyl} {s : State} {l : LoadOp} {tiles : List Nat}
    (hwf : i.wf = true) (hk : loadKind i = some (kind, sp, cmp, f))
    (hpois : (!sp && spois (cur s) f.sb.toNat) = false) (hbad : (!sp && accessFaults kind f s) = false)
    (hl : loadIssued kind sp f s = l) (ht : comparedTiles kind sp cmp f s = tiles)
    (hmiss : tagMismatch (coreOf s s.core) (cur s) tiles = none) :
    ((!conflicts (loadClaims (cur s).pos.clk l) (claims s s.core s.slot)) = true →
      IssuesTo i s (loading l tiles (cur s))) ∧
    ((!conflicts (loadClaims (cur s).pos.clk l) (claims s s.core s.slot)) = false → Traps i s .ld (plain 0x0E)) := by
  have hraise := firstRaise_accessRaises false false (lsAddress f (cur s)) none
    (conflicts (loadClaims (cur s).pos.clk l) (claims s s.core s.slot))
  have hexec := exec_load (s := s) hwf hk
  rw [loadRaises, hpois, hbad, hl, ht, hmiss] at hexec
  constructor <;> intro hfree
  · rw [Bool.not_eq_true'] at hfree
    rw [hfree] at hraise hexec
    exact issuesTo_of_updCur (hexec.trans (syllableStep_clean ((firstRaise_eq_none _).mp hraise)))
  · rw [Bool.not_eq_false'] at hfree
    rw [hfree] at hraise hexec
    exact hexec.trans (syllableStep_raise hraise)

/-- Settles O38: the raises of a load are in the order of R250, and a load that raises nothing goes in flight. -/
theorem loadsGoInFlight : Obligations.LoadsGoInFlight := by
  intro i s kind sp cmp f hwf hk c a pois free
  have hexec := exec_load (s := s) hwf hk
  have hfirst := firstRaise_accessRaises (!sp && spois (cur s) f.sb.toNat) (!sp && accessFaults kind f s)
    (lsAddress f (cur s)) (tagMismatch (coreOf s s.core) (cur s) (comparedTiles kind sp cmp f s))
    (conflicts (loadClaims (cur s).pos.clk (loadIssued kind sp f s)) (claims s s.core s.slot))
  refine ⟨fun x hx hp hown => ?_, fun hsp hp => ?_, fun hsp hp hbad => ?_, fun hsp hbad => ?_⟩
  · obtain ⟨hok, htouch⟩ := accessFaults_eq_false hx hown
    have hz : landsZero kind sp f s = false := by
      rw [landsZero, hok, show spois (cur s) f.sb.toNat = false from hp, Bool.or_self, Bool.and_false]
    have hl : loadIssued kind sp f s = loadOf kind false f x c := by rw [loadIssued, hz, htouch]
    have ht : comparedTiles kind sp cmp f s = if cmp then tilesOf f.blk.toNat x else [] := by
      rw [comparedTiles, hz, hok, htouch, Bool.not_false, Bool.and_true, Bool.and_true]
    have hpois : (!sp && spois (cur s) f.sb.toNat) = false := by
      rw [show spois (cur s) f.sb.toNat = false from hp, Bool.and_false]
    have hbad : (!sp && accessFaults kind f s) = false := by rw [hok, Bool.and_false]
    refine ⟨fun hm => (load_flies hwf hk hpois hbad hl ht hm).1, fun hm => (load_flies hwf hk hpois hbad hl ht hm).2,
      fun t hm => hexec.trans (syllableStep_raise (hfirst.trans ?_))⟩
    rw [hpois, hbad, ht, show tagMismatch _ (cur s) _ = some t from hm]
    rfl
  · refine hexec.trans (syllableStep_raise (hfirst.trans ?_))
    rw [hsp, show spois (cur s) f.sb.toNat = true from hp]
    rfl
  · refine hexec.trans (syllableStep_raise (hfirst.trans ?_))
    rw [hsp, show spois (cur s) f.sb.toNat = false from hp, (accessFaults_iff kind f s).mpr hbad]
    rfl
  · have hz : landsZero kind sp f s = true := by
      rw [landsZero, hsp, Bool.true_and, Bool.or_eq_true, accessFaults_iff]
      exact hbad
    have hl : loadIssued kind sp f s = loadOf kind true f (touchAt kind (f.am == 1) (lsAddr f c)) c := by
      rw [loadIssued, hz]
    have ht : comparedTiles kind sp cmp f s = [] := by
      rw [comparedTiles, hz, Bool.not_true, Bool.and_false, Bool.false_and]
      rfl
    exact ⟨_, load_flies hwf hk (by rw [hsp]; rfl) (by rw [hsp]; rfl) hl ht rfl⟩

end Sys2Proof.Safety
/-! SUPPORT. The elements of a row and the bits of a byte mask (R63, R65, R81). -/

namespace Sys2Proof.Machine

/-- Bit by bit, an element of a row. -/
theorem testBit_elemAt (cw : Nat) (r : Row) (i k : Nat) :
    (elemAt cw r i).testBit k = (decide (k < cw) && r.getLsbD (cw * i + k)) := by
  rw [elemAt, Nat.testBit_mod_two_pow, BitVec.testBit_toNat, BitVec.getLsbD_ushiftRight]

theorem elemAt_lt (cw : Nat) (r : Row) (i : Nat) : elemAt cw r i < 2 ^ cw := Nat.mod_lt _ (by positivity)

/-- A word moved to the place of an element is that element. -/
theorem elemAt_shiftLeft {n : Nat} (x : BitVec n) {i : Nat} (h : n * i + n ≤ 4096) :
    elemAt n (x.setWidth 4096 <<< (n * i)) i = x.toNat := by
  apply Nat.eq_of_testBit_eq
  intro k
  rw [testBit_elemAt, BitVec.testBit_toNat, BitVec.getLsbD_shiftLeft, BitVec.getLsbD_setWidth, Nat.add_sub_cancel_left]
  by_cases hk : k < n
  · simp [hk, show n * i + k < 4096 by omega, show k < 4096 by omega]
  · simp [hk, BitVec.getLsbD_of_ge x k (by omega)]

/-- The bytes of a byte mask. -/
theorem getLsbD_byteMask (b n : Nat) {j : Nat} (hj : j < 512) :
    (byteMask b n).getLsbD j = decide (b ≤ j ∧ j < b + n) := by
  rw [byteMask, BitVec.getLsbD_ofNat, Nat.testBit_mul_two_pow, Nat.testBit_two_pow_sub_one, Bool.eq_iff_iff]
  simp only [hj, decide_true, Bool.true_and, Bool.and_eq_true, decide_eq_true_eq]
  omega

end Sys2Proof.Machine
/-! SUPPORT. The store an SD syllable issues, and what it reads of its registers in the next cycle (R340, R341). -/

namespace Sys2Proof.Safety

open Sys2Proof Sys2Proof.Machine

/-- The poison of an SD syllable: of its base, of its source or of its mask (R225, R340). -/
def storePois (kind : LsKind) (f : LSyl) (c : Ctx) : Bool :=
  spois c f.sb.toNat || dataPois kind f c || maskPois kind f c

/-- The store of an SD syllable. -/
def storeIssued (kind : LsKind) (f : LSyl) (s : State) : StoreOp :=
  storeOf kind f (touchAt kind (f.am == 1) (lsAddr f (cur s))) (cur s)

/-- What an SD syllable raises beside its own bits. -/
def storeRaises (kind : LsKind) (f : LSyl) (s : State) : List Raise :=
  accessRaises (storePois kind f (cur s)) (accessFaults kind f s) (lsAddress f (cur s)) none
    (conflicts (storeClaims (cur s).pos.clk (storeIssued kind f s)) (claims s s.core s.slot))

theorem storeStep_eq {i : Instr} {kind : LsKind} {f : LSyl} {s : State} (he : encRaises (enc i) = [])
    (h : hops false f.blk.toNat f.lane.toNat (lsStation kind f) ≤ 8) :
    storeStep (enc i) kind f s = syllableStep .sd (storeRaises kind f s) (updCur (storing (storeIssued kind f s))) s := by
  have hw : mkStore kind f (Machine.placeOf kind (f.am == 1) (lsAddr f (cur s))) (cur s) = storeIssued kind f s :=
    mkStore_eq_storeOf h
  rw [storeRaises, accessRaises, ← hw, ← List.nil_append (chk _ 0x06 ++ _), ← he, missRaise_none, List.nil_append]
  simp only [← List.append_assoc]
  rfl

/-- An SD-slot instruction is the store step of its kind. -/
theorem exec_store {i : Instr} {kind : LsKind} {f : LSyl} {s : State} (hwf : i.wf = true)
    (hk : storeKind i = some (kind, f)) :
    exec i s = syllableStep .sd (storeRaises kind f s) (updCur (storing (storeIssued kind f s))) s := by
  have he := encRaises_wf hwf
  have hl := not_illegal_of_wf hwf
  cases i with
  | st g | stc g | sts g | stt g | stz g =>
    cases hk
    rw [← storeStep_eq he (hops_le_of_legal hl)]
    rfl
  | _ => cases hk

/-- What a store reads of its registers is its data from then on (R340). -/
theorem mem_captureStores {c : Ctx} {w : StoreOp} (hw : w ∈ c.fly.stores) (hd : w.data = none) :
    { w with data := some (storeData w c) } ∈ (captureStores c).fly.stores := by
  refine List.mem_map.mpr ⟨w, hw, ?_⟩
  rw [hd]

theorem landFile_eq_one_iff (file : RegFile) : landFile file = 1 ↔ file = .vb ∨ file = .pb := by
  cases file <;> simp [landFile]

/-- The data of a store by its kind (R340, R341). -/
theorem storeData_spec {c : Ctx} {w : StoreOp} {cl : Nat} {d : Row} {m : Pred}
    (hcl : (if landFile w.file = 1 then 1 else 0) = cl) (hdata : storeData w c = (d, m)) :
    (w.kind = .vec → d = vget c (32 * cl + w.reg) ∧ m = pget c (8 * cl + w.mask)) ∧
    (w.kind = .zero → d = 0 ∧ m = pget c (8 * cl + w.mask)) ∧
    (w.kind = .pred → w.sub < 8 → elemAt 512 d w.sub = (pget c (8 * cl + w.reg)).toNat ∧
      ∀ j, j < 512 → m.getLsbD j =
        (decide (64 * w.sub ≤ j ∧ j < 64 * w.sub + 64) && (pget c (8 * cl + w.mask)).getLsbD j)) ∧
    (w.kind = .word → w.sub < 64 → elemAt 64 d w.sub = (sget c w.reg).toNat ∧
      ∀ j, j < 512 → m.getLsbD j = decide (8 * w.sub ≤ j ∧ j < 8 * w.sub + 8)) ∧
    (w.kind = .tag → d.toNat % 2 ^ 16 = (sget c w.reg).toNat % 2 ^ 16) := by
  simp only [storeData, hcl] at hdata
  cases hk : w.kind with
  | vec =>
    rw [hk] at hdata
    obtain ⟨rfl, rfl⟩ := Prod.mk.inj hdata
    simp
  | zero =>
    rw [hk] at hdata
    obtain ⟨rfl, rfl⟩ := Prod.mk.inj hdata
    exact ⟨nofun, fun _ => ⟨rfl, rfl⟩, nofun, nofun, nofun⟩
  | pred =>
    rw [hk] at hdata
    obtain ⟨rfl, rfl⟩ := Prod.mk.inj hdata
    refine ⟨nofun, nofun, fun _ hs => ⟨elemAt_shiftLeft _ (by omega), fun j hj => ?_⟩, nofun, nofun⟩
    rw [BitVec.getLsbD_and, getLsbD_byteMask _ _ hj]
  | word =>
    rw [hk] at hdata
    obtain ⟨rfl, rfl⟩ := Prod.mk.inj hdata
    exact ⟨nofun, nofun, nofun, fun _ hs => ⟨elemAt_shiftLeft _ (by omega), fun j hj => getLsbD_byteMask _ _ hj⟩,
      nofun⟩
  | tag =>
    rw [hk] at hdata
    obtain ⟨rfl, rfl⟩ := Prod.mk.inj hdata
    refine ⟨nofun, nofun, nofun, nofun, fun _ => ?_⟩
    rw [BitVec.toNat_setWidth, Nat.mod_mod_of_dvd _ (Nat.pow_dvd_pow 2 (by omega))]

/-- Settles O39: the raises of a store are in the order of R250, a store that raises nothing goes in flight, and a
capture gives it the data of its kind. -/
theorem storesGoInFlight : Obligations.StoresGoInFlight := by
  constructor
  · intro i s kind f hwf hk c a pois free
    have hexec := exec_store (s := s) hwf hk
    have hfirst := firstRaise_accessRaises (storePois kind f (cur s)) (accessFaults kind f s) (lsAddress f (cur s)) none
      (conflicts (storeClaims (cur s).pos.clk (storeIssued kind f s)) (claims s s.core s.slot))
    refine ⟨fun x hx hp hown => ?_, fun hp => ?_, fun hp hbad => ?_⟩
    · obtain ⟨hok, htouch⟩ := accessFaults_eq_false hx hown
      have hw : storeIssued kind f s = storeOf kind f x c := by rw [storeIssued, htouch]
      rw [storeRaises, show storePois kind f (cur s) = false from hp, hok, hw] at hexec
      rw [show storePois kind f (cur s) = false from hp, hok, hw] at hfirst
      constructor <;> intro hfree
      · rw [(Bool.not_eq_true' _).mp hfree] at hexec hfirst
        exact issuesTo_of_updCur (hexec.trans (syllableStep_clean ((firstRaise_eq_none _).mp hfirst)))
      · rw [(Bool.not_eq_false' _).mp hfree] at hexec hfirst
        exact hexec.trans (syllableStep_raise hfirst)
    · refine hexec.trans (syllableStep_raise (hfirst.trans ?_))
      rw [show storePois kind f (cur s) = true from hp]
      rfl
    · refine hexec.trans (syllableStep_raise (hfirst.trans ?_))
      rw [show storePois kind f (cur s) = false from hp, (accessFaults_iff kind f s).mpr hbad]
      rfl
  · intro c w hw hd cl mask
    have hcl : (if landFile w.file = 1 then 1 else 0) = cl := by simp only [landFile_eq_one_iff, cl]
    exact ⟨_, _, mem_captureStores hw hd, storeData_spec hcl rfl⟩

end Sys2Proof.Safety

/-! SUPPORT. What a read does about the bit errors it meets (R78, R79), and a column that lies beyond its row. -/

namespace Sys2Proof.Safety

open Sys2Proof Sys2Proof.Machine

@[simp] theorem coreOf_logSram (core key word kind c : Nat) (s : State) :
    coreOf (logSram core key word kind s) c = coreOf s c := by
  rw [logSram, coreOf_logErr, coreOf, updMem_cores, coreOf]

theorem coreOf_logSrams (core key : Nat) (kind : Nat → Nat) (c : Nat) (ws : List Nat) (s : State) :
    coreOf (ws.foldl (fun s w => logSram core key w (kind w) s) s) c = coreOf s c := by
  induction ws generalizing s with
  | nil => rfl
  | cons w ws ih => rw [List.foldl_cons, ih, coreOf_logSram]

/-- An uncorrectable error at a scratchpad row without an owner zeroes the row (R79). -/
theorem rowAt_sramUncorrectable {core key : Nat} {s : State} (hkey : key < 6144)
    (hown : rowOwner (coreOf s core) key = none) : rowAt (coreOf (sramUncorrectable core key s) core) key = 0 := by
  rw [sramUncorrectable, hown]
  simp only [updStore, coreOf_updCore_same, rowAt, hkey, if_true, tget_tset_same]

/-- An uncorrectable error leaves every zero row zero. -/
theorem rowAt_sramUncorrectable_zero {core key q : Nat} {s : State} (h : rowAt (coreOf s core) q = 0) :
    rowAt (coreOf (sramUncorrectable core key s) core) q = 0 := by
  rw [sramUncorrectable]
  split
  · exact h
  · simp only [updStore, coreOf_updCore_same, rowAt]
    split
    · rw [tget_tset]
      split
      · rfl
      · exact h
    · exact h

/-- A read leaves every zero row zero. -/
theorem rowAt_readWords_zero {core key lo n q : Nat} {s : State} (h : rowAt (coreOf s core) q = 0) :
    rowAt (coreOf (readWords core key lo n s) core) q = 0 := by
  simp only [readWords]
  split
  · exact rowAt_sramUncorrectable_zero (by rw [coreOf_logSrams, h])
  · rw [coreOf_logSrams, h]

/-- A read that meets an uncorrectable error in a scratchpad row without an owner zeroes the row (R79). -/
theorem rowAt_readWords {core key lo n : Nat} {s : State} (hkey : key < 6144)
    (hbad : ∃ w ∈ badWords (coreOf s core).st key lo n, wordErr (coreOf s core).st key w ≠ 1)
    (hown : rowOwner (coreOf s core) key = none) : rowAt (coreOf (readWords core key lo n s) core) key = 0 := by
  have hany : (badWords (coreOf s core).st key lo n).any (fun w => wordErr (coreOf s core).st key w != 1) = true := by
    simpa using hbad
  simp only [readWords, hany, if_true]
  exact rowAt_sramUncorrectable hkey (by rw [coreOf_logSrams, hown])

/-- The reads of a column's rows leave every zero row zero. -/
theorem rowAt_readColumn_zero {core lo n q : Nat} (keys : List Nat) {s : State} (h : rowAt (coreOf s core) q = 0) :
    rowAt (coreOf (keys.foldl (fun s k => readWords core k lo n s) s) core) q = 0 := by
  induction keys generalizing s with
  | nil => exact h
  | cons k ks ih => exact ih (rowAt_readWords_zero h)

/-- The read ports are no part of a row. -/
theorem rowAt_rdUsed (k : Core) (l : List Nat) (q : Nat) :
    rowAt { k with st := { k.st with rdUsed := l } } q = rowAt k q := rfl

@[simp] theorem rowAt_useRead (core key c q : Nat) (s : State) :
    rowAt (coreOf (useRead core key s) c) q = rowAt (coreOf s c) q := by
  by_cases hc : c = core
  · rw [hc, useRead, updStore, coreOf_updCore_same]
    rfl
  · rw [useRead, updStore, coreOf_updCore_ne hc]

/-- A column read takes its words of the sixteen rows in turn (R65). -/
theorem loadData_column {s : State} {core : Nat} {l : LoadOp} (hkind : l.kind = .vec) (ham : l.am = true) :
    (loadData s core l).2 = useRead core (rowKey l.blk l.row)
      (((List.range 16).map fun i => rowKey l.blk (l.row + i)).foldl (fun s q => readWords core q (4 * l.col) 4 s) s) := by
  rw [loadData, hkind]
  simp only [ham, if_true]

/-- A column read that meets an uncorrectable error in its first row, which has no owner, leaves that row zero. -/
theorem rowAt_loadData_column {s : State} {core : Nat} {l : LoadOp} (hkind : l.kind = .vec) (ham : l.am = true)
    (hrow : rowAt (coreOf (readWords core (rowKey l.blk l.row) (4 * l.col) 4 s) core) (rowKey l.blk l.row) = 0) :
    rowAt (coreOf (loadData s core l).2 core) (rowKey l.blk l.row) = 0 := by
  rw [loadData_column hkind ham, rowAt_useRead, List.range_succ_eq_map, List.map_cons, List.foldl_cons, Nat.add_zero]
  exact rowAt_readColumn_zero _ hrow

namespace BeyondRow

/-- A load in column mode of column 16: the words it reads of each row are those after the row's last. -/
def columnLoad : LoadOp :=
  { kind := .vec, file := .va, reg := 0, blk := 0, row := 0, col := 16, am := true, sub := 0, lane := 0, hop := 0
    spec := false, read := 0, land := 0, data := none, seq := 0 }

/-- A context whose one load is due. -/
def loadingCtx : Ctx :=
  { Ctx.reset with
    pos := { Ctx.reset.pos with clk := 1 }
    fly := { Ctx.reset.fly with loads := [columnLoad] } }

/-- A core whose first row is not zero; the first word of its second row holds an uncorrectable error. -/
def errorCore : Core := { Core.reset with st := { Store.reset with rows := [(0, 1)], ecc := [(64, 2)] } }

/-- The load is due in core 0 of a machine that holds nothing else. -/
def start : State := setCtx 0 loadingCtx (setCore 0 errorCore State.reset)

/-- The state after the row read. -/
def after : State :=
  updCtx 0 (fun c => { c with fly := { c.fly with
    loads := c.fly.loads.map fun x =>
      if x.seq = columnLoad.seq then { x with data := some (loadData start 0 columnLoad).1 } else x } })
    (loadData start 0 columnLoad).2

theorem ctxOf_start : ctxOf start 0 = loadingCtx := ctxOf_setCtx_same _ _ _

theorem coreOf_start : coreOf start 0 = errorCore :=
  (coreOf_setCtx ..).trans (tget_tset_same Core.reset errorCore 0 [])

theorem dueRead_start : dueRead (ctxOf start 0) = some columnLoad := by
  rw [ctxOf_start]
  rfl

theorem exec_start : exec (.timedLoadRowRead 0) start = .next after := by
  change execTimedLoadRowRead 0 start = _
  rw [execTimedLoadRowRead, dueRead_start]
  rfl

/-- The column read takes the error of the second row for one of the first, and zeroes the first. -/
theorem rowAt_after : rowAt (coreOf after 0) 0 = 0 := by
  have hread : rowAt (coreOf (readWords 0 0 64 4 start) 0) 0 = 0 := by
    refine rowAt_readWords (by omega) ?_ ?_ <;> rw [coreOf_start]
    · exact ⟨64, by decide, by decide⟩
    · decide
  rw [after, coreOf_updCtx]
  exact rowAt_loadData_column rfl rfl hread

theorem rowAt_start : rowAt (coreOf start 0) 0 = 1 := by
  rw [coreOf_start]
  rfl

end BeyondRow

/-- Refutes O40: nothing bounds the column of a load. One of column 16 reads the words after each row's last, of which
the hypothesis on errors says nothing; here the first of them holds an uncorrectable error, and its row is zeroed. -/
theorem not_timedAccessesReadAndWriteTheirBytes : ¬ Obligations.TimedAccessesReadAndWriteTheirBytes := by
  intro h
  obtain ⟨d, ⟨t, hexec, _, hcore, _, _⟩, _⟩ := h.1 BeyondRow.start 0 BeyondRow.columnLoad BeyondRow.dueRead_start
    (fun _ j w _ hw hcol => absurd (hcol ⟨rfl, rfl⟩).1 (by simp only [BeyondRow.columnLoad]; omega)) (Or.inl rfl)
  obtain rfl : t = BeyondRow.after := by
    rw [BeyondRow.exec_start] at hexec
    exact (Host.Outcome.next.inj hexec).symm
  have hrow : rowAt (coreOf BeyondRow.after (0 / 5)) 0 = rowAt (coreOf BeyondRow.start (0 / 5)) 0 :=
    (congrArg (fun k => rowAt k 0) hcore).trans (rowAt_rdUsed ..)
  rw [Nat.zero_div, BeyondRow.rowAt_after, BeyondRow.rowAt_start] at hrow
  exact absurd (congrArg (·.getLsbD 0) hrow) (by simp)

end Sys2Proof.Safety

/-! SUPPORT. Rows of elements, and the flights of a result (R74, R81, R105, R346). -/

namespace Sys2Proof.Machine

/-- Bit by bit, the elements of a packed number. -/
theorem testBit_packElems (cw : Nat) (l : List Nat) (i : Nat) {k : Nat} (hk : k < cw) :
    (packElems cw l).testBit (cw * i + k) = (l.getD i 0).testBit k := by
  induction l generalizing i with
  | nil => simp [packElems]
  | cons x xs ih =>
    rw [packElems, Nat.add_comm (x % 2 ^ cw), Nat.testBit_two_pow_mul_add _ (Nat.mod_lt _ (by positivity))]
    cases i with
    | zero => simp [hk]
    | succ i =>
      rw [if_neg (by rw [Nat.mul_succ]; omega), show cw * (i + 1) + k - cw = cw * i + k by rw [Nat.mul_succ]; omega, ih,
        List.getD_cons_succ]

/-- An element of a row of elements (R81). -/
theorem elemAt_rowOf {cw i : Nat} (l : List Nat) (h : cw * (i + 1) ≤ 4096) :
    elemAt cw (rowOf cw l) i = l.getD i 0 % 2 ^ cw := by
  apply Nat.eq_of_testBit_eq
  intro k
  rw [testBit_elemAt, Nat.testBit_mod_two_pow, rowOf, BitVec.getLsbD_ofNat]
  by_cases hk : k < cw
  · have hlt : cw * i + k < 4096 := by rw [Nat.mul_succ] at h; omega
    simp [hk, hlt, testBit_packElems]
  · simp [hk]

/-- Element `i` of the sequence of every k-th element from `j` is element `i * k + j`. -/
theorem getElem?_stride {α : Type} {k j : Nat} (hj : j < k) (l : List α) (i : Nat) :
    (stride k j l)[i]? = l[i * k + j]? := by
  induction l generalizing i j with
  | nil => simp [stride]
  | cons x xs ih =>
    cases j with
    | zero =>
      cases i with
      | zero => simp [stride]
      | succ i =>
        rw [stride, List.getElem?_cons_succ, ih (by omega), show (i + 1) * k + 0 = i * k + (k - 1) + 1 by
          rw [Nat.succ_mul]; omega, List.getElem?_cons_succ]
    | succ j => rw [stride, ih (by omega), ← Nat.add_assoc, List.getElem?_cons_succ]

/-- The containers of R81. -/
theorem container_cases (fm : Fmt) : fm.container = 4 ∨ fm.container = 8 ∨ fm.container = 16 ∨ fm.container = 32 := by
  rw [Fmt.container, containerOf]
  split
  · exact .inl rfl
  · split
    · exact .inr (.inl rfl)
    · split
      · exact .inr (.inr (.inl rfl))
      · exact .inr (.inr (.inr rfl))

end Sys2Proof.Machine

namespace Sys2Proof.Safety

open Sys2Proof Sys2Proof.Machine

/-- Flights join those of a context in order. -/
def putFlights (fs : List Flight) (c : Ctx) : Ctx :=
  { c with fly := { c.fly with
    flights := c.fly.flights ++ fs.zipIdx.map fun x => { x.1 with seq := c.fly.seq + x.2 }
    seq := c.fly.seq + fs.length } }

/-- The flight that `launch` puts in a context, its place in the issue order still to be given. -/
def launched (file : RegFile) (reg : Nat) (val : Row) (pois : Bool) (flags : FlagSet) (subst : BitVec 16)
    (byp : Option Nat) (land : Nat) : Flight :=
  { file := file, reg := reg, val := val, pois := pois, flags := if pois then 0 else flags
    subst := if pois then 0 else subst, byp := byp, land := land, slow := false, seq := 0 }

theorem launch_eq_putFlights (file : RegFile) (reg : Nat) (val : Row) (pois : Bool) (flags : FlagSet)
    (subst : BitVec 16) (byp : Option Nat) (lat : Nat) (c : Ctx) : launch file reg val pois flags subst byp lat c =
      putFlights [launched file reg val pois flags subst byp (c.pos.clk + lat - 1)] c := rfl

theorem putFlights_append (fs gs : List Flight) (c : Ctx) :
    putFlights gs (putFlights fs c) = putFlights (fs ++ gs) c := by
  have hz : gs.zipIdx fs.length = gs.zipIdx.map fun x => (x.1, fs.length + x.2) := List.zipIdx_eq_map_add
  simp only [putFlights, List.append_assoc, List.zipIdx_append, List.map_append, Nat.zero_add, List.length_append,
    Nat.add_assoc, hz, List.map_map]
  rfl

theorem drop_putFlights (fs : List Flight) (c : Ctx) : (putFlights fs c).fly.flights.drop c.fly.flights.length =
    fs.zipIdx.map fun x => { x.1 with seq := c.fly.seq + x.2 } := List.drop_left

/-- The flights of a vector result: the flags, the bits of SUBST and the bypass go with the first (R105). -/
def rowFlights (cl : Cluster) (d : Nat) (byp : Option Nat) (o : VOut) (land : Nat) : List Flight :=
  o.rows.zipIdx.map fun x =>
    if x.2 = 0 then launched (clFile cl) d x.1 o.pois o.flags o.subst (byp.map (8 * clNum cl + ·)) land
    else launched (clFile cl) (d + x.2) x.1 o.pois 0 0 none land

theorem landRows_eq (cl : Cluster) (d : Nat) (byp : Option Nat) (lat : Nat) (o : VOut) (c : Ctx) :
    landRows cl d byp lat o c = putFlights (rowFlights cl d byp o (c.pos.clk + lat - 1)) c := by
  have hlater (l : List (Row × Nat)) : ∀ c : Ctx,
      l.foldl (fun c x => launch (clFile cl) (d + x.2) x.1 o.pois 0 0 none lat c) c =
        putFlights (l.map fun x => launched (clFile cl) (d + x.2) x.1 o.pois 0 0 none (c.pos.clk + lat - 1)) c := by
    induction l with
    | nil => exact fun c => by simp [putFlights]
    | cons x l ih =>
      intro c
      rw [List.foldl_cons, ih, launch_eq_putFlights, putFlights_append]
      rfl
  cases hrows : o.rows with
  | nil => simp [landRows, rowFlights, hrows, putFlights]
  | cons r rs =>
    have hpos : ∀ x ∈ rs.zipIdx 1, x.2 ≠ 0 := fun x hx => by
      have := List.le_snd_of_mem_zipIdx hx
      omega
    simp only [landRows, rowFlights, hrows, hlater]
    rw [launch_eq_putFlights, putFlights_append, List.zipIdx_cons, List.map_cons, if_pos rfl, Nat.zero_add,
      List.map_congr_left fun x hx => if_neg (hpos x hx)]
    rfl

/-- The flight of register `j` of a vector result: `row` gives the registers. -/
def groupFlight (cl : Cluster) (d : Nat) (byp : Option Nat) (o : VOut) (land seq : Nat) (row : Nat → Row) (j : Nat) :
    Flight :=
  { file := clFile cl, reg := d + j, val := row j, pois := o.pois
    flags := if j ≠ 0 ∨ o.pois = true then 0 else o.flags
    subst := if j ≠ 0 ∨ o.pois = true then 0 else o.subst
    byp := if j ≠ 0 then none else byp.map (8 * clNum cl + ·), land := land, slow := false, seq := seq + j }

/-- The flights of a result over `k` registers. -/
def groupFlights (cl : Cluster) (d : Nat) (byp : Option Nat) (o : VOut) (land seq k : Nat) (row : Nat → Row) :
    List Flight := (List.range k).map (groupFlight cl d byp o land seq row)

theorem zipIdx_map_range {α : Type} (g : Nat → α) (k : Nat) :
    ((List.range k).map g).zipIdx = (List.range k).map fun j => (g j, j) := by
  refine List.ext_getElem (by simp) fun j h _ => ?_
  simp

/-- A result of rows `row 0` to `row (k - 1)` goes in flight register by register; nothing else changes. -/
theorem landRows_group {cl : Cluster} {d lat k : Nat} {byp : Option Nat} {o : VOut} {row : Nat → Row}
    (hrows : o.rows = (List.range k).map row) (c : Ctx) :
    landRows cl d byp lat o c = { c with fly := { c.fly with
      flights := c.fly.flights ++ groupFlights cl d byp o (c.pos.clk + lat - 1) c.fly.seq k row
      seq := c.fly.seq + k } } := by
  have hfs : (rowFlights cl d byp o (c.pos.clk + lat - 1)).zipIdx.map (fun x => { x.1 with seq := c.fly.seq + x.2 }) =
      groupFlights cl d byp o (c.pos.clk + lat - 1) c.fly.seq k row := by
    rw [rowFlights, hrows, zipIdx_map_range, List.map_map, zipIdx_map_range, List.map_map]
    refine List.map_congr_left fun j _ => ?_
    by_cases hj : j = 0
    · subst hj
      cases hp : o.pois <;> simp [groupFlight, launched, hp]
    · cases hp : o.pois <;> simp [groupFlight, launched, hj, hp]
  rw [landRows_eq, putFlights, hfs, rowFlights, hrows, List.length_map, List.length_zipIdx, List.length_map,
    List.length_range]

end Sys2Proof.Safety
/-! SUPPORT. An element-wise result delivers its row (R105, R346, R347). -/

namespace Sys2Proof.Safety

open Sys2Proof Sys2Proof.Machine

/-- Two element results are the same in a container of `cw` bits. -/
def SameElem (cw : Nat) (x y : Nat × FlagSet) : Prop := x.1 % 2 ^ cw = y.1 % 2 ^ cw ∧ x.2 = y.2

theorem SameElem.of_eq {cw : Nat} {x y : Nat × FlagSet} (h : x = y) : SameElem cw x y := h ▸ ⟨rfl, rfl⟩

theorem vElems_getD {n i : Nat} (hi : i < n) (p : Pred) (z : Bool) (old : Nat → Nat) (g : Nat → Nat × FlagSet) :
    (vElems n p z old g)[i]? = some (if govBit n p i then g i else (if z then 0 else old i, 0)) := by
  simp [vElems, hi]

/-- The poison of a result (R224). -/
def rowPois (r : VecRow) (c : Ctx) : Bool :=
  r.pois || govPois c r.cl r.f.p.toNat ||
    (r.f.z != 1 && ((List.range r.n).any fun i => !govBit r.n (govPred c r.cl r.f.p.toNat) i) &&
      (List.range r.k).any fun j => srcRowPois c r.cl (r.f.d.toNat + j))

/-- The context with the generator a row leaves (R101). -/
def withGen (cl : Cluster) (g : Option Row) (c : Ctx) : Ctx :=
  { c with regs := { c.regs with gen := match g with
    | some g => tset 0 (clNum cl) g c.regs.gen
    | none => c.regs.gen } }

/-- A result as `vResult` computes it, whatever its poison, whose elements are those of a row. -/
structure Computes (r : VecRow) (c : Ctx) (o : VOut) : Prop where
  one_le : 0 < r.k
  count : r.n = r.k * (4096 / r.dst.container)
  group : r.f.d.toNat + r.k ≤ 32
  out : ∃ srcs g, o = { vResult c r.cl r.f r.k r.n r.dst.container srcs r.subst g with pois := rowPois r c } ∧
    ∀ i, i < r.n → SameElem r.dst.container (g i) (r.elem i)

section
variable {r : VecRow} {c : Ctx} {o : VOut} {g : Nat → Nat × FlagSet}

/-- The elements of register `j` of a result. -/
def groupRow (r : VecRow) (c : Ctx) (g : Nat → Nat × FlagSet) (j : Nat) : Row :=
  rowOf r.dst.container ((stride r.k j (vElems r.n (govPred c r.cl r.f.p.toNat) (r.f.z == 1)
    (groupElem c r.cl r.f.d.toNat r.k r.dst.container) g)).map (·.1))

/-- Result `i` stands at element `i / k` of register `i mod k`, kept or zero where it is not active (R105, R346). -/
theorem elemAt_groupRow (hk : 0 < r.k) (hn : r.n = r.k * (4096 / r.dst.container)) (hd : r.f.d.toNat + r.k ≤ 32)
    {i : Nat} (hi : i < r.n) : elemAt r.dst.container (groupRow r c g (i % r.k)) (i / r.k) =
      if govBit r.n (govPred c r.cl r.f.p.toNat) i then (g i).1 % 2 ^ r.dst.container
      else if r.f.z = 1 then 0
      else elemAt r.dst.container (vget c (32 * clNum r.cl + (r.f.d.toNat + i % r.k))) (i / r.k) := by
  have hj := Nat.mod_lt i hk
  have hplace : i / r.k < 4096 / r.dst.container := Nat.div_lt_of_lt_mul (hn ▸ hi)
  have hfits : r.dst.container * (i / r.k + 1) ≤ 4096 :=
    (Nat.mul_le_mul_left _ hplace).trans (Nat.mul_div_le ..)
  have hat : i / r.k * r.k + i % r.k = i := Nat.div_add_mod' i r.k
  have hcode : r.f.d.toNat + i % r.k < 32 := by omega
  rw [groupRow, elemAt_rowOf _ hfits, List.getD_eq_getElem?_getD, List.getElem?_map, getElem?_stride hj, hat,
    vElems_getD hi, Option.map_some, Option.getD_some]
  by_cases hact : govBit r.n (govPred c r.cl r.f.p.toNat) i = true
  · rw [if_pos hact, if_pos hact]
  · rw [if_neg hact, if_neg hact]
    by_cases hz : r.f.z = 1
    · simp [hz]
    · rw [if_neg (by simpa using hz), if_neg hz, groupElem, srcRow, if_pos hcode, Nat.mod_eq_of_lt (elemAt_lt ..)]

/-- The flags of a result are those of its active elements. -/
theorem flagsUnion_vElems {n : Nat} {p : Pred} {z : Bool} {old : Nat → Nat} {e : Nat → Nat × FlagSet}
    (h : ∀ i, i < n → (g i).2 = (e i).2) : flagsUnion ((vElems n p z old g).map (·.2)) =
      flagsUnion ((List.range n).map fun i => if govBit n p i then (e i).2 else 0) := by
  rw [vElems, List.map_map]
  refine congrArg flagsUnion (List.map_congr_left fun i hi => ?_)
  have := h i (List.mem_range.mp hi)
  by_cases hact : govBit n p i = true
  · simp [hact, this]
  · simp [hact]

/-- The context with a generator left and flights joined to its own. -/
def withFlights (cl : Cluster) (gen : Option Row) (fs : List Flight) (k : Nat) (c : Ctx) : Ctx :=
  { withGen cl gen c with fly := { c.fly with flights := c.fly.flights ++ fs, seq := c.fly.seq + k } }

theorem drop_withFlights (cl : Cluster) (gen : Option Row) (fs : List Flight) (k : Nat) (c : Ctx) :
    (withFlights cl gen fs k c).fly.flights.drop c.fly.flights.length = fs := List.drop_left

theorem withFlights_rest (cl : Cluster) (gen : Option Row) (fs : List Flight) (k : Nat) (c : Ctx) :
    withFlights cl gen fs k c = { c with
      fly := { c.fly with
        flights := c.fly.flights ++ (withFlights cl gen fs k c).fly.flights.drop c.fly.flights.length
        seq := c.fly.seq + k }
      regs := { c.regs with gen := match gen with
        | some g => tset 0 (clNum cl) g c.regs.gen
        | none => c.regs.gen } } := by
  rw [drop_withFlights]
  rfl

theorem landRows_withGen {cl : Cluster} {d lat k : Nat} {byp : Option Nat} {o : VOut} {row : Nat → Row}
    (hrows : o.rows = (List.range k).map row) (gen : Option Row) (c : Ctx) :
    landRows cl d byp lat o (withGen cl gen c) =
      withFlights cl gen (groupFlights cl d byp o (c.pos.clk + lat - 1) c.fly.seq k row) k c :=
  landRows_group hrows _

theorem any_pois_groupFlights {cl : Cluster} {d land seq k : Nat} {byp : Option Nat} {row : Nat → Row} (hk : 0 < k) :
    (groupFlights cl d byp o land seq k row).any (·.pois) = o.pois := by
  rw [Bool.eq_iff_iff, List.any_eq_true]
  simp only [groupFlights, List.mem_map, List.mem_range]
  constructor
  · rintro ⟨_, ⟨j, _, rfl⟩, hp⟩
    exact hp
  · exact fun hp => ⟨_, ⟨0, hk, rfl⟩, hp⟩

/-- A computed result goes in flight as its row says. -/
theorem Computes.elementsFly (h : Computes r c o) :
    ElementsFly r c (landRows r.cl r.f.d.toNat (some r.byp) r.lat o (withGen r.cl r.gen c)) := by
  obtain ⟨hk, hn, hd, srcs, g, ho, helem⟩ := h
  have hpois : o.pois = rowPois r c := by rw [ho]
  have hflags : o.flags = flagsUnion ((List.range r.n).map fun i =>
      if govBit r.n (govPred c r.cl r.f.p.toNat) i then (r.elem i).2 else 0) := by
    rw [ho]
    exact flagsUnion_vElems fun i hi => (helem i hi).2
  have hsubst : o.subst = if (List.range r.n).any (govBit r.n (govPred c r.cl r.f.p.toNat)) then r.subst else 0 := by
    rw [ho]
    rfl
  have hrows : o.rows = (List.range r.k).map (groupRow r c g) := by
    rw [ho]
    rfl
  rw [landRows_withGen hrows]
  refine ⟨?_, fun i hi x => ?_, fun x => ?_, ?_, withFlights_rest ..⟩ <;> rw [drop_withFlights, groupFlights]
  case refine_1 =>
    rw [List.map_map]
    rfl
  case refine_2 =>
    rw [List.getElem?_map, List.getElem?_range (Nat.mod_lt i hk), Option.map_some, Option.some.injEq]
    rintro rfl
    rw [groupFlight, elemAt_groupRow hk hn hd hi, (helem i hi).1]
  case refine_3 =>
    rw [List.mem_map]
    rintro ⟨j, _, rfl⟩
    exact hpois
  case refine_4 =>
    rw [← groupFlights, any_pois_groupFlights hk, groupFlights, List.map_map, ← hflags, ← hsubst]
    refine List.map_congr_left fun j _ => ?_
    by_cases hj : j = 0
    · cases hp : o.pois <;> simp [groupFlight, hj, hp]
    · simp [groupFlight, hj]

end

end Sys2Proof.Safety
/-! SUPPORT. Vector syllables that raise nothing, and what they draw (R101, R347, R348). -/

namespace Sys2Proof.Safety

open Sys2Proof Sys2Proof.Machine

section
variable {i : Instr} {s : State} {cl : Cluster} {f : VSyl}

/-- A vector syllable that raises nothing changes its own context alone. -/
theorem answers_vecStep {raises : State → List Raise} {eff : Ctx → Ctx} {P : Ctx → Prop} (hwf : i.wf = true)
    (hexec : exec i s = vecStep cl (enc i) raises eff s) (hr : raises s = []) (hP : P (eff (cur s))) :
    Answers i s fun t => Frame [curId s] [] [] s t ∧ P (ctxOf t (curId s)) := by
  refine ⟨updCur eff s, ?_, frame_updCtx .., ?_⟩
  · rw [hexec, vecStep, hr, List.append_nil, syllableStep_clean (encRaises_wf hwf)]
  · rw [updCur, ctxOf_updCtx_same]
    exact hP

/-- The statement of an element-wise vector instruction: its row is in flight. -/
def DeliversRow (i : Instr) (s : State) (r : VecRow) : Prop :=
  Answers i s fun t => Frame [curId s] [] [] s t ∧ ElementsFly r (cur s) (ctxOf t (curId s))

theorem vResult_computes {r : VecRow} {c : Ctx} {g : Nat → Nat × FlagSet} (hk : 0 < r.k)
    (hn : r.n = r.k * (4096 / r.dst.container)) (hd : r.f.d.toNat + r.k ≤ 32)
    (helem : ∀ i, i < r.n → SameElem r.dst.container (g i) (r.elem i)) :
    Computes r c (vResult c r.cl r.f r.k r.n r.dst.container r.pois r.subst g) :=
  ⟨hk, hn, hd, r.pois, g, rfl, helem⟩

/-- An instruction without draws delivers the row it computes. -/
theorem delivers_vecOp {bad : Ctx → Bool} {r : VecRow} {out : Ctx → VOut} (hwf : i.wf = true)
    (hexec : exec i s = vecOp r.cl (enc i) r.f bad (some r.byp) r.lat out s) (hbad : bad (cur s) = false)
    (hgen : r.gen = none) (hout : Computes r (cur s) (out (cur s))) : DeliversRow i s r := by
  refine answers_vecStep hwf hexec ((chk_eq_nil ..).mpr hbad) ?_
  have := hout.elementsFly
  rwa [hgen] at this

theorem getElem?_genSteps (n j : Nat) (g : Row) :
    (genSteps n g)[j]? = if j < n then some (genAfter (j + 1) g) else none := by
  induction n generalizing j g with
  | zero => simp [genSteps]
  | succ n ih =>
    cases j with
    | zero => simp [genSteps, genAfter]
    | succ j =>
      rw [genSteps, List.getElem?_cons_succ, ih]
      simp only [Nat.succ_lt_succ_iff]
      rfl

theorem length_genSteps (n : Nat) (g : Row) : (genSteps n g).length = n := by
  induction n generalizing g with
  | zero => rfl
  | succ n ih => rw [genSteps, List.length_cons, ih]

/-- The draws of `n` results leave the generator that many rows on (R101). -/
theorem setGen_drawRows {c : Ctx} {n : Nat} (hn : 0 < n) :
    setGen cl (drawRows c cl f.m n) c = withGen cl (drawnGen c cl f n) c := by
  have hmode : modeOf c f.m = roundMode c f := rfl
  rw [drawRows, drawnGen, hmode]
  by_cases h : roundMode c f = 5
  · have hlast : (genSteps (ceilDiv n 128) (genOf c cl)).getLast? = some (genAfter ((n + 127) / 128) (genOf c cl)) := by
      rw [List.getLast?_eq_getElem?, length_genSteps, getElem?_genSteps, ceilDiv, if_pos (by omega),
        show (n + 128 - 1) / 128 - 1 + 1 = (n + 127) / 128 by omega]
    rw [if_pos h, if_pos h, setGen, hlast]
    rfl
  · rw [if_neg h, if_neg h]
    rfl

/-- Result `i` of a syllable is rounded under its own draw (R96, R101). -/
theorem vRnd_drawRows {c : Ctx} {n i : Nat} (hi : i < n) :
    vRnd c f.m (drawRows c cl f.m n) i = roundingOf c cl f i := by
  have hmode : modeOf c f.m = roundMode c f := rfl
  rw [vRnd, roundingOf, drawRows, hmode]
  by_cases h : roundMode c f = 5
  · rw [if_pos h, if_pos h, drawAt, getElem?_genSteps, ceilDiv, if_pos (by omega)]
    rfl
  · rw [if_neg h, if_neg h]
    rfl

/-- An instruction that rounds its `n` results delivers the row it computes. -/
theorem delivers_vecRound {bad floats : Ctx → Bool} {count : Ctx → Nat} {r : VecRow} {out : Ctx → (Nat → Rnd) → VOut}
    (hwf : i.wf = true)
    (hexec : exec i s = vecRound r.cl (enc i) r.f bad floats count (some r.byp) r.lat out s)
    (hbad : bad (cur s) = false) (hcount : count (cur s) = r.n) (hn : 0 < r.n)
    (hgen : r.gen = if floats (cur s) then drawnGen (cur s) r.cl r.f r.n else none)
    (hout : ∀ rnd : Nat → Rnd, (floats (cur s) = true → ∀ i, i < r.n → rnd i = roundingOf (cur s) r.cl r.f i) →
      (∀ i, rnd i = { roundingOf (cur s) r.cl r.f i with draw := (rnd i).draw }) →
      Computes r (cur s) (out (cur s) rnd)) : DeliversRow i s r := by
  refine answers_vecStep hwf hexec ((chk_eq_nil ..).mpr hbad) ?_
  have hsame (gs : List Row) (i : Nat) : vRnd (cur s) r.f.m gs i =
      { roundingOf (cur s) r.cl r.f i with draw := (vRnd (cur s) r.f.m gs i).draw } := rfl
  simp only [hcount]
  by_cases hf : floats (cur s) = true
  · rw [if_pos hf] at hgen
    rw [if_pos hf, setGen_drawRows hn, ← hgen]
    exact (hout _ (fun _ i hi => vRnd_drawRows hi) (hsame _)).elementsFly
  · rw [if_neg hf] at hgen
    rw [if_neg hf]
    have := (hout _ (fun h => absurd h hf) (hsame [])).elementsFly
    rwa [hgen] at this

theorem pos_elements (fm : Fmt) : 0 < 4096 / fm.container := by
  obtain h | h | h | h := container_cases fm <;> rw [h] <;> decide

/-- A row on type T is computed when its elements are. -/
theorem rowT_computes {c : Ctx} {nsrc lat byp : Nat} {draws p : Bool} {elem : Nat → Nat → Nat → Nat → Nat × FlagSet}
    {g : Nat → Nat × FlagSet}
    (helem : ∀ i, i < 4096 / (typeFmt f.t.toNat).container → SameElem (typeFmt f.t.toNat).container (g i)
      ((rowT c cl f nsrc lat byp draws elem).elem i)) :
    Computes { rowT c cl f nsrc lat byp draws elem with pois := p } c
      (vResult c cl f 1 (4096 / (typeFmt f.t.toNat).container) (typeFmt f.t.toNat).container p 0 g) :=
  vResult_computes (r := { rowT c cl f nsrc lat byp draws elem with pois := p }) Nat.one_pos (Nat.one_mul _).symm
    (by change f.d.toNat + 1 ≤ 32; omega) helem

/-- The sources of an element-wise instruction, whose poison its result takes. -/
theorem pois_rowT {c : Ctx} {nsrc lat byp : Nat} {draws : Bool} {elem : Nat → Nat → Nat → Nat → Nat × FlagSet}
    (hns : nsrc = 1 ∨ nsrc = 2 ∨ nsrc = 3) : (rowT c cl f nsrc lat byp draws elem).pois =
      (srcRowPois c cl f.a.toNat || (decide (nsrc ≥ 2) && srcRowPois c cl f.b.toNat) ||
        (decide (nsrc ≥ 3) && srcRowPois c cl f.c.toNat)) := by
  obtain rfl | rfl | rfl := hns <;> simp [rowT, Bool.or_assoc]

/-- An element-wise instruction on type T is computed when its function of the sources' elements is that of its row. -/
theorem vSame_computes {c : Ctx} {nsrc lat byp : Nat} {draws : Bool}
    {elem g : Nat → Nat → Nat → Nat → Nat × FlagSet} (hns : nsrc = 1 ∨ nsrc = 2 ∨ nsrc = 3)
    (helem : ∀ i, i < 4096 / (typeFmt f.t.toNat).container → ∀ a b d, a < 2 ^ (typeFmt f.t.toNat).container →
      b < 2 ^ (typeFmt f.t.toNat).container → d < 2 ^ (typeFmt f.t.toNat).container →
      SameElem (typeFmt f.t.toNat).container (g i a b d) (elem i a b d)) :
    Computes (rowT c cl f nsrc lat byp draws elem) c (vSame c cl f nsrc g) := by
  rw [vSame, ← pois_rowT (lat := lat) (byp := byp) (draws := draws) (elem := elem) hns]
  exact rowT_computes (nsrc := nsrc) fun i hi => helem i hi _ _ _ (elemAt_lt ..) (elemAt_lt ..) (elemAt_lt ..)

end

end Sys2Proof.Safety

/-! SUPPORT. The element functions of vector arithmetic, in whole numbers and in values (R82, R104, R349 to R353). -/

namespace Sys2Proof.Safety

open Sys2Proof Sys2Proof.Machine

/-! ## The types -/

theorem typeFmt_int {t : Nat} (h : t < 8) : typeFmt t = .int (decide (t < 4)) (4 * 2 ^ (t % 4)) := by
  interval_cases t <;> rfl

theorem typeFmt_float {t : Nat} (h : 8 ≤ t) (h' : t ≤ 10) : ∃ g ∈ vectorFloats, typeFmt t = .flt g := by
  interval_cases t
  · exact ⟨f32, by decide, rfl⟩
  · exact ⟨bf16, by decide, rfl⟩
  · exact ⟨f16, by decide, rfl⟩

/-- The integer types are those of codes below 8 (R82). -/
theorem isInt_typeFmt {t : Nat} (h : t ≤ 10) : (typeFmt t).isInt = decide (t < 8) := by
  interval_cases t <;> rfl

/-- An element of a type fills its container (R81). -/
theorem width_typeFmt {t : Nat} (h : t ≤ 10) : (typeFmt t).width = (typeFmt t).container := by
  interval_cases t <;> rfl

theorem le_of_tIn {f : VSyl} {lo hi : Nat} (h : (!tIn f lo hi) = false) : lo ≤ f.t.toNat ∧ f.t.toNat ≤ hi := by
  simpa [tIn] using h

/-! ## Integers -/

@[simp] theorem toInt_ofInt (i : Int) : (Val.ofInt i).toInt = i := by
  simp only [Val.ofInt, Val.toInt, decide_eq_true_eq, Int.toNat_zero, pow_zero, mul_one]
  split <;> omega

/-- The value of an integer element is the whole number it stands for. -/
theorem decodeVal_int (signed : Bool) (w x : Nat) : decodeVal (.int signed w) x = Val.ofInt (elemInt signed w x) := rfl

theorem toInt_decodeVal_int (signed : Bool) (w x : Nat) : (decodeVal (.int signed w) x).toInt = elemInt signed w x := by
  rw [decodeVal_int, toInt_ofInt]

theorem fitInt_eq (signed sat : Bool) (w : Nat) (v : Int) : fitInt (.int signed w) sat v = elemFit signed sat w v := by
  cases signed <;> rfl

/-- The elements of a type that stand for one whole number are one. -/
theorem elemInt_inj {signed : Bool} {w a b : Nat} (ha : a < 2 ^ w) (hb : b < 2 ^ w)
    (h : elemInt signed w a = elemInt signed w b) : a = b := by
  have ha' : ((a : Nat) : Int) < 2 ^ w := by exact_mod_cast ha
  have hb' : ((b : Nat) : Int) < 2 ^ w := by exact_mod_cast hb
  simp only [elemInt, Nat.mod_eq_of_lt ha, Nat.mod_eq_of_lt hb] at h
  split at h <;> split at h <;> omega

/-! ## Arithmetic (R349, R350) -/

/-- The result of an arithmetic instruction on two or three elements of a type. -/
theorem arithElem_eq {t : Nat} (ht : t ≤ 10) (r : Rnd) (iop : Int → Int → Int → Int) (vop : Bool → Val → Val → Val → Val)
    (a b d : Nat) : arithElem t r iop vop a b d =
      if t < 8 then
        (elemFit (t < 4) r.sat (typeFmt t).width (iop (elemInt (t < 4) (typeFmt t).width a)
          (elemInt (t < 4) (typeFmt t).width b) (elemInt (t < 4) (typeFmt t).width d)), 0)
      else roundVal (typeFmt t) r (vop (r.mode == 3) (decodeVal (typeFmt t) a) (decodeVal (typeFmt t) b)
        (decodeVal (typeFmt t) d)) := by
  rw [arithElem, isInt_typeFmt ht]
  by_cases h8 : t < 8
  · rw [if_pos (by simpa using h8), if_pos h8, typeFmt_int h8]
    simp only [toInt_decodeVal_int, fitInt_eq, Fmt.width]
  · rw [if_neg (by simpa using h8), if_neg h8]

/-! ## The sign (R350) -/

/-- VABS clears the sign bit. -/
theorem signBits_clear (fm : Fmt) (a : Nat) : signBits fm false a = a % 2 ^ (fm.width - 1) := by
  simp [signBits]

/-- VNEG inverts the sign bit. -/
theorem signBits_invert {fm : Fmt} (hw : 0 < fm.width) (a : Nat) :
    signBits fm true a = (a + 2 ^ (fm.width - 1)) % 2 ^ fm.width := by
  obtain ⟨w, hw⟩ := Nat.exists_eq_succ_of_ne_zero hw.ne'
  have hlt := Nat.mod_lt a (show 2 ^ (w + 1) > 0 by positivity)
  have htwo : 2 ^ (w + 1) = 2 * 2 ^ w := pow_succ' 2 w
  have hmod : a % 2 ^ w = a % 2 ^ (w + 1) % 2 ^ w := (Nat.mod_mod_of_dvd a (pow_dvd_pow 2 (Nat.le_succ w))).symm
  simp only [signBits, hw, Nat.succ_eq_add_one, Nat.add_sub_cancel, decide_eq_true_eq, if_true]
  rw [hmod, Nat.add_mod, Nat.mod_eq_of_lt (show 2 ^ w < 2 ^ (w + 1) by omega)]
  generalize a % 2 ^ (w + 1) = y at *
  rw [htwo] at hlt ⊢
  by_cases h : 2 ^ w ≤ y
  · rw [if_pos h, Nat.mod_eq_sub_mod h, Nat.mod_eq_of_lt (by omega), Nat.mod_eq_sub_mod (by omega),
      Nat.mod_eq_of_lt (by omega)]
    omega
  · rw [if_neg h, Nat.mod_eq_of_lt (by omega), Nat.mod_eq_of_lt (by omega)]

/-! ## Minimum and maximum (R104) -/

theorem isNan_ofInt (i : Int) : (Val.ofInt i).isNan = false := rfl

theorem isSig_ofInt (i : Int) : (Val.ofInt i).isSig = false := rfl

theorem scaled_ofInt (i : Int) : (Val.ofInt i).scaled 0 = i := by
  simp only [Val.ofInt, Val.scaled, decide_eq_true_eq, sub_self, Int.toNat_zero, pow_zero, mul_one]
  split <;> omega

theorem unitOf_ofInt (i j : Int) : unitOf (Val.ofInt i) (Val.ofInt j) = 0 := by
  rw [Val.ofInt, Val.ofInt]
  cases i.natAbs <;> cases j.natAbs <;> rfl

theorem ltVal_ofInt (i j : Int) : ltVal (Val.ofInt i) (Val.ofInt j) = decide (i < j) := by
  change decide ((Val.ofInt i).scaled (unitOf (Val.ofInt i) (Val.ofInt j)) <
    (Val.ofInt j).scaled (unitOf (Val.ofInt i) (Val.ofInt j))) = _
  rw [unitOf_ofInt, scaled_ofInt, scaled_ofInt]

/-- Whole numbers as values are in their order. -/
theorem ltOrder_ofInt (i j : Int) : ltOrder (Val.ofInt i) (Val.ofInt j) = decide (i < j) := by
  have hzero : ((Val.ofInt i).isZero && (Val.ofInt i).neg) = false := by
    simp [Val.ofInt, Val.isZero, Val.neg]
    omega
  rw [ltOrder, ltVal_ofInt, Bool.and_right_comm (Val.isZero _), hzero, Bool.false_and, Bool.false_and, Bool.or_false]

theorem pickMinMax_ofInt (wantMax prop : Bool) (canon : Nat) (i j : Int) (a b : Nat) :
    pickMinMax wantMax prop canon (Val.ofInt i) (Val.ofInt j) a b =
      (if (if wantMax then i < j else j < i) then b else a, 0) := by
  simp only [pickMinMax, isNan_ofInt, isSig_ofInt, ltOrder_ofInt, Bool.and_self, Bool.or_self, Bool.false_eq_true,
    if_false, flagIf]
  cases wantMax <;> simp only [Bool.false_eq_true, if_false, if_true, decide_eq_true_eq] <;> split <;> rfl

/-- The later of two equal elements is the same element. -/
theorem later_eq_best {x y : Int} {a b : Nat} (h : x = y → a = b) (wantMax : Bool) :
    (if (if wantMax then x < y else y < x) then b else a) = if decide (x ≤ y) = wantMax then b else a := by
  cases wantMax
  · simp only [Bool.false_eq_true, if_false, decide_eq_false_iff_not, not_le]
  · simp only [if_true, decide_eq_true_eq]
    obtain hlt | heq | hgt := lt_trichotomy x y
    · rw [if_pos hlt, if_pos hlt.le]
    · rw [h heq, ite_self, ite_self]
    · rw [if_neg hgt.not_gt, if_neg hgt.not_ge]

theorem minMaxElem_eq {t : Nat} (ht : t ≤ 10) (wantMax prop : Bool) {a b : Nat}
    (ha : t < 8 → a < 2 ^ (typeFmt t).container) (hb : t < 8 → b < 2 ^ (typeFmt t).container) :
    minMaxElem t wantMax prop a b = elemBest t wantMax prop a b := by
  rw [minMaxElem, elemBest]
  by_cases h8 : t < 8
  · replace ha := ha h8
    replace hb := hb h8
    rw [← width_typeFmt ht] at ha hb
    rw [if_pos h8]
    rw [typeFmt_int h8] at ha hb ⊢
    rw [decodeVal_int, decodeVal_int, pickMinMax_ofInt]
    exact Prod.ext (later_eq_best (elemInt_inj (signed := decide (t < 4)) ha hb) wantMax) rfl
  · rw [if_neg h8]

theorem elemBest_lt {t n : Nat} (ht : t < 8) (wantMax prop : Bool) {a b : Nat} (ha : a < n) (hb : b < n) :
    (elemBest t wantMax prop a b).1 < n := by
  rw [elemBest, if_pos ht]
  dsimp only
  split
  · exact hb
  · exact ha

/-! ## Bits, shifts and counts (R353) -/

/-- Without the bits of `b`, what is left of `a` are its bits in the complement of `b`. -/
theorem sub_and_eq {n a b : Nat} (ha : a < 2 ^ n) : a - (a &&& b) = a &&& (b ^^^ (2 ^ n - 1)) := by
  have hbits (k : Nat) (hk : k < n) : (2 ^ n - 1).testBit k = true := by simp [hk]
  have hdisj : BitVec.ofNat n (a &&& b) &&& BitVec.ofNat n (a &&& (b ^^^ (2 ^ n - 1))) = 0#n := by
    refine BitVec.eq_of_getLsbD_eq fun k hk => ?_
    simp only [BitVec.getLsbD_and, BitVec.getLsbD_ofNat, Nat.testBit_and, Nat.testBit_xor, hbits k hk, hk, Nat.zero_testBit]
    cases a.testBit k <;> cases b.testBit k <;> rfl
  have hor : (a &&& b) ||| (a &&& (b ^^^ (2 ^ n - 1))) = a := by
    refine Nat.eq_of_testBit_eq fun k => ?_
    simp only [Nat.testBit_or, Nat.testBit_and, Nat.testBit_xor]
    by_cases hk : k < n
    · rw [hbits k hk]
      cases a.testBit k <;> cases b.testBit k <;> rfl
    · rw [Nat.testBit_lt_two_pow (ha.trans_le (Nat.pow_le_pow_right two_pos (not_lt.mp hk)))]
      rfl
  have hsum := BitVec.toNat_add_of_and_eq_zero hdisj
  rw [BitVec.add_eq_or_of_and_eq_zero _ _ hdisj, BitVec.toNat_or, BitVec.toNat_ofNat, BitVec.toNat_ofNat,
    Nat.mod_eq_of_lt (Nat.and_le_left.trans_lt ha), Nat.mod_eq_of_lt (Nat.and_le_left.trans_lt ha), hor] at hsum
  omega

/-- The leading zeros of a number below 2^n, from bit `n` down. -/
theorem clzFrom_ofNat {n : Nat} (hn : n ≤ 32) : ∀ {a : Nat}, a < 2 ^ n →
    clzFrom (BitVec.ofNat 32 a) n = if a = 0 then n else n - 1 - Nat.log2 a := by
  induction n with
  | zero => intro a ha; simp [clzFrom]
  | succ n ih =>
    intro a ha
    have hbit : (BitVec.ofNat 32 a).getLsbD n = a.testBit n := by
      rw [BitVec.getLsbD_ofNat, decide_eq_true (by omega : n < 32), Bool.true_and]
    rw [clzFrom, hbit]
    by_cases htop : 2 ^ n ≤ a
    · have hlog : Nat.log2 a = n := (Nat.log2_eq_iff (by have := Nat.two_pow_pos n; omega)).mpr ⟨htop, ha⟩
      rw [if_pos (Nat.testBit_of_two_pow_le_and_two_pow_add_one_gt htop ha),
        if_neg (by have := Nat.two_pow_pos n; omega), hlog]
      omega
    · rw [Nat.testBit_lt_two_pow (not_le.mp htop), ih (by omega) (not_le.mp htop)]
      by_cases h0 : a = 0
      · simp [h0, Nat.add_comm]
      · have := (Nat.log2_lt h0).mpr (not_le.mp htop)
        rw [if_neg h0, if_neg h0]
        simp only [Bool.false_eq_true, if_false]
        omega

/-- The one bits of a number below bit `n`. -/
theorem popcFrom_ofNat {n : Nat} (hn : n ≤ 32) (a : Nat) : popcFrom (BitVec.ofNat 32 a) n = onesBelow n a := by
  induction n with
  | zero => rfl
  | succ n ih =>
    have hbit : (BitVec.ofNat 32 a).getLsbD n = a.testBit n := by
      rw [BitVec.getLsbD_ofNat, decide_eq_true (by omega : n < 32), Bool.true_and]
    rw [popcFrom, hbit, ih (by omega), onesBelow, onesBelow, List.range_succ, List.filter_append, List.length_append]
    cases h : a.testBit n <;> simp [h, Nat.add_comm]

theorem onesBelow_le (n a : Nat) : onesBelow n a ≤ n := (List.length_filter_le ..).trans (List.length_range).le

end Sys2Proof.Safety

/-! SUPPORT. The sums of the machine are those of R111 to R113. -/

namespace Sys2Proof.Safety

open Sys2Proof Sys2Proof.Machine

/-! ## Groups by index -/

/-- The term at a place of a list of terms, none beyond it. -/
def termAt (ts : List (Option Val)) (k : Nat) : Option Val := ts[k]?.join

theorem termAt_of_ge {ts : List (Option Val)} {k : Nat} (h : ts.length ≤ k) : termAt ts k = none := by
  rw [termAt, List.getElem?_eq_none h]
  rfl

/-- The present terms in the order of their index. -/
theorem filterMap_termAt (ts : List (Option Val)) {n : Nat} (h : ts.length ≤ n) :
    (List.range n).filterMap (termAt ts) = ts.filterMap id := by
  induction ts generalizing n with
  | nil =>
    rw [List.filterMap_nil, List.filterMap_eq_nil_iff]
    exact fun k _ => termAt_of_ge (Nat.zero_le k)
  | cons t ts ih =>
    obtain ⟨m, rfl⟩ : ∃ m, n = m + 1 := ⟨n - 1, by rw [List.length_cons] at h; omega⟩
    rw [List.range_succ_eq_map, List.filterMap_cons, List.filterMap_map, List.filterMap_cons,
      ← ih (Nat.le_of_succ_le_succ h)]
    rfl

/-- The terms of group `i` of `g`. -/
def groupAt (g : Nat) (ts : List (Option Val)) (i : Nat) : List (Option Val) := (ts.drop (g * i)).take g

theorem termAt_groupAt {g : Nat} (ts : List (Option Val)) (i : Nat) {j : Nat} (hj : j < g) :
    termAt (groupAt g ts i) j = termAt ts (g * i + j) := by
  rw [termAt, groupAt, List.getElem?_take_of_lt hj, List.getElem?_drop, termAt]

theorem filterMap_groupAt (g : Nat) (ts : List (Option Val)) (i : Nat) :
    (groupAt g ts i).filterMap id = (List.range g).filterMap fun j => termAt ts (g * i + j) := by
  rw [← filterMap_termAt (groupAt g ts i) (List.length_take_le ..)]
  exact List.filterMap_congr fun j hj => termAt_groupAt ts i (List.mem_range.mp hj)

/-- The groups of a list are those of the places of its terms (R111). -/
theorem groupsOf_eq (n : Nat) {fuel : Nat} : ∀ {ts : List (Option Val)}, ts.length ≤ fuel →
    groupsOf n fuel ts = (List.range ((ts.length + n) / (n + 1))).map (groupAt (n + 1) ts) := by
  induction fuel with
  | zero =>
    intro ts h
    rw [List.length_eq_zero_iff.mp (Nat.le_zero.mp h), groupsOf, List.length_nil, Nat.zero_add,
      Nat.div_eq_of_lt (Nat.lt_succ_self n)]
    rfl
  | succ fuel ih =>
    intro ts h
    cases ts with
    | nil =>
      rw [groupsOf, List.length_nil, Nat.zero_add, Nat.div_eq_of_lt (Nat.lt_succ_self n)]
      rfl
    | cons t ts =>
      have hcount : ((t :: ts).length + n) / (n + 1) = (((t :: ts).drop (n + 1)).length + n) / (n + 1) + 1 := by
        rw [List.length_drop, List.length_cons]
        by_cases hlong : ts.length + 1 ≤ n + 1
        · rw [Nat.sub_eq_zero_of_le hlong, Nat.zero_add, Nat.div_eq_of_lt (Nat.lt_succ_self n),
            show ts.length + 1 + n = ts.length + (n + 1) by omega, Nat.add_div_right _ (Nat.succ_pos n),
            Nat.div_eq_of_lt (by omega)]
        · rw [← Nat.add_div_right _ (Nat.succ_pos n)]
          congr 1
          omega
      rw [groupsOf, List.isEmpty_cons, if_neg Bool.false_ne_true, ih (by rw [List.length_drop]; omega), hcount,
        List.range_succ_eq_map, List.map_cons, List.map_map]
      refine congrArg₂ _ rfl (List.map_congr_left fun i _ => ?_)
      rw [groupAt, Function.comp_apply, groupAt, List.drop_drop, Nat.mul_succ, Nat.add_comm (n + 1)]

/-! ## Version 1 (R112) -/

theorem treeValue_succ (flush : BitVec 3) (p : Nat → Option Val) (l j : Nat) :
    treeValue flush p (l + 1) j = treeNode flush (treeValue flush p l (2 * j)) (treeValue flush p l (2 * j + 1)) := by
  rw [treeValue, treeNode]
  have hor (x y z : FlagSet) : x ||| y ||| z = z ||| x ||| y := by rw [BitVec.or_comm, ← BitVec.or_assoc]
  cases (treeValue flush p l (2 * j)).1 <;> cases (treeValue flush p l (2 * j + 1)).1 <;>
    simp only [hor (treeValue flush p l (2 * j)).2] <;> rfl

theorem treeLevel_getD (flush : BitVec 3) : ∀ (l : List (Option Val × FlagSet)) (j : Nat),
    (treeLevel flush l).getD j (none, 0) = treeNode flush (l.getD (2 * j) (none, 0)) (l.getD (2 * j + 1) (none, 0))
  | [], j => by simp [treeLevel, treeNode]
  | [a], 0 => by simp [treeLevel]
  | [a], j + 1 => by simp [treeLevel, treeNode, Nat.mul_succ]
  | a :: b :: r, 0 => by simp [treeLevel]
  | a :: b :: r, j + 1 => by
    rw [treeLevel, List.getD_cons_succ, treeLevel_getD flush r j]
    rfl

/-- The tree of a group is that of its positions. -/
theorem group1_eq (flush : BitVec 3) (ts : List (Option Val)) : group1 flush ts = treeValue flush (termAt ts) 4 0 := by
  have hbase (j : Nat) : (ts.map fun t => (t, (0 : FlagSet))).getD j (none, 0) = treeValue flush (termAt ts) 0 j := by
    rw [List.getD_eq_getElem?_getD, List.getElem?_map, treeValue, termAt]
    cases ts[j]? <;> rfl
  rw [group1, List.headD_eq_head?_getD, List.head?_eq_getElem?, ← List.getD_eq_getElem?_getD]
  simp only [treeLevel_getD, hbase, treeValue_succ]

/-- A node rests on the positions below it. -/
theorem treeValue_congr {flush : BitVec 3} {p q : Nat → Option Val} (l : Nat) : ∀ {j : Nat},
    (∀ k, j * 2 ^ l ≤ k → k < (j + 1) * 2 ^ l → p k = q k) → treeValue flush p l j = treeValue flush q l j := by
  induction l with
  | zero => exact fun h => by rw [treeValue, treeValue, h _ (by simp) (by simp)]
  | succ l ih =>
    intro j h
    have h2 : 2 ^ (l + 1) = 2 * 2 ^ l := pow_succ' 2 l
    rw [treeValue_succ, treeValue_succ, ih fun k hk hk' => h k ?_ ?_, ih fun k hk hk' => h k ?_ ?_] <;> rw [h2] <;>
      nlinarith [Nat.two_pow_pos l]

/-! ## Versions 2 and 3 (R113) -/

/-- The logarithms of the non-zero terms. -/
def logsOf (ps : List Val) : List Int := (ps.filter fun v => !v.isZero).map Val.log2

theorem logsOf_cons (v : Val) (vs : List Val) :
    logsOf (v :: vs) = if v.isZero = true then logsOf vs else v.log2 :: logsOf vs := by
  cases h : v.isZero <;> simp [logsOf, h]

theorem maxLog_eq (ps : List Val) : maxLog ps = (logsOf ps).max? := by
  induction ps with
  | nil => rfl
  | cons v vs ih =>
    rw [maxLog, ih, logsOf_cons]
    cases v.isZero
    · simp only [Bool.false_eq_true, if_false, List.max?_cons]
      cases (logsOf vs).max? <;> rfl
    · simp only [if_true]
      cases (logsOf vs).max? <;> rfl

theorem max?_eq_foldl {l : List Int} (h : l ≠ []) : l.max? = some (l.foldl max (l.headD 0)) := by
  obtain ⟨x, xs, rfl⟩ := List.exists_cons_of_ne_nil h
  rw [List.max?_cons', List.headD_cons, List.foldl_cons, max_self]

/-- A finite term cut at weight 2^u: its part above in multiples of 2^u, and whether anything is below. -/
def cutAt (u : Int) (v : Val) : Int × Bool :=
  match v with
  | .num n m x more => ((if n then -((splitAt m x u more).1 : Int) else (splitAt m x u more).1),
      (splitAt m x u more).2.1 != 0 || (splitAt m x u more).2.2.2)
  | _ => (0, false)

/-- The sum of the parts above a weight. -/
def cutSum (u : Int) (ps : List Val) : Int := (ps.map (cutAt u)).foldl (fun a c => a + c.1) 0

/-- The part above a weight, and the whole in multiples of it. -/
theorem splitAt_spec (m : Nat) (e u : Int) (more : Bool) :
    ((splitAt m e u more).1 : Int) = ((m : Rat) * 2 ^ (e - u)).floor ∧ (splitAt m e u more).2.2.2 = more ∧
      ((splitAt m e u more).2.1 = 0 ↔ (m : Rat) * 2 ^ e = ((splitAt m e u more).1 : Rat) * 2 ^ u) := by
  rw [splitAt]
  by_cases h : u ≤ e
  · obtain ⟨k, rfl⟩ : ∃ k : Nat, e = u + k := ⟨(e - u).toNat, by omega⟩
    rw [if_pos h, add_sub_cancel_left, Int.toNat_natCast, zpow_natCast]
    refine ⟨?_, rfl, ?_⟩
    · exact_mod_cast (Rat.floor_intCast ((m * 2 ^ k : Nat) : Int)).symm
    · simp only [true_iff]
      rw [zpow_add₀ two_ne_zero, zpow_natCast]
      push_cast
      ring
  · obtain ⟨k, rfl⟩ : ∃ k : Nat, u = e + k := ⟨(u - e).toNat, by omega⟩
    rw [if_neg h, add_sub_cancel_left, Int.toNat_natCast, show e - (e + k) = -(k : Int) by ring, zpow_neg, zpow_natCast]
    refine ⟨?_, rfl, ?_⟩
    · have hfloor : ((m : Rat) / ((2 ^ k : Nat) : Rat)).floor = ((m / 2 ^ k : Nat) : Int) :=
        (Rat.floor_natCast_div_natCast m (2 ^ k)).trans (by push_cast; rfl)
      rw [Nat.cast_pow, Nat.cast_ofNat, div_eq_mul_inv] at hfloor
      exact hfloor.symm
    · have hpos : (2 : Rat) ^ e ≠ 0 := zpow_ne_zero _ two_ne_zero
      rw [zpow_add₀ two_ne_zero, zpow_natCast, mul_left_comm, mul_comm (m : Rat), mul_right_inj' hpos,
        ← Nat.dvd_iff_mod_eq_zero, Nat.dvd_iff_div_mul_eq, eq_comm]
      norm_cast

/-- A term of a group without NaN or infinity. -/
theorem cutAt_eq (u : Int) {v : Val} (hnan : v.isNan = false) (hinf : v.isInf = false) :
    cutAt u v = (truncated u v, truncates u v) := by
  cases v with
  | nan n s => cases hnan
  | inf n => cases hinf
  | num n m e more =>
    obtain ⟨hq, hmore, hfrac⟩ := splitAt_spec m e u more
    have htrunc : truncated u (.num n m e more) =
        if n then -((splitAt m e u more).1 : Int) else (splitAt m e u more).1 := by
      rw [hq]
      rfl
    rw [cutAt, htrunc]
    refine Prod.ext rfl ?_
    simp only [hmore]
    rw [truncates, htrunc]
    cases more with
    | true => simp [numberOf, magnitudeOf]
    | false =>
      rw [Bool.or_false, Bool.eq_iff_iff, bne_iff_ne, bne_iff_ne, ne_eq, ne_eq, hfrac, not_iff_not]
      cases n <;> simp [numberOf, magnitudeOf, neg_mul]

theorem contains_inf (ps : List Val) (n : Bool) : ps.contains (.inf n) = ps.any fun t => t.isInf && (t.neg == n) := by
  rw [Bool.eq_iff_iff, List.contains_iff_mem, List.any_eq_true]
  constructor
  · exact fun h => ⟨_, h, by cases n <;> rfl⟩
  · rintro ⟨t, ht, h⟩
    cases t <;> simp_all [Val.isInf, Val.neg]

/-- A term that counts as a logarithm is no zero. -/
theorem not_all_zero_of_logs {ps : List Val} (h : logsOf ps ≠ []) :
    (ps.all fun t => t.isZero && t.neg) = false := by
  rw [Bool.eq_false_iff, ne_eq, List.all_eq_true]
  intro hall
  refine h ?_
  rw [logsOf, List.map_eq_nil_iff, List.filter_eq_nil_iff]
  intro v hv
  have := hall v hv
  simp_all

/-- The value of a group without a NaN. -/
theorem group2_eq (w : Nat) {ps : List Val} (hnan : ∀ v ∈ ps, v.isNan = false) : group2 w ps = alignedValue w ps := by
  have hp : (ps.any fun t => t.isInf && !t.neg) = ps.contains (.inf false) := by
    rw [contains_inf]
    exact congrArg ps.any (funext fun t => by cases t.neg <;> rfl)
  have hn : (ps.any fun t => t.isInf && t.neg) = ps.contains (.inf true) := by
    rw [contains_inf]
    exact congrArg ps.any (funext fun t => by cases t.neg <;> rfl)
  rw [group2, alignedValue, ← logsOf]
  simp only [hp, hn, List.isEmpty_iff]
  by_cases hempty : ps = []
  · rw [if_pos hempty, if_pos hempty]
  rw [if_neg hempty, if_neg hempty]
  cases hpos : ps.contains (.inf false) <;> cases hneg : ps.contains (.inf true)
  case false.false =>
    have hinf (v : Val) (hv : v ∈ ps) : v.isInf = false := by
      rw [Bool.eq_false_iff]
      intro h
      cases v with
      | inf n => cases n <;> simp_all
      | _ => cases h
    simp only [Bool.and_self, Bool.or_self, Bool.false_eq_true, if_false]
    rw [maxLog_eq]
    by_cases hlogs : logsOf ps = []
    · rw [if_pos hlogs, hlogs]
      rfl
    · rw [if_neg hlogs, max?_eq_foldl hlogs]
      have hcut (u : Int) : ps.map (cutAt u) = ps.map fun v => (truncated u v, truncates u v) :=
        List.map_congr_left fun v hv => cutAt_eq u (hnan v hv) (hinf v hv)
      have hsum (u : Int) : cutSum u ps = (ps.map (truncated u)).sum := by
        rw [cutSum, hcut, List.foldl_map, List.sum_eq_foldl, List.foldl_map]
      have hany (u : Int) : (ps.map (cutAt u)).any (·.2) = ps.any (truncates u) := by
        rw [hcut, List.any_map]
        rfl
      have hbody (u : Int) :
          ((some (if cutSum u ps = 0 then .zero (ps.all fun t => t.isZero && t.neg)
            else .num (decide (cutSum u ps < 0))
              (cutSum u ps).natAbs u false),
            flagIf ((ps.map (cutAt u)).any (·.2)) flagInx) : Option Val × FlagSet) =
          (some (if (ps.map (truncated u)).sum = 0 then .zero false
            else .num (decide ((ps.map (truncated u)).sum < 0)) (ps.map (truncated u)).sum.natAbs u false),
            flagIf (ps.any (truncates u)) flagInx) := by
        rw [hsum, hany, not_all_zero_of_logs hlogs]
      exact hbody _
  all_goals rfl

/-! ## The sum (R111) -/

theorem accumulate_eq (sat : Bool) (flush : BitVec 3) (qs : List (Option Val × FlagSet)) :
    ∀ acc, accumulate sat flush qs acc = qs.foldl (joinGroup sat flush) acc := by
  induction qs with
  | nil => exact fun _ => rfl
  | cons q qs ih =>
    intro acc
    obtain ⟨v, fl⟩ := q
    obtain ⟨a, fa⟩ := acc
    rw [List.foldl_cons, ← ih]
    cases v with
    | none => rfl
    | some v => cases a <;> rfl

/-- The NaN of a list of terms: the sign of the first, invalid when any signals (R103). -/
theorem nanOf_eq (ps : List Val) : nanOf ps =
    (ps.find? Val.isNan).map fun v => .nan v.neg (ps.any Val.isSig) := by
  induction ps with
  | nil => rfl
  | cons v vs ih =>
    cases v with
    | nan n s => rfl
    | _ =>
      rw [nanOf, ih, List.find?_cons_of_neg (by simp [Val.isNan]), List.any_cons]
      · cases vs.find? Val.isNan <;> rfl
      · exact fun _ _ h => nomatch h

theorem termAt_lt (ts : List (Option Val)) (k : Nat) : (if k < ts.length then termAt ts k else none) = termAt ts k := by
  split
  · rfl
  · next h => rw [termAt_of_ge (not_lt.mp h)]

/-- The accumulation of the groups of a sum. -/
theorem accumulate_groups {sat : Bool} {flush : BitVec 3} {g : Nat} {ts : List (Option Val)} {acc : Option Nat × FlagSet}
    {f : List (Option Val) → Option Val × FlagSet} {value : Nat → Option Val × FlagSet}
    (h : ∀ i, f (groupAt (g + 1) ts i) = value i) :
    accumulate sat flush ((groupsOf g (ts.length + 1) ts).map f) acc =
      ((List.range ((ts.length + (g + 1) - 1) / (g + 1))).map value).foldl (joinGroup sat flush) acc := by
  rw [accumulate_eq, groupsOf_eq g (Nat.le_succ _), List.map_map]
  exact congrArg (fun l => List.foldl _ _ l) (List.map_congr_left fun i _ => h i)

/-- The sum of the machine is that of R111 to R113. -/
theorem sumF32_eq_sumOf (nbv : Nat) (sat : Bool) (flush : BitVec 3) (ts : List (Option Val)) (acc : Option Nat) :
    sumF32 nbv sat flush ts acc = sumOf nbv sat flush ts.length (termAt ts) acc := by
  rw [sumF32, sumOf]
  simp only [filterMap_termAt ts le_rfl, termAt_lt]
  by_cases h1 : nbv = 1
  · have hgroup (i : Nat) : group1 flush (groupAt 16 ts i) = treeValue flush (fun j => termAt ts (16 * i + j)) 4 0 := by
      rw [group1_eq]
      exact treeValue_congr 4 fun k _ hk => termAt_groupAt ts i (by omega)
    simp only [h1, if_true, accumulate_groups (g := 15) hgroup]
    cases (ts.filterMap id).find? Val.isNan <;> rfl
  · simp only [h1, if_false]
    rw [nanOf_eq]
    cases hfind : (ts.filterMap id).find? Val.isNan with
    | some v =>
      have hsig : ((ts.filterMap id).any Val.isSig || ((acc.map (decodeFlt f32)).getD (.zero false)).isSig) =
          ((ts.filterMap id) ++ (acc.map (decodeFlt f32)).toList).any Val.isSig := by
        rw [List.any_append]
        cases acc with
        | none => rfl
        | some a => simp
      simp only [Option.map_some, hsig]
    | none =>
      have hnan (l : List (Option Val)) (hl : ∀ x ∈ l, x ∈ ts) : ∀ v ∈ l.filterMap id, v.isNan = false := by
        intro v hv
        obtain ⟨x, hx, hxv⟩ := List.mem_filterMap.mp hv
        have hmem : v ∈ ts.filterMap id := List.mem_filterMap.mpr ⟨x, hl x hx, hxv⟩
        simpa using List.find?_eq_none.mp hfind v hmem
      have hgroup (g w i : Nat) : group2 w ((groupAt g ts i).filterMap id) =
          alignedValue w ((List.range g).filterMap fun j => termAt ts (g * i + j)) := by
        rw [← filterMap_groupAt]
        exact group2_eq w (hnan _ fun x hx => List.mem_of_mem_drop (List.mem_of_mem_take hx))
      by_cases h2 : nbv = 2
      · simp only [h2, if_true, Option.map_none, 
          accumulate_groups (g := 31) (f := fun l => group2 40 (l.filterMap id)) (hgroup 32 40)]
      · simp only [h2, if_false, Option.map_none, 
          accumulate_groups (g := 63) (f := fun l => group2 64 (l.filterMap id)) (hgroup 64 64)]

end Sys2Proof.Safety

/-! SUPPORT. Vector arithmetic delivers its table (R349 to R353). -/

namespace Sys2Proof.Safety

open Sys2Proof Sys2Proof.Machine

/-! ## The types a well-formed syllable names (R347) -/

theorem type_le_of_encArith {f : VSyl} {nsrc lo : Nat} {mode : Bool} (h : (encArith f nsrc lo mode).illegal = false) :
    f.t.toNat ≤ 10 := by
  simp only [encArith, Bool.or_eq_false_iff] at h
  obtain ⟨⟨⟨⟨⟨ht, _⟩, _⟩, _⟩, _⟩, _⟩ := h
  exact (le_of_tIn ht).2

theorem type_le_of_encBit {f : VSyl} (h : (encBit f 10).illegal = false) : f.t.toNat ≤ 10 := by
  simp only [encBit, Bool.or_eq_false_iff] at h
  obtain ⟨⟨ht, _⟩, _⟩ := h
  exact (le_of_tIn ht).2

theorem type_le_of_encOne {f : VSyl} {lo hi : Nat} (h : (encOne f lo hi).illegal = false) : f.t.toNat ≤ hi := by
  simp only [encOne, Bool.or_eq_false_iff] at h
  exact (le_of_tIn h.1).2

theorem type_le_of_encVshift {f : VSyl} (h : (encVshift f).illegal = false) : f.t.toNat ≤ 7 := by
  simp only [encVshift, Bool.or_eq_false_iff] at h
  obtain ⟨⟨ht, _⟩, _⟩ := h
  exact (le_of_tIn ht).2

section
variable {i : Instr} {s : State} {cl : Cluster} {f : VSyl} {nsrc lat byp : Nat} (hwf : i.wf = true)
include hwf

/-- An instruction without draws whose function of its sources' elements is that of its row. -/
theorem delivers_same {elem g : Nat → Nat → Nat → Nat → Nat × FlagSet}
    (hexec : exec i s = vecOp cl (enc i) f never (some byp) lat (fun c => vSame c cl f nsrc g) s)
    (hns : nsrc = 1 ∨ nsrc = 2 ∨ nsrc = 3)
    (helem : ∀ j, j < 4096 / (typeFmt f.t.toNat).container → ∀ a b d, a < 2 ^ (typeFmt f.t.toNat).container →
      b < 2 ^ (typeFmt f.t.toNat).container → d < 2 ^ (typeFmt f.t.toNat).container →
      SameElem (typeFmt f.t.toNat).container (g j a b d) (elem j a b d)) :
    DeliversRow i s (rowT (cur s) cl f nsrc lat byp false elem) :=
  delivers_vecOp (r := rowT (cur s) cl f nsrc lat byp false elem) hwf hexec rfl rfl (vSame_computes hns helem)

/-- VADD, VSUB, VMUL and VMAD (R349, R350). -/
theorem delivers_arith {iop : Int → Int → Int → Int} {vop : Bool → Val → Val → Val → Val}
    (hexec : exec i s = vArith cl (enc i) f nsrc byp lat iop vop s) (ht : f.t.toNat ≤ 10)
    (hns : nsrc = 1 ∨ nsrc = 2 ∨ nsrc = 3) : DeliversRow i s (rowArith (cur s) cl f nsrc lat byp iop vop) := by
  refine delivers_vecRound (r := rowArith (cur s) cl f nsrc lat byp iop vop) hwf hexec rfl rfl (pos_elements _) rfl
    fun rnd hdraw hrnd => ?_
  unfold rowArith
  refine vSame_computes hns fun j hj a b d _ _ _ => .of_eq ?_
  rw [arithElem_eq ht]
  by_cases h8 : f.t.toNat < 8
  · rw [if_pos h8, if_pos h8, hrnd]
    rfl
  · rw [if_neg h8, if_neg h8, hdraw (by simpa using h8) j hj]
    rfl

/-- VABS and VNEG (R350). -/
theorem delivers_sign {invert : Bool} {elem : Nat → Nat → Nat → Nat → Nat × FlagSet}
    (hexec : exec i s = vSign cl (enc i) f invert s) (ht : f.t.toNat ≤ 10)
    (hint : f.t.toNat < 8 → ∀ j a b d, elem j a b d =
      (elemFit (f.t.toNat < 4) (f.m.getLsbD 3) (typeFmt f.t.toNat).width
        (if invert then -elemInt (f.t.toNat < 4) (typeFmt f.t.toNat).width a
          else (elemInt (f.t.toNat < 4) (typeFmt f.t.toNat).width a).natAbs), 0))
    (hflt : ¬f.t.toNat < 8 → ∀ j a b d, elem j a b d = (signBits (typeFmt f.t.toNat) invert a, 0)) :
    DeliversRow i s (rowT (cur s) cl f 1 2 0 false elem) := by
  refine delivers_same hwf hexec (.inl rfl) fun j _ a b d _ _ _ => .of_eq ?_
  change (if (typeFmt f.t.toNat).isInt = true then _ else _) = _
  rw [isInt_typeFmt ht]
  by_cases h8 : f.t.toNat < 8
  · rw [if_pos (by simpa using h8), hint h8, typeFmt_int h8]
    simp only [toInt_decodeVal_int, fitInt_eq, Fmt.width]
    rfl
  · rw [if_neg (by simpa using h8), hflt h8]

/-- VMIN, VMAX, VMINP and VMAXP (R349). -/
theorem delivers_minMax {wantMax prop : Bool} (hexec : exec i s = vMinMax cl (enc i) f wantMax prop s)
    (ht : f.t.toNat ≤ 10) : DeliversRow i s
      (rowT (cur s) cl f 2 2 0 false fun _ a b _ => elemBest f.t.toNat wantMax prop a b) :=
  delivers_same hwf hexec (.inr (.inl rfl)) fun _ _ _ _ _ ha hb _ =>
    .of_eq (minMaxElem_eq ht wantMax prop (fun _ => ha) fun _ => hb)

end

/-! ## Widening products and dot products (R351, R352) -/

theorem dfmt_le_of_encVmulw {f : VSyl} (h : (encVmulw f).illegal = false) : f.dfmt ≤ 10 := by
  simp only [encVmulw, Bool.or_eq_false_iff, Bool.not_eq_false'] at h
  obtain ⟨⟨⟨⟨⟨hok, _⟩, _⟩, _⟩, _⟩, _⟩ := h
  split at hok
  · simp only [Bool.and_eq_true, decide_eq_true_eq] at hok
    omega
  · split at hok
    · simp only [Bool.and_eq_true, decide_eq_true_eq] at hok
      omega
    · split at hok
      · simp only [beq_iff_eq] at hok
        omega
      · simp only [Bool.and_eq_true, decide_eq_true_eq] at hok
        omega

theorem computes_of_eq {r : VecRow} {c : Ctx} {o : VOut} {g : Nat → Nat × FlagSet} (hk : 0 < r.k)
    (hn : r.n = r.k * (4096 / r.dst.container)) (hd : r.f.d.toNat + r.k ≤ 32)
    (ho : o = vResult c r.cl r.f r.k r.n r.dst.container r.pois r.subst g)
    (helem : ∀ i, i < r.n → SameElem r.dst.container (g i) (r.elem i)) : Computes r c o :=
  ho ▸ vResult_computes hk hn hd helem

/-- The registers of a widening product (R105, R351). -/
theorem vmulw_group {f : VSyl} {c : Ctx} (h : vmulwBad f c = false) :
    let cw := ((ctxFmt c f.fr f.t.toNat).getD .scale).container
    let k := (typeFmt f.dfmt).container / cw
    0 < k ∧ 4096 / cw = k * (4096 / (typeFmt f.dfmt).container) ∧ f.d.toNat + k ≤ 32 := by
  intro cw k
  rw [vmulwBad, prodFmt] at h
  cases hfmt : ctxFmt c f.fr f.t.toNat with
  | none =>
    rw [hfmt] at h
    cases h
  | some fm =>
    have hcw : cw = fm.container := by simp only [cw, hfmt, Option.getD_some]
    have hk : k = (typeFmt f.dfmt).container / fm.container := by simp only [k, hcw]
    simp only [hfmt, ← hk, Bool.or_eq_false_iff, Bool.not_eq_false', Bool.or_eq_true, beq_iff_eq, groupOk,
      Bool.and_eq_true, decide_eq_true_eq] at h
    obtain ⟨hratio, hlt, hmod⟩ := h
    refine ⟨by omega, ?_, ?_⟩
    · rw [hk] at hratio ⊢
      rw [hcw]
      obtain h | h | h | h := container_cases fm <;> obtain h' | h' | h' | h' := container_cases (typeFmt f.dfmt) <;>
        rw [h, h'] at hratio ⊢ <;> omega
    · obtain h | h := hratio <;> rw [h] at hmod ⊢ <;> omega

theorem delivers_vmulw {cl : Cluster} {f : VSyl} {s : State} {r : VecRow} (hwf : (Instr.vmulw cl f).wf = true)
    (hr : vecRow (.vmulw cl f) (cur s) = some r) : DeliversRow (.vmulw cl f) s r := by
  have hd := dfmt_le_of_encVmulw (not_illegal_of_wf hwf)
  simp only [vecRow] at hr
  split at hr
  · cases hr
  · next hbad =>
    rw [Bool.not_eq_true] at hbad
    obtain ⟨hk, hn, hgroup⟩ := vmulw_group hbad
    obtain rfl := Option.some.inj hr
    have hexec : exec (.vmulw cl f) s = execVmulw cl f s := rfl
    unfold execVmulw at hexec
    refine delivers_vecRound hwf hexec hbad rfl (pos_elements _) ?_ fun rnd hdraw _ =>
      computes_of_eq hk hn hgroup rfl fun j hj => .of_eq ?_
    · by_cases h : 8 ≤ f.dfmt <;> simp [h]
    · change (if (typeFmt f.dfmt).isInt = true then _ else _) = if f.dfmt < 8 then _ else _
      rw [isInt_typeFmt hd]
      by_cases h : f.dfmt < 8
      · rw [if_pos (by simpa using h), if_pos h]
        rfl
      · rw [if_neg (by simpa using h), if_neg h, hdraw (by simpa using h) j hj]
        rfl

/-- An integer sum into 32 bits (R114). -/
theorem sumInt_eq (sat : Bool) (z : Int) (zs : List Int) : sumInt (.int true 32) sat (z :: zs) =
    (elemFit true sat 32 (zs.foldl (· + ·) z), if zs.foldl (· + ·) z < -2 ^ 31 ∨ 2 ^ 31 ≤ zs.foldl (· + ·) z then flagOvf
      else 0) := by
  rw [sumInt, List.foldl_cons, zero_add, fitInt_eq]
  refine Prod.ext rfl ?_
  refine if_congr (decide_eq_true_iff.trans (or_congr Iff.rfl ?_)) rfl rfl
  change (2 : Int) ^ (32 - 1) - 1 < _ ↔ _
  omega

theorem delivers_vdot4 {cl : Cluster} {f : VSyl} {s : State} {r : VecRow} (hwf : (Instr.vdot4 cl f).wf = true)
    (hr : vecRow (.vdot4 cl f) (cur s) = some r) : DeliversRow (.vdot4 cl f) s r := by
  simp only [vecRow] at hr
  cases hfm : ctxFmt (cur s) f.fr f.t.toNat with
  | none =>
    rw [hfm] at hr
    cases hr
  | some fm =>
    simp only [hfm] at hr
    obtain rfl := Option.some.inj hr
    have hprod : prodFmt (cur s) f = some fm := hfm
    have hexec : exec (.vdot4 cl f) s = execVdot4 cl f s := rfl
    unfold execVdot4 at hexec
    refine delivers_vecOp hwf hexec (by rw [hprod]; rfl) rfl ?_
    simp only [hprod, Option.getD_some]
    refine computes_of_eq Nat.one_pos (show 128 = 1 * (4096 / 32) by rfl) (Nat.succ_le_of_lt f.d.isLt) rfl
      fun l hl => .of_eq ?_
    change (if f.t.toNat < 8 then _ else _) = if f.t.toNat < 8 then _ else _
    split
    · rw [sumInt_eq, toInt_decodeVal_int]
      rfl
    · rw [sumF32_eq_sumOf, List.length_map]
      congr 1
      funext j
      rw [termAt, List.getElem?_map]
      generalize (List.map _ _)[j]? = x
      cases x <;> rfl

/-! ## The arithmetic family -/

/-- The arithmetic instructions deliver their rows (R349 to R352). -/
theorem arith_delivers {i : Instr} {s : State} {r : VecRow} (hwf : i.wf = true) (hfam : vecFamily i = some .arith)
    (hr : vecRow i (cur s) = some r) : DeliversRow i s r := by
  have hlegal := not_illegal_of_wf hwf
  cases i with
  | vadd cl f | vsub cl f =>
    obtain rfl := Option.some.inj hr
    exact delivers_arith hwf rfl (type_le_of_encArith hlegal) (.inr (.inl rfl))
  | vmul cl f =>
    obtain rfl := Option.some.inj hr
    exact delivers_arith hwf rfl (type_le_of_encArith hlegal) (.inr (.inl rfl))
  | vmad cl f =>
    obtain rfl := Option.some.inj hr
    exact delivers_arith hwf rfl (type_le_of_encArith hlegal) (.inr (.inr rfl))
  | vmulw cl f => exact delivers_vmulw hwf hr
  | vdot4 cl f => exact delivers_vdot4 hwf hr
  | vabs cl f =>
    obtain rfl := Option.some.inj hr
    refine delivers_sign (invert := false) hwf rfl (type_le_of_encArith hlegal) (fun h _ a _ _ => if_pos h)
      fun h _ a _ _ => ?_
    rw [signBits_clear]
    exact if_neg h
  | vneg cl f =>
    obtain rfl := Option.some.inj hr
    have ht := type_le_of_encArith hlegal
    refine delivers_sign (invert := true) hwf rfl ht (fun h _ a _ _ => if_pos h) fun h _ a _ _ => ?_
    have hw : 0 < (typeFmt f.t.toNat).width := by
      rw [width_typeFmt ht]
      obtain h | h | h | h := container_cases (typeFmt f.t.toNat) <;> rw [h] <;> decide
    rw [signBits_invert hw]
    exact if_neg h
  | vmin cl f | vmax cl f | vminp cl f | vmaxp cl f =>
    obtain rfl := Option.some.inj hr
    exact delivers_minMax hwf rfl (type_le_of_encArith hlegal)
  | vclmp cl f =>
    obtain rfl := Option.some.inj hr
    have ht := type_le_of_encArith hlegal
    refine delivers_same hwf rfl (.inr (.inr rfl)) fun j _ a b d ha hb hd => .of_eq ?_
    have hmax := minMaxElem_eq ht true false (fun _ => ha) fun _ => hb
    have hmin := minMaxElem_eq ht false false (fun h8 => elemBest_lt h8 true false ha hb) fun _ => hd
    simp only [hmax, hmin]
  | _ => cases hfam

end Sys2Proof.Safety

/-! SUPPORT. Bit instructions, selects, moves and permutes deliver their tables (R353, R356 to R358). -/

namespace Sys2Proof.Safety

open Sys2Proof Sys2Proof.Machine

/-! ## Bits of elements -/

section
variable {i : Instr} {s : State} {cl : Cluster} {f : VSyl} (hwf : i.wf = true)
include hwf

/-- A shift whose function of the element and the count is that of its row, in the width of the type. -/
theorem delivers_shift {op : Nat → Nat → Nat → Nat} {elem : Nat → Nat → Nat → Nat → Nat × FlagSet}
    (hexec : exec i s = vShift cl (enc i) f op s) (ht : f.t.toNat ≤ 7)
    (helem : ∀ j a b d, SameElem (typeFmt f.t.toNat).width
      (op (typeFmt f.t.toNat).width a (shiftCount f (typeFmt f.t.toNat).width b), 0) (elem j a b d)) :
    DeliversRow i s (rowT (cur s) cl f (if f.x.getLsbD 20 then 1 else 2) 2 0 false elem) := by
  refine delivers_same hwf hexec ?_ fun j _ a b d _ _ _ => ?_
  · split
    · exact .inl rfl
    · exact .inr (.inl rfl)
  · rw [← width_typeFmt (by omega)]
    exact ⟨(Nat.mod_mod _ _).trans (helem j a b d).1, (helem j a b d).2⟩

/-- A count of the bits of an element. -/
theorem delivers_count {g e : Nat → Nat → Nat}
    (hexec : exec i s = vecOp cl (enc i) f never (some 0) 2 (fun c => vSame c cl f 1 fun _ a _ _ =>
      (g a (typeFmt f.t.toNat).width % 2 ^ (typeFmt f.t.toNat).width, 0)) s) (ht : f.t.toNat ≤ 7)
    (he : ∀ a, a < 2 ^ (typeFmt f.t.toNat).width → g a (typeFmt f.t.toNat).width = e a (typeFmt f.t.toNat).width) :
    DeliversRow i s (rowT (cur s) cl f 1 2 0 false fun _ a _ _ => (e a (typeFmt f.t.toNat).width, 0)) := by
  refine delivers_same hwf hexec (.inl rfl) fun j _ a b d ha _ _ => ⟨?_, rfl⟩
  rw [← width_typeFmt (by omega)] at ha ⊢
  rw [Nat.mod_mod, he a ha]

end

theorem width_le {t : Nat} (ht : t ≤ 10) : (typeFmt t).width ≤ 32 := by
  rw [width_typeFmt ht]
  obtain h | h | h | h := container_cases (typeFmt t) <;> rw [h] <;> decide

/-- The bit instructions deliver their rows (R353). -/
theorem elemBits_delivers {i : Instr} {s : State} {r : VecRow} (hwf : i.wf = true) (hfam : vecFamily i = some .elemBits)
    (hr : vecRow i (cur s) = some r) : DeliversRow i s r := by
  have hlegal := not_illegal_of_wf hwf
  cases i with
  | vand cl f | vor cl f | vxor cl f =>
    obtain rfl := Option.some.inj hr
    exact delivers_same hwf rfl (.inr (.inl rfl)) fun _ _ _ _ _ _ _ _ => .of_eq rfl
  | vandn cl f =>
    obtain rfl := Option.some.inj hr
    exact delivers_same hwf rfl (.inr (.inl rfl)) fun _ _ a b _ ha _ _ =>
      .of_eq (congrArg (fun x => (x, (0 : FlagSet))) (sub_and_eq ha))
  | vshl cl f =>
    obtain rfl := Option.some.inj hr
    have hexec : exec (.vshl cl f) s = execVshl cl f s := rfl
    exact delivers_shift hwf hexec (type_le_of_encVshift hlegal) fun _ a b _ =>
      ⟨(Nat.mod_mod (a * 2 ^ shiftCount f _ b) _).symm, rfl⟩
  | vshr cl f =>
    obtain rfl := Option.some.inj hr
    have hexec : exec (.vshr cl f) s = execVshr cl f s := rfl
    exact delivers_shift hwf hexec (type_le_of_encVshift hlegal) fun _ _ _ _ => .of_eq rfl
  | vsar cl f =>
    obtain rfl := Option.some.inj hr
    have hexec : exec (.vsar cl f) s = execVsar cl f s := rfl
    refine delivers_shift hwf hexec (type_le_of_encVshift hlegal) fun _ _ _ _ => .of_eq ?_
    rw [toInt_decodeVal_int]
    rfl
  | vclz cl f =>
    obtain rfl := Option.some.inj hr
    have ht := type_le_of_encOne hlegal
    exact delivers_count (g := fun a w => clzFrom (BitVec.ofNat 32 a) w)
      (e := fun a w => if a = 0 then w else w - 1 - Nat.log2 a) hwf rfl ht
      fun a ha => clzFrom_ofNat (width_le (by omega)) ha
  | vpopc cl f =>
    obtain rfl := Option.some.inj hr
    have ht := type_le_of_encOne hlegal
    exact delivers_count (g := fun a w => popcFrom (BitVec.ofNat 32 a) w) (e := fun a w => onesBelow w a) hwf rfl ht
      fun a _ => popcFrom_ofNat (width_le (by omega)) a
  | _ => cases hfam

/-! ## Moves -/

/-- A result on type T that does not take its elements from the three sources alike. -/
theorem delivers_vResult {i : Instr} {s : State} {cl : Cluster} {f : VSyl} {nsrc lat byp : Nat} {p : Bool}
    {elem : Nat → Nat → Nat → Nat → Nat × FlagSet} {g : Nat → Nat × FlagSet} {out : Ctx → VOut} (hwf : i.wf = true)
    (hexec : exec i s = vecOp cl (enc i) f never (some byp) lat out s)
    (hout : out (cur s) = vResult (cur s) cl f 1 (tElems f) (typeFmt f.t.toNat).container p 0 g)
    (helem : ∀ j, j < tElems f → g j = (rowT (cur s) cl f nsrc lat byp false elem).elem j) :
    DeliversRow i s { rowT (cur s) cl f nsrc lat byp false elem with pois := p } := by
  refine delivers_vecOp (r := { rowT (cur s) cl f nsrc lat byp false elem with pois := p }) hwf hexec rfl rfl ?_
  rw [hout]
  exact rowT_computes (nsrc := nsrc) fun j hj => .of_eq (helem j hj)

/-- One source gives its poison. -/
theorem rowT_one (c : Ctx) (cl : Cluster) (f : VSyl) (lat byp : Nat) (draws : Bool)
    (elem : Nat → Nat → Nat → Nat → Nat × FlagSet) : rowT c cl f 1 lat byp draws elem =
      { rowT c cl f 1 lat byp draws elem with pois := srcRowPois c cl f.a.toNat } := by
  simp [rowT]

theorem permRegs_eq (t : Nat) : permRegs t =
    if (typeFmt t).container = 8 then 2 else if (typeFmt t).container = 4 then 4 else 1 := by
  rw [permRegs]
  obtain h | h | h | h := container_cases (typeFmt t) <;> rw [h] <;> rfl

/-- A result on type T whose poison is not that of its sources alike. -/
theorem vSame_pois_computes {c : Ctx} {cl : Cluster} {f : VSyl} {nsrc nsrc' lat byp : Nat} {draws p q : Bool}
    {elem g : Nat → Nat → Nat → Nat → Nat × FlagSet}
    (hq : q = (p || govPois c cl f.p.toNat ||
      (f.z == 0 && someInactive (tElems f) (govPred c cl f.p.toNat) && srcRowPois c cl f.d.toNat)))
    (helem : ∀ j, j < tElems f → ∀ a b d, g j a b d = elem j a b d) :
    Computes { rowT c cl f nsrc' lat byp draws elem with pois := p } c { vSame c cl f nsrc g with pois := q } := by
  have hz : ∀ z : BitVec 1, (z == 0) = (z != 1) := by decide
  have hgroup : ((List.range 1).any fun j => srcRowPois c cl (f.d.toNat + j)) = srcRowPois c cl f.d.toNat := by simp
  refine ⟨Nat.one_pos, (Nat.one_mul _).symm, Nat.succ_le_of_lt f.d.isLt, false, fun j => g j
    (elemAt (typeFmt f.t.toNat).container (srcRow c cl f.a.toNat) j)
    (elemAt (typeFmt f.t.toNat).container (srcRow c cl f.b.toNat) j)
    (elemAt (typeFmt f.t.toNat).container (srcRow c cl f.c.toNat) j), ?_, fun j hj => .of_eq (helem j hj _ _ _)⟩
  rw [hq, hz, ← hgroup]
  rfl

theorem delivers_vsel {cl : Cluster} {f : VSyl} {s : State} {r : VecRow} (hwf : (Instr.vsel cl f).wf = true)
    (hr : vecRow (.vsel cl f) (cur s) = some r) : DeliversRow (.vsel cl f) s r := by
  obtain rfl := Option.some.inj hr
  have hexec : exec (.vsel cl f) s = execVsel cl f s := rfl
  unfold execVsel at hexec
  refine delivers_vecOp hwf hexec rfl rfl (vSame_pois_computes ?_ fun _ _ _ _ _ => rfl)
  have hor : ∀ p q x y k : Bool, (p || q || x || y || k) = ((q || x || y) || p || k) := by decide
  exact hor ..

/-- An index beyond the elements gives zero where the syllable says so (R358). -/
theorem zeroBeyond_eq (zero : Bool) (n j x : Nat) : (if zero && decide (j ≥ n) then ((0, 0) : Nat × FlagSet) else (x, 0)) =
    (if zero = true ∧ n ≤ j then 0 else x, 0) := by
  have hcond : (zero && decide (j ≥ n)) = true ↔ zero = true ∧ n ≤ j := by rw [Bool.and_eq_true, decide_eq_true_iff]
  by_cases h : zero = true ∧ n ≤ j
  · rw [if_pos (hcond.mpr h), if_pos h]
  · rw [if_neg (hcond.not.mpr h), if_neg h]

theorem delivers_vperm {cl : Cluster} {f : VSyl} {s : State} {r : VecRow} (hwf : (Instr.vperm cl f).wf = true)
    (hr : vecRow (.vperm cl f) (cur s) = some r) : DeliversRow (.vperm cl f) s r := by
  obtain rfl := Option.some.inj hr
  have hpois (elem) : (rowT (cur s) cl f 1 3 3 false elem).pois = srcRowPois (cur s) cl f.a.toNat := by simp [rowT]
  simp only [← permRegs_eq, hpois]
  exact delivers_vResult hwf rfl rfl fun j _ => zeroBeyond_eq ..

/-- The selects, moves and permutes deliver their rows (R356 to R358). -/
theorem move_delivers {i : Instr} {s : State} {r : VecRow} (hwf : i.wf = true) (hfam : vecFamily i = some .move)
    (hr : vecRow i (cur s) = some r) : DeliversRow i s r := by
  cases i with
  | vsel cl f => exact delivers_vsel hwf hr
  | vmov cl f =>
    obtain rfl := Option.some.inj hr
    exact delivers_same hwf rfl (.inl rfl) fun _ _ _ _ _ _ _ _ => .of_eq rfl
  | vmovx cl f =>
    obtain rfl := Option.some.inj hr
    cases cl <;> exact delivers_vResult hwf rfl rfl fun _ _ => rfl
  | vbcs cl f =>
    obtain rfl := Option.some.inj hr
    exact delivers_vResult hwf rfl rfl fun _ _ => rfl
  | viota cl f =>
    obtain rfl := Option.some.inj hr
    exact delivers_vResult hwf rfl rfl fun _ _ => rfl
  | vbcl cl f =>
    obtain rfl := Option.some.inj hr
    rw [rowT_one]
    exact delivers_vResult hwf rfl rfl fun _ _ => rfl
  | vrot cl f =>
    obtain rfl := Option.some.inj hr
    rw [rowT_one]
    exact delivers_vResult hwf rfl rfl fun _ _ => rfl
  | vperm cl f => exact delivers_vperm hwf hr
  | _ => cases hfam

/-- Settles O32, family by family: each instruction computes the elements of its row, and a computed row goes in
flight. -/
theorem vectorArithmeticDelivers : Obligations.VectorArithmeticDelivers := by
  rintro i s r hwf (hfam | hfam | hfam) hr
  · exact arith_delivers hwf hfam hr
  · exact elemBits_delivers hwf hfam hr
  · exact move_delivers hwf hfam hr

end Sys2Proof.Safety

/-! SUPPORT. Predicate and scalar results deliver their rows (R75, R325, R326, R355, R357, R366). -/

namespace Sys2Proof.Machine

theorem natOfBits_lt (f : Nat → Bool) (n : Nat) : natOfBits f n < 2 ^ n := by
  induction n with
  | zero => exact Nat.one_pos
  | succ n ih =>
    rw [natOfBits, pow_succ]
    split <;> omega

/-- Bit by bit, a number given by its bits. -/
theorem testBit_natOfBits (f : Nat → Bool) (n k : Nat) : (natOfBits f n).testBit k = (decide (k < n) && f k) := by
  induction n with
  | zero => simp [natOfBits]
  | succ n ih =>
    have hadd : natOfBits f (n + 1) = 2 ^ n * (f n).toNat + natOfBits f n := by
      rw [natOfBits, Nat.add_comm]
      cases f n <;> simp
    rw [hadd, Nat.testBit_two_pow_mul_add _ (natOfBits_lt f n), ih]
    obtain h | rfl | h := lt_trichotomy k n
    · simp [h, show k < n + 1 by omega]
    · cases h : f k <;> simp
    · have hbit : (f n).toNat.testBit (k - n) = false :=
        Nat.testBit_lt_two_pow ((Bool.toNat_lt _).trans_le (Nat.pow_le_pow_right two_pos (by omega : 1 ≤ k - n)))
      simp [show ¬k < n by omega, show ¬k < n + 1 by omega, hbit]

/-- Bit by bit, a predicate that element results write (R75). -/
theorem getLsbD_predWrite (n : Nat) (gov : Pred) (z : Bool) (old : Pred) (res : Nat → Bool) {j : Nat} (hj : j < 512) :
    (predWrite n gov z old res).getLsbD j =
      if govBit n gov (if n ≤ 512 then j * n / 512 else 2 * j) then
        (if n ≤ 512 then res (j * n / 512) else res (2 * j) && res (2 * j + 1))
      else !z && old.getLsbD j := by
  rw [predWrite, BitVec.getLsbD_ofNat, testBit_natOfBits, decide_eq_true hj, Bool.true_and, Bool.true_and]
  by_cases hn : n ≤ 512
  · simp only [hn, if_true]
  · simp only [hn, if_false]

/-- Element by element, a row that holds one number below 2^cw. -/
theorem elemAt_ofNat {cw x : Nat} (hx : x < 2 ^ cw) {i : Nat} (hi : cw * i + cw ≤ 4096) :
    elemAt cw (BitVec.ofNat 4096 x) i = if i = 0 then x else 0 := by
  apply Nat.eq_of_testBit_eq
  intro k
  rw [testBit_elemAt, BitVec.getLsbD_ofNat]
  by_cases hk : k < cw
  · rw [decide_eq_true hk, decide_eq_true (by omega), Bool.true_and, Bool.true_and]
    by_cases h0 : i = 0
    · simp [h0]
    · rw [if_neg h0, Nat.zero_testBit]
      refine Nat.testBit_lt_two_pow (hx.trans_le (Nat.pow_le_pow_right two_pos ?_))
      calc cw = cw * 1 := (Nat.mul_one _).symm
        _ ≤ cw * i := Nat.mul_le_mul_left _ (Nat.pos_of_ne_zero h0)
        _ ≤ cw * i + k := Nat.le_add_right ..
  · rw [decide_eq_false hk, Bool.false_and]
    split
    · exact (Nat.testBit_lt_two_pow (hx.trans_le (Nat.pow_le_pow_right two_pos (not_lt.mp hk)))).symm
    · rw [Nat.zero_testBit]

/-- Bit by bit, a predicate in a row. -/
theorem elemAt_setWidth_pred (v : Pred) {i : Nat} (hi : i < 4096) :
    elemAt 1 (v.setWidth 4096) i = if i < 512 ∧ v.getLsbD i = true then 1 else 0 := by
  apply Nat.eq_of_testBit_eq
  intro k
  rw [testBit_elemAt, BitVec.getLsbD_setWidth, Nat.one_mul]
  cases k with
  | zero =>
    by_cases hj : i < 512
    · cases v.getLsbD i <;> simp [hj, hi]
    · simp [hj, BitVec.getLsbD_of_ge v i (by omega)]
  | succ k =>
    have hone : (1 : Nat).testBit (k + 1) = false := Nat.testBit_lt_two_pow (Nat.one_lt_two_pow (Nat.succ_ne_zero k))
    split <;> simp [hone]

end Sys2Proof.Machine

namespace Sys2Proof.Safety

open Sys2Proof Sys2Proof.Machine

/-- One result of a row in flight. -/
theorem plainFly_launch {r : PlainRow} {c : Ctx} {file : RegFile} {reg : Nat} {val : Row} {pois : Bool}
    (hregs : r.regs = [(file, reg)]) (hgen : r.gen = none) (hpois : pois = r.pois 0)
    (hval : ∀ i, i < 4096 / r.size 0 → elemAt (r.size 0) val i = r.elem 0 i) :
    PlainFly r c (launch file reg val pois r.flags 0 (r.byp 0) r.lat c) := by
  have hd : launch file reg val pois r.flags 0 (r.byp 0) r.lat c = withFlights r.cl none
      [{ launched file reg val pois r.flags 0 (r.byp 0) (c.pos.clk + r.lat - 1) with seq := c.fly.seq }] 1 c := rfl
  rw [hd, ← hgen]
  refine ⟨?_, fun j x => ?_, ?_, ?_⟩
  · rw [drop_withFlights, hregs]
    rfl
  · rw [drop_withFlights]
    cases j with
    | zero =>
      intro h
      obtain rfl := Option.some.inj h
      exact hval
    | succ j => exact fun h => nomatch h
  · rw [drop_withFlights, hregs, hpois]
    cases h : r.pois 0 <;> simp [launched, h]
  · rw [hregs]
    exact withFlights_rest ..

/-- The statement of the other vector instructions: their row is in flight. -/
def DeliversPlain (i : Instr) (s : State) (r : PlainRow) : Prop :=
  Answers i s fun t => Frame [curId s] [] [] s t ∧ PlainFly r (cur s) (ctxOf t (curId s))

/-! ## Predicates -/

/-- A predicate whose bits, poison and flags are those of its row. -/
theorem plainFly_landPred {c : Ctx} {cl : Cluster} {f : VSyl} {srcs whole pois : Bool} {flags : FlagSet}
    {active res : Nat → Bool} {v : Pred}
    (hv : ∀ j, j < 512 → v.getLsbD j =
      if active j then res j else f.z != 1 && (govPred c cl (f.d.toNat % 8)).getLsbD j)
    (hpois : pois = (srcs || govPois c cl f.p.toNat || (f.z != 1 && !whole && govPois c cl (f.d.toNat % 8)))) :
    PlainFly (rowPred c cl f srcs flags active whole res) c (landPred cl f.d.toNat v pois flags c) := by
  refine plainFly_launch (r := rowPred c cl f srcs flags active whole res) rfl rfl hpois fun i hi => ?_
  rw [show (rowPred c cl f srcs flags active whole res).size 0 = 1 from rfl] at hi ⊢
  rw [elemAt_setWidth_pred v (by omega)]
  refine if_congr (and_congr_right fun hlt => ?_) rfl rfl
  rw [hv i hlt]

/-- The elements that a bit of a predicate stands for are elements of the register (R75). -/
theorem place_lt (fm : Fmt) {j : Nat} (hj : j < 512) :
    (4096 / fm.container ≤ 512 → j * (4096 / fm.container) / 512 < 4096 / fm.container) ∧
      (¬4096 / fm.container ≤ 512 → 2 * j + 1 < 4096 / fm.container) := by
  obtain h | h | h | h := container_cases fm <;> rw [h] <;> omega

/-- The element that bit `j` of a predicate stands for, the first of two where two share it (R75). -/
def placeOfBit (n j : Nat) : Nat := if n ≤ 512 then j * n / 512 else 2 * j

theorem rowElems_eq (c : Ctx) (cl : Cluster) (f : VSyl) (srcs : Bool) (flags : FlagSet) (res : Nat → Bool) :
    rowElems c cl f srcs flags res = rowPred c cl f srcs flags
      (fun j => govBit (tElems f) (govPred c cl f.p.toNat) (placeOfBit (tElems f) j))
      ((List.range (tElems f)).all (govBit (tElems f) (govPred c cl f.p.toNat)))
      fun j => if tElems f ≤ 512 then res (placeOfBit (tElems f) j)
        else res (placeOfBit (tElems f) j) && res (placeOfBit (tElems f) j + 1) := rfl

/-- A predicate that element results write, under the elements that are active (R75, R326, R355). -/
theorem plainFly_predWrite {c : Ctx} {cl : Cluster} {f : VSyl} {srcs : Bool} {flags : FlagSet} {res res' : Nat → Bool}
    (hres : ∀ i, i < tElems f → res i = res' i) :
    PlainFly (rowElems c cl f srcs flags res') c (landPred cl f.d.toNat
      (predWrite (tElems f) (govPred c cl f.p.toNat) (f.z == 1) (govPred c cl (f.d.toNat % 8)) res)
      (predPois c cl f (tElems f) srcs) flags c) := by
  have hz : ∀ z : BitVec 1, (z == 0) = (z != 1) := by decide
  rw [rowElems_eq]
  refine plainFly_landPred (fun j hj => ?_) ?_
  · obtain ⟨hle, hgt⟩ := place_lt (typeFmt f.t.toNat) hj
    rw [← tElems] at hle hgt
    rw [getLsbD_predWrite _ _ _ _ _ hj, placeOfBit]
    by_cases hn : tElems f ≤ 512
    · simp only [hn, if_true, hres _ (hle hn)]
      rfl
    · simp only [hn, if_false, hres _ (hgt hn), hres (2 * j) (Nat.lt_of_succ_lt (hgt hn))]
      rfl
  · have hany : someInactive (tElems f) (govPred c cl f.p.toNat) =
        !(List.range (tElems f)).all (govBit (tElems f) (govPred c cl f.p.toNat)) := by
      rw [someInactive, List.not_all_eq_any_not]
    rw [predPois, hz, hany]

theorem bne_allOnes (p : Pred) : (p != BitVec.allOnes 512) = !(List.range 512).all p.getLsbD := by
  have hiff : p = BitVec.allOnes 512 ↔ ∀ j ∈ List.range 512, p.getLsbD j = true := by
    constructor
    · rintro rfl j hj
      rw [BitVec.getLsbD_allOnes, decide_eq_true (List.mem_range.mp hj)]
    · exact fun h => BitVec.eq_of_getLsbD_eq fun j hj => by
        rw [h j (List.mem_range.mpr hj), BitVec.getLsbD_allOnes, decide_eq_true hj]
  rw [bne, Bool.eq_iff_iff, Bool.not_eq_true', Bool.not_eq_true', beq_eq_false_iff_ne, ← Bool.not_eq_true,
    List.all_eq_true, ne_eq, hiff]

/-- A predicate bit by bit under P (R325). -/
theorem plainFly_predOp {c : Ctx} {cl : Cluster} {f : VSyl} {two : Bool} {op : Bool → Bool → Bool} {r : Pred}
    (hr : ∀ j, j < 512 → r.getLsbD j =
      op ((govPred c cl (f.a.toNat % 8)).getLsbD j) ((govPred c cl (f.b.toNat % 8)).getLsbD j)) :
    PlainFly (rowBits c cl f two op) c (landPred cl f.d.toNat
      ((r &&& govPred c cl f.p.toNat) |||
        (if f.z = 1 then 0 else govPred c cl (f.d.toNat % 8) &&& ~~~govPred c cl f.p.toNat))
      (govPois c cl (f.a.toNat % 8) || (two && govPois c cl (f.b.toNat % 8)) || govPois c cl f.p.toNat ||
        (f.z == 0 && govPred c cl f.p.toNat != BitVec.allOnes 512 && govPois c cl (f.d.toNat % 8))) 0 c) := by
  have hz : ∀ z : BitVec 1, (z == 0) = (z != 1) := by decide
  refine plainFly_landPred (fun j hj => ?_) ?_
  · rw [BitVec.getLsbD_or, BitVec.getLsbD_and, hr j hj]
    by_cases hz : f.z = 1
    · rw [if_pos hz, show (f.z != 1) = false by simp [hz]]
      cases (govPred c cl f.p.toNat).getLsbD j <;> simp
    · rw [if_neg hz, BitVec.getLsbD_and, BitVec.getLsbD_not, decide_eq_true hj, bne_iff_ne.mpr hz]
      cases (govPred c cl f.p.toNat).getLsbD j <;> simp
  · rw [bne_allOnes, hz]

/-- An instruction whose effect is a predicate bit by bit. -/
theorem delivers_predOp {i : Instr} {s : State} {cl : Cluster} {f : VSyl} {two : Bool} {op : Bool → Bool → Bool}
    {opw : Pred → Pred → Pred} (hwf : i.wf = true) (hexec : exec i s = predOp cl (enc i) f two opw s)
    (hop : ∀ x y : Pred, ∀ j, j < 512 → (opw x y).getLsbD j = op (x.getLsbD j) (y.getLsbD j)) :
    DeliversPlain i s (rowBits (cur s) cl f two op) :=
  answers_vecStep hwf hexec rfl (plainFly_predOp (hop _ _))

/-- The conditions of R355 on whole numbers. -/
def intCond (cc : Nat) (x y : Int) : Bool :=
  match cc with
  | 0 => decide (x = y)
  | 1 => decide (x ≠ y)
  | 2 => decide (x < y)
  | 3 => decide (x ≤ y)
  | 4 => decide (y < x)
  | _ => decide (y ≤ x)

theorem condHolds_ofInt {cc : Nat} (hcc : cc < 6) (x y : Int) :
    condHolds cc (Val.ofInt x) (Val.ofInt y) = intCond cc x y := by
  simp only [condHolds, isNan_ofInt, ltVal_ofInt, Bool.or_self, Bool.not_false, Bool.true_and, Bool.false_or]
  rw [Bool.eq_iff_iff]
  interval_cases cc <;> simp [intCond]; omega

theorem elemCond_int {t : Nat} (ht : t < 8) (cc a b : Nat) : elemCond t cc a b =
    intCond cc (elemInt (t < 4) (typeFmt t).width a) (elemInt (t < 4) (typeFmt t).width b) := if_pos ht

theorem condHolds_elem {t cc : Nat} (hcc : t < 8 → cc < 6) (a b : Nat) :
    condHolds cc (decodeVal (typeFmt t) a) (decodeVal (typeFmt t) b) = elemCond t cc a b := by
  by_cases h8 : t < 8
  · rw [elemCond_int h8, typeFmt_int h8, decodeVal_int, decodeVal_int, condHolds_ofInt (hcc h8)]
    rfl
  · rw [elemCond, if_neg h8]

theorem conditions_of_encVcmp {f : VSyl} (h : (encVcmp f).illegal = false) : f.t.toNat < 8 → f.m.toNat < 6 := by
  simp only [encVcmp, Bool.or_eq_false_iff, Bool.and_eq_false_iff, decide_eq_false_iff_not] at h
  omega

/-- The first element that is hit is the one before which none is. -/
theorem find?_range_eq_some_iff (hit : Nat → Bool) {n i : Nat} (hi : i < n) :
    ((List.range n).find? hit == some i) = (hit i && !(List.range i).any hit) := by
  rw [Bool.eq_iff_iff, beq_iff_eq, List.find?_range_eq_some]
  simp [hi]

/-- An element is below a count where it is below the count held between zero and all (R326). -/
theorem lt_clamp_iff {k n : Nat} (hk : k < n) (v : Int) : (k : Int) < max 0 (min v n) ↔ (k : Int) < v := by
  omega

/-- The predicate family delivers its rows (R325, R326, R355). -/
theorem predicate_delivers {i : Instr} {s : State} {r : PlainRow} (hwf : i.wf = true)
    (hfam : vecFamily i = some .predicate) (hr : plainRow i (cur s) = some r) : DeliversPlain i s r := by
  cases i with
  | vcmp cl f =>
    obtain rfl := Option.some.inj hr
    have hexec : exec (.vcmp cl f) s = execVcmp cl f s := rfl
    unfold execVcmp at hexec
    exact answers_vecStep hwf hexec rfl
      (plainFly_predWrite fun _ _ => condHolds_elem (conditions_of_encVcmp (not_illegal_of_wf hwf)) _ _)
  | pand cl f =>
    obtain rfl := Option.some.inj hr
    have hexec : exec (.pand cl f) s = execPand cl f s := rfl
    unfold execPand at hexec
    exact delivers_predOp hwf hexec fun x y j _ => BitVec.getLsbD_and
  | por cl f =>
    obtain rfl := Option.some.inj hr
    have hexec : exec (.por cl f) s = execPor cl f s := rfl
    unfold execPor at hexec
    exact delivers_predOp hwf hexec fun x y j _ => BitVec.getLsbD_or
  | pxor cl f =>
    obtain rfl := Option.some.inj hr
    have hexec : exec (.pxor cl f) s = execPxor cl f s := rfl
    unfold execPxor at hexec
    exact delivers_predOp hwf hexec fun x y j _ => BitVec.getLsbD_xor
  | pandn cl f =>
    obtain rfl := Option.some.inj hr
    have hexec : exec (.pandn cl f) s = execPandn cl f s := rfl
    unfold execPandn at hexec
    refine delivers_predOp hwf hexec fun x y j hj => ?_
    rw [BitVec.getLsbD_and, BitVec.getLsbD_not, decide_eq_true hj, Bool.true_and]
  | pmov cl f =>
    obtain rfl := Option.some.inj hr
    have hexec : exec (.pmov cl f) s = execPmov cl f s := rfl
    unfold execPmov at hexec
    exact delivers_predOp hwf hexec fun x y j _ => rfl
  | pset cl f =>
    obtain rfl := Option.some.inj hr
    have hexec : exec (.pset cl f) s = execPset cl f s := rfl
    unfold execPset predElems at hexec
    refine answers_vecStep hwf hexec rfl (plainFly_predWrite fun k hk => ?_)
    exact decide_eq_decide.mpr (lt_clamp_iff hk _).symm
  | pfirst cl f =>
    obtain rfl := Option.some.inj hr
    have hexec : exec (.pfirst cl f) s = execPfirst cl f s := rfl
    unfold execPfirst predElems at hexec
    exact answers_vecStep hwf hexec rfl (plainFly_predWrite fun k hk => find?_range_eq_some_iff _ hk)
  | _ => cases hfam

/-! ## Scalars -/

theorem setWidth_eq_ofNat (v : W64) : v.setWidth 4096 = BitVec.ofNat 4096 v.toNat :=
  BitVec.eq_of_toNat_eq (by rw [BitVec.toNat_setWidth, BitVec.toNat_ofNat])

/-- A scalar result whose word is the number of its row. -/
theorem plainFly_scalar {c : Ctx} {cl : Cluster} {f : VSyl} {lat x : Nat} {pois : Bool} {v : Int}
    (hx : x = (v % 2 ^ 64).toNat) : PlainFly (rowScalar cl f lat pois v) c
      (launch .scalar f.d.toNat (BitVec.ofNat 4096 x) pois 0 0 none lat c) := by
  refine plainFly_launch (r := rowScalar cl f lat pois v) rfl rfl rfl fun i hi => ?_
  have hlt : x < 2 ^ 64 := by omega
  change i < 4096 / 64 at hi
  change elemAt 64 _ i = if i = 0 then (v % 2 ^ 64).toNat else 0
  rw [elemAt_ofNat hlt (by omega), hx]

theorem type_le_of_encVbcl {f : VSyl} {ext : Bool} (h : (encVbcl f ext).illegal = false) : f.t.toNat ≤ 10 := by
  simp only [encVbcl, Bool.or_eq_false_iff] at h
  obtain ⟨⟨ht, _⟩, _⟩ := h
  exact (le_of_tIn ht).2

/-- The word of an extracted element, sign-extended for the signed types (R357). -/
theorem extWord_eq {t x : Nat} (ht : t ≤ 10) (hx : x < 2 ^ (typeFmt t).container) :
    (if (typeFmt t).isInt then BitVec.ofInt 64 (decodeVal (typeFmt t) x).toInt else BitVec.ofNat 64 x).toNat =
      ((if t < 4 then elemInt true (typeFmt t).width x else (x : Int)) % 2 ^ 64).toNat := by
  rw [isInt_typeFmt ht, ← width_typeFmt ht] at *
  by_cases h8 : t < 8
  · rw [if_pos (decide_eq_true h8), BitVec.toNat_ofInt]
    rw [typeFmt_int h8, Fmt.width] at hx
    rw [typeFmt_int h8, toInt_decodeVal_int]
    by_cases h4 : t < 4
    · rw [if_pos h4, decide_eq_true h4]
      rfl
    · rw [if_neg h4, decide_eq_false h4, elemInt, if_neg (by simp), Nat.mod_eq_of_lt hx]
      rfl
  · rw [if_neg (by simpa using h8), if_neg (by omega), BitVec.toNat_ofNat]
    omega

/-- A count of elements is a word. -/
theorem count_eq {fm : Fmt} (p : Nat → Bool) : ((List.range (4096 / fm.container)).filter p).length =
    ((((List.range (4096 / fm.container)).filter p).length : Int) % 2 ^ 64).toNat := by
  have hle := (List.length_filter_le p (List.range (4096 / fm.container))).trans (List.length_range).le
  have hn : 4096 / fm.container ≤ 4096 := Nat.div_le_self ..
  omega

/-- A seeded generator is in place at once, with no result in flight (R366). -/
theorem plainFly_seed {r : PlainRow} {c : Ctx} {g : Row} (hregs : r.regs = []) (hgen : r.gen = some g) :
    PlainFly r c (setGen r.cl [g] c) := by
  have hd : setGen r.cl [g] c = withFlights r.cl r.gen [] 0 c := by
    rw [withFlights, List.append_nil, hgen]
    rfl
  rw [hd]
  refine ⟨?_, fun j x => ?_, ?_, ?_⟩
  · rw [drop_withFlights, hregs]
    rfl
  · rw [drop_withFlights]
    exact fun h => nomatch h
  · rw [drop_withFlights, hregs]
    rfl
  · rw [hregs]
    exact withFlights_rest ..

/-- The scalar family delivers its rows (R326, R357, R366). -/
theorem scalar_delivers {i : Instr} {s : State} {r : PlainRow} (hwf : i.wf = true)
    (hfam : vecFamily i = some .scalar) (hr : plainRow i (cur s) = some r) : DeliversPlain i s r := by
  cases i with
  | vext cl f =>
    obtain rfl := Option.some.inj hr
    have hexec : exec (.vext cl f) s = execVext cl f s := rfl
    unfold execVext at hexec
    refine answers_vecStep hwf hexec rfl ?_
    simp only [setWidth_eq_ofNat]
    exact plainFly_scalar (extWord_eq (type_le_of_encVbcl (not_illegal_of_wf hwf)) (elemAt_lt ..))
  | pcnt cl f =>
    obtain rfl := Option.some.inj hr
    have hexec : exec (.pcnt cl f) s = execPcnt cl f s := rfl
    unfold execPcnt at hexec
    exact answers_vecStep hwf hexec rfl (plainFly_scalar (count_eq _))
  | vrngs cl f =>
    simp only [plainRow] at hr
    split at hr
    · cases hr
    · next hpois =>
      obtain rfl := Option.some.inj hr
      have hexec : exec (.vrngs cl f) s = execVrngs cl f s := rfl
      unfold execVrngs at hexec
      exact answers_vecStep hwf hexec ((chk_eq_nil ..).mpr (Bool.eq_false_iff.mpr hpois)) (plainFly_seed rfl rfl)
  | _ => cases hfam

end Sys2Proof.Safety

/-! SUPPORT. The conditions of R355 over the numbers, and the generator (R100, R367). -/

namespace Sys2Proof.Safety

open Sys2Proof Sys2Proof.Machine

/-! ## Conditions -/

/-- A value that nothing is left out of: every value decoded is one. -/
def Exact (v : Val) : Prop :=
  match v with
  | .num _ _ _ more => more = false
  | _ => True

theorem exact_decodeFlt (f : Flt) (x : Nat) : Exact (decodeFlt f x) := by
  unfold decodeFlt
  dsimp only
  split
  · rfl
  · split
    · split <;> trivial
    · split
      · trivial
      · split
        · split <;> rfl
        · rfl

theorem exact_decodeVal (fm : Fmt) (x : Nat) : Exact (decodeVal fm x) := by
  cases fm with
  | int signed w => rfl
  | flt f => exact exact_decodeFlt f x
  | scale =>
    rw [decodeVal]
    split
    · trivial
    · rfl

/-- The place of a number or infinity in the order of the rationals with two ends. -/
def rankOf (v : Val) : WithBot (WithTop Rat) :=
  match v with
  | .inf true => ⊥
  | .inf false => ((⊤ : WithTop Rat) : WithBot (WithTop Rat))
  | v => (((numberOf v).getD 0 : WithTop Rat) : WithBot (WithTop Rat))

/-- The rational of a sign, a mantissa and an exponent. -/
def ratOf (n : Bool) (m : Nat) (e : Int) : Rat := if n then -((m : Rat) * 2 ^ e) else (m : Rat) * 2 ^ e

theorem numberOf_num (n : Bool) (m : Nat) (e : Int) : numberOf (.num n m e false) = some (ratOf n m e) := by
  cases n <;> rfl

/-- A number in multiples of a unit no greater than its own. -/
theorem scaled_mul {n : Bool} {m : Nat} {e u : Int} (h : m = 0 ∨ u ≤ e) :
    ((Val.num n m e false).scaled u : Rat) * 2 ^ u = ratOf n m e := by
  have hmag : (((m : Int) * 2 ^ (e - u).toNat : Int) : Rat) * 2 ^ u = (m : Rat) * 2 ^ e := by
    obtain rfl | h := h
    · simp
    · obtain ⟨k, rfl⟩ : ∃ k : Nat, e = u + k := ⟨(e - u).toNat, by omega⟩
      rw [add_sub_cancel_left, Int.toNat_natCast, zpow_add₀ two_ne_zero, zpow_natCast]
      push_cast
      ring
  rw [Val.scaled, ratOf, ← hmag]
  cases n
  · rfl
  · simp

/-- The unit of two numbers is no greater than that of either that is not zero. -/
theorem unitOf_le (n n' : Bool) (m m' : Nat) (e e' : Int) :
    (m = 0 ∨ unitOf (.num n m e false) (.num n' m' e' false) ≤ e) ∧
      (m' = 0 ∨ unitOf (.num n m e false) (.num n' m' e' false) ≤ e') := by
  cases m <;> cases m' <;> simp [unitOf]

theorem ltVal_num (n n' : Bool) (m m' : Nat) (e e' : Int) :
    ltVal (.num n m e false) (.num n' m' e' false) = decide (ratOf n m e < ratOf n' m' e') := by
  obtain ⟨h, h'⟩ := unitOf_le n n' m m' e e'
  have hpos : (0 : Rat) < 2 ^ unitOf (.num n m e false) (.num n' m' e' false) := by positivity
  rw [← scaled_mul h, ← scaled_mul h']
  refine decide_eq_decide.mpr ?_
  rw [mul_lt_mul_iff_of_pos_right hpos, Int.cast_lt]

theorem rat_lt_top (q : Rat) : ((q : WithTop Rat) : WithBot (WithTop Rat)) < ⊤ :=
  WithBot.coe_lt_coe.mpr (WithTop.coe_lt_top q)

/-- The order of numbers and infinities is that of their places. -/
theorem less_iff {a b : Val} (ha : Exact a) (hb : Exact b) (hna : a.isNan = false) (hnb : b.isNan = false) :
    Less a b ↔ rankOf a < rankOf b := by
  cases a with
  | nan n s => cases hna
  | inf n =>
    cases b with
    | nan n s => cases hnb
    | inf n' => cases n <;> cases n' <;> simp [Less, rankOf]
    | num n' m' e' more' => cases n <;> simp [Less, rankOf]
  | num n m e more =>
    obtain rfl : more = false := ha
    cases b with
    | nan n s => cases hnb
    | inf n' =>
      cases n'
      · simp only [Less, rankOf]
        simpa using rat_lt_top _
      · simp [Less, rankOf]
    | num n' m' e' more' =>
      obtain rfl : more' = false := hb
      simp [Less, rankOf, numberOf_num]

theorem equals_iff {a b : Val} (ha : Exact a) (hb : Exact b) (hna : a.isNan = false) (hnb : b.isNan = false) :
    Equals a b ↔ rankOf a = rankOf b := by
  cases a with
  | nan n s => cases hna
  | inf n =>
    cases b with
    | nan n s => cases hnb
    | inf n' => cases n <;> cases n' <;> simp [Equals, rankOf, numberOf, magnitudeOf]
    | num n' m' e' more' => cases n <;> simp [Equals, rankOf, numberOf, magnitudeOf]
  | num n m e more =>
    obtain rfl : more = false := ha
    cases b with
    | nan n s => cases hnb
    | inf n' => cases n' <;> simp [Equals, rankOf, numberOf, magnitudeOf]
    | num n' m' e' more' =>
      obtain rfl : more' = false := hb
      simp [Equals, rankOf, numberOf_num, eq_comm]

theorem ltVal_iff {a b : Val} (ha : Exact a) (hb : Exact b) (hna : a.isNan = false) (hnb : b.isNan = false) :
    ltVal a b = true ↔ rankOf a < rankOf b := by
  cases a with
  | nan n s => cases hna
  | inf n =>
    cases b with
    | nan n s => cases hnb
    | inf n' => cases n <;> cases n' <;> simp [ltVal, rankOf]
    | num n' m' e' more' => cases n <;> simp [ltVal, rankOf]
  | num n m e more =>
    obtain rfl : more = false := ha
    cases b with
    | nan n s => cases hnb
    | inf n' =>
      cases n'
      · simp only [ltVal, rankOf]
        simpa using rat_lt_top _
      · simp [ltVal, rankOf]
    | num n' m' e' more' =>
      obtain rfl : more' = false := hb
      simp [ltVal_num, rankOf, numberOf_num]

theorem not_less_nan {a b : Val} (h : a.isNan = true ∨ b.isNan = true) : ¬Less a b := by
  cases a <;> cases b <;> simp_all [Less, Val.isNan]

theorem not_equals_nan {a b : Val} (h : a.isNan = true ∨ b.isNan = true) : ¬Equals a b := by
  cases a <;> cases b <;> simp_all [Equals, Val.isNan, numberOf, magnitudeOf]

/-- The conditions are those of their table. -/
theorem conditionsByTable : ConditionsByTable := by
  intro fm x y a b un
  have ha : Exact a := exact_decodeVal fm x
  have hb : Exact b := exact_decodeVal fm y
  by_cases hun : a.isNan = true ∨ b.isNan = true
  · have hun' : b.isNan = true ∨ a.isNan = true := hun.symm
    have hor : (a.isNan || b.isNan) = true := by rw [Bool.or_eq_true]; exact hun
    simp only [condHolds, hor, not_less_nan hun, not_less_nan hun', not_equals_nan hun, un, hun]
    simp
  · obtain ⟨hna, hnb⟩ := not_or.mp hun
    rw [Bool.not_eq_true] at hna hnb
    have hlt : ltVal a b = decide (rankOf a < rankOf b) := by
      rw [← Bool.decide_coe (ltVal a b), decide_eq_decide, ltVal_iff ha hb hna hnb]
    have hgt : ltVal b a = decide (rankOf b < rankOf a) := by
      rw [← Bool.decide_coe (ltVal b a), decide_eq_decide, ltVal_iff hb ha hnb hna]
    simp only [less_iff ha hb hna hnb, less_iff hb ha hnb hna, equals_iff ha hb hna hnb, condHolds, hlt, hgt, hna, hnb,
      un]
    obtain h | h | h := lt_trichotomy (rankOf a) (rankOf b)
    · simp [h, h.ne, h.not_gt]
    · simp [h]
    · simp [h, h.ne', h.not_gt]

end Sys2Proof.Safety

/-! SUPPORT. The generator's lanes and draws (R100, R101, R367), and the theorem that settles O36. -/

namespace Sys2Proof.Safety

open Sys2Proof Sys2Proof.Machine

/-! ## Lanes -/

/-- The value of lane `i` of a row of lanes. -/
theorem elemAt_lanes {f : Nat → Nat} {i : Nat} (hi : i < 128) (hf : f i < 2 ^ 32) :
    elemAt 32 (rowOf 32 ((List.range 128).map f)) i = f i := by
  rw [elemAt_rowOf _ (by omega)]
  simpa [hi] using hf

theorem laneSeed_lt {seed : Nat} (h : seed < 2 ^ 32) (i : Nat) : laneSeed seed i < 2 ^ 32 := by
  unfold laneSeed
  dsimp only
  split
  · decide
  · exact Nat.xor_lt_two_pow h (Nat.mod_lt _ (by decide))

/-- A lane's step in numbers. -/
theorem toNat_laneStep {x : Nat} (h : x < 2 ^ 32) :
    let y := x ^^^ (x * 2 ^ 13 % 2 ^ 32)
    let z := y ^^^ (y / 2 ^ 17)
    (laneStep (BitVec.ofNat 32 x)).toNat = z ^^^ (z * 2 ^ 5 % 2 ^ 32) := by
  simp only [laneStep, BitVec.toNat_xor, BitVec.toNat_shiftLeft, BitVec.toNat_ushiftRight, Nat.shiftLeft_eq,
    Nat.shiftRight_eq_div_pow, BitVec.toNat_ofNat, Nat.mod_eq_of_lt h]

theorem elemAt_genSeed {seed i : Nat} (h : seed < 2 ^ 32) (hi : i < 128) :
    elemAt 32 (genSeed seed) i = laneSeed seed i :=
  elemAt_lanes hi (laneSeed_lt h i)

theorem elemAt_genStep (g : Row) {i : Nat} (hi : i < 128) :
    elemAt 32 (genStep g) i = (laneStep (BitVec.ofNat 32 (elemAt 32 g i))).toNat := by
  rw [genStep, elemsOf, List.map_map]
  exact elemAt_lanes (f := fun j => (laneStep (BitVec.ofNat 32 (elemAt 32 g j))).toNat) hi (BitVec.isLt _)

/-! ## Draws -/

/-- A number below 2^24, shifted until its first bit is bit 23. -/
theorem shifted_bounds {m : Nat} (hm : m ≠ 0) (h : m < 2 ^ 24) :
    m.log2 ≤ 23 ∧ 2 ^ 23 ≤ m * 2 ^ (23 - m.log2) ∧ m * 2 ^ (23 - m.log2) < 2 ^ 24 := by
  have hlog : m.log2 ≤ 23 := Nat.lt_succ_iff.mp ((Nat.log2_lt hm).mpr h)
  refine ⟨hlog, ?_, ?_⟩
  · calc 2 ^ 23 = 2 ^ m.log2 * 2 ^ (23 - m.log2) := by rw [← pow_add]; congr 1; omega
      _ ≤ m * 2 ^ (23 - m.log2) := Nat.mul_le_mul_right _ (Nat.log2_self_le hm)
  · calc m * 2 ^ (23 - m.log2) < 2 ^ (m.log2 + 1) * 2 ^ (23 - m.log2) :=
          Nat.mul_lt_mul_of_pos_right Nat.lt_log2_self (by positivity)
      _ = 2 ^ 24 := by rw [← pow_add]; congr 1; omega

/-- A number below 2^24 in units of 2^(-24) is a value of f32: its encoding. -/
theorem roundFlt_draw {m : Nat} (hm : m ≠ 0) (h : m < 2 ^ 24) :
    (roundFlt f32 (.rne 0) (.num false m (-24) false)).1 = (m.log2 + 102) * 2 ^ 23 + m * 2 ^ (23 - m.log2) := by
  obtain ⟨hlog, hlo, hhi⟩ := shifted_bounds hm h
  have hu : max ((m.log2 : Int) + -24) f32.emin - f32.m = (m.log2 : Int) - 47 := by
    simp only [Flt.emin, f32]; omega
  have hsplit : splitAt m (-24) ((m.log2 : Int) - 47) false = (m * 2 ^ (23 - m.log2), 0, 0, false) := by
    rw [splitAt, if_pos (by omega), show ((-24 : Int) - ((m.log2 : Int) - 47)).toNat = 23 - m.log2 by omega]
  have hup : roundsUp (.rne 0) false (m * 2 ^ (23 - m.log2)) 0 0 false = false := rfl
  have hexp : ((m.log2 : Int) - 47 + f32.m - f32.emin).toNat = m.log2 + 102 := by
    simp only [Flt.emin, f32]; omega
  have hmax : f32.maxCode false = 255 * 2 ^ 23 - 1 := rfl
  have he : f32.e ≠ 0 := by decide
  have hfits : ¬(m.log2 + 102) * 2 ^ f32.m + m * 2 ^ (23 - m.log2) > 255 * 2 ^ 23 - 1 := by
    simp only [f32]; omega
  have hnormal : ¬(m.log2 + 102) * 2 ^ f32.m + m * 2 ^ (23 - m.log2) < 2 ^ f32.m := by
    simp only [f32]; omega
  have hsign (n : Nat) : f32.withSign false n = n := rfl
  simp only [roundFlt, hm, he, false_and, if_false, Bool.false_and, hu, hsplit, hup, hexp, hmax, Bool.false_eq_true,
    hfits, hnormal, decide_false, Bool.and_false, hsign]
  rfl

/-- The encoding of a normal value of f32. -/
theorem decodeFlt_normal {k q : Nat} (hk : k < 254) (hlo : 2 ^ 23 ≤ q) (hhi : q < 2 ^ 24) :
    decodeFlt f32 (k * 2 ^ 23 + q) = .num false q ((k : Int) - 149) false := by
  obtain ⟨r, rfl⟩ : ∃ r, q = 2 ^ 23 + r := ⟨q - 2 ^ 23, by omega⟩
  have hman : (k * 2 ^ 23 + (2 ^ 23 + r)) % 2 ^ f32.m = r := by
    simp only [f32]; omega
  have hexp : (k * 2 ^ 23 + (2 ^ 23 + r)) / 2 ^ f32.m % 2 ^ f32.e = k + 1 := by
    simp only [f32]; omega
  have hsign : (k * 2 ^ 23 + (2 ^ 23 + r)) / 2 ^ (f32.m + f32.e) % 2 = 0 := by
    simp only [f32]; omega
  have htop : k + 1 ≠ 2 ^ f32.e - 1 := by
    simp only [f32]; omega
  have he : f32.e ≠ 0 := by decide
  simp only [decodeFlt, hman, hexp, hsign, htop, he, if_false, and_false, false_and, Nat.succ_ne_zero]
  congr 1
  simp only [f32]
  omega

/-- A draw in [0, 1) is its first 24 bits in units of 2^(-24). -/
theorem magnitudeOf_rngElem {x : Nat} (hx : x < 2 ^ 32) :
    magnitudeOf (decodeFlt f32 (rngElem 8 x)) = some (false, ((x / 2 ^ 8 : Nat) : Rat) * 2 ^ (-24 : Int)) := by
  rw [rngElem, if_neg (by decide), show (256 : Nat) = 2 ^ 8 by rfl]
  have hm : x / 2 ^ 8 < 2 ^ 24 := by omega
  generalize x / 2 ^ 8 = m at *
  by_cases h0 : m = 0
  · subst h0
    simp [roundFlt, decodeFlt, magnitudeOf, f32, Flt.withSign]
  · obtain ⟨hlog, hlo, hhi⟩ := shifted_bounds h0 hm
    rw [roundFlt_draw h0 hm, decodeFlt_normal (by omega) hlo hhi, magnitudeOf]
    congr 2
    rw [Nat.cast_mul, mul_assoc, Nat.cast_pow, ← zpow_natCast, Nat.cast_two, ← zpow_add₀ two_ne_zero]
    congr 2
    omega

/-- The generator is seeded, steps and draws as its rules say. -/
theorem generatorByRule : GeneratorByRule := by
  refine ⟨fun seed i hs hi => elemAt_genSeed hs hi, fun g i hi => ?_, fun x hx => ⟨rfl, magnitudeOf_rngElem hx⟩⟩
  rw [elemAt_genStep g hi]
  exact toNat_laneStep (Nat.mod_lt _ (by decide))

/-- Settles O36: every form has its row, and the tables of conditions and lanes are computed. -/
theorem predicatesAndScalarsDeliver : Obligations.PredicatesAndScalarsDeliver :=
  ⟨fun _ _ _ hwf hfam hr => hfam.elim (predicate_delivers hwf · hr) (scalar_delivers hwf · hr), conditionsByTable,
    generatorByRule⟩

end Sys2Proof.Safety
